-- ==== Sys2Proof/Word.lean ====
section
/-! DEFINITION. The machine words of the Kazord KZ50 (spec 00, R8) and their plainest arithmetic. -/

namespace Sys2Proof

/-- A byte: 8 bits (R8). -/
abbrev Byte := BitVec 8

/-- The manual's half: 16 bits (R8). -/
abbrev Half := BitVec 16

/-- The manual's word: 32 bits (R8). An instruction slot is one of these (R14). -/
abbrev W32 := BitVec 32

/-- A general register, an address and a dword: 64 bits (R8, R153). -/
abbrev Word := BitVec 64

end Sys2Proof
end

