-- ==== Sys2Proof/Config.lean ====
section
/-! DEFINITION. What the manual leaves open, as constants with no body: nothing can be proved of their values, so a
claim holds whatever they are. The log entries that declare them are 11 to 14. -/

namespace Sys2Proof.Config

/-- The n-th free dword (log 11): a value the manual calls undefined or does not state. -/
opaque freeWord : Nat → Word

/-- The n-th free byte at a place of an undefined range (log 11). -/
opaque freeByte : Nat → Nat → Byte

/-- Which of the events and bundles that may come next comes next in a cycle (the manual orders harts and units by its memory model
only; log 3). -/
opaque turn : Nat → Nat

/-- Whether a package number is a member of this package's pod (R64, log 12). -/
opaque podMember : Nat → Bool

/-- Spare rows of a memory channel (R58: "each channel keeps spare rows", no number given; log 12). -/
opaque spareRows : Nat → Nat

/-- Where the cluster-memory controller places a pack (R118, log 12). -/
opaque packPlace : Nat → Nat → Nat

/-- Where among the framed frames the 34,700 begin that Infield reserves for the overflow areas (R118 gives their number and not their
places; log 12). -/
opaque overflowSeed : Nat

/-- The dword of a channel's metadata with a training rate and a sparing map (R52 gives its contents and not their form; log 12). -/
opaque metaDword : Nat → List (Nat × Nat) → Nat → Word

/-- The sparing map that the eight dwords of a channel's metadata hold (R52, log 12). -/
opaque metaSparing : List Word → List (Nat × Nat)

/-- The device row of a channel that holds stripe slot Q (R58, log 12). -/
opaque rowOfSlot : Nat → Nat → Nat

/-- The f32 result of FRCP, FRSQ, FEXP2, FLOG2, FSIN, FCOS and FTANH where R203 gives a bound and no result (log 13), by
function number, type code and operand: the meaning takes it where it lies within the bound. -/
opaque special : Nat → Nat → Word → Word

end Sys2Proof.Config
end

