-- ==== Sys2Proof/Syntax.lean ====
section
/-! DEFINITION. The instructions and events of the KZ50: one constructor per row of spec/opcode_table.json.
An encodable row carries the fields of its instruction format (R19, R20) as they stand in the word, and the
literal word where one follows (R21). An event row has no encoding: it carries what distinguishes one
occurrence from another. -/

namespace Sys2Proof

/-- Fields of a CR word (R19), with the literal of R21 where the instruction takes one. -/
structure CROps where
  g : BitVec 4
  d : BitVec 6
  a : BitVec 6
  b : BitVec 6
  fa : BitVec 1
  fb : BitVec 1
  lit : Option W32
deriving DecidableEq, Repr

/-- Fields of a CI word (R19), with the literal of R21 or R22 where there is one. -/
structure CIOps where
  g : BitVec 4
  d : BitVec 6
  a : BitVec 6
  imm : BitVec 7
  fa : BitVec 1
  lit : Option W32
deriving DecidableEq, Repr

/-- Fields of a CL word (R19), with its literal (R21). -/
structure CLOps where
  g : BitVec 4
  d : BitVec 6
  imm : BitVec 14
  lit : Option W32
deriving DecidableEq, Repr

/-- Fields of a CB word (R19). L = 1 is refused for every CB instruction (R42); `lit` records it. -/
structure CBOps where
  g : BitVec 4
  disp : BitVec 20
  lit : Option W32
deriving DecidableEq, Repr

/-- Fields of a CX word (R19, R44). L = 1 is refused for SYS (R42); `lit` records it. -/
structure CXOps where
  g : BitVec 4
  d : BitVec 6
  a : BitVec 6
  lit : Option W32
deriving DecidableEq, Repr

/-- Fields of an A-slot word (R20): the yield hint, type, guard and three operands. -/
structure AOps where
  y : BitVec 1
  t : BitVec 3
  g : BitVec 4
  d : BitVec 6
  a : BitVec 6
  b : BitVec 6
deriving DecidableEq, Repr

/-- What a page-table walk is made for (R70). -/
inductive WalkKind where
  | read | write | fetch | leg
deriving DecidableEq, Repr

/-- What the code of R56, R106 or R234 finds in a sector or word; `accumulator` names a word of a core's accumulator memory, by
row × 128 + column, that holds an uncorrectable error (log 2). -/
inductive EccError where
  | none | corrected | uncorrectable
  | accumulator (word : Nat)
deriving DecidableEq, Repr

/-- One access at a serving point, a home slice, a scratchpad port or an expander: a read of `size` bytes,
or a write of the low `size` bytes of `value`, and what the code finds in the storage. -/
structure PortOp where
  write : Bool
  size : Nat
  value : Word
  err : EccError
deriving DecidableEq, Repr

/-- Kind of a one-sided request at a target memory port (R137, R138). -/
inductive RemoteKind where
  | get | put | acc | notify
deriving DecidableEq, Repr

/-- How a request to another package was answered (R80, R138): performed, with the events that its addition counts at the requester
(counter number and count), not resolved, or a poisoned element. -/
inductive RemoteAnswer where
  | complete (events : List (Nat × Nat))
  | failed
  | poisoned
deriving DecidableEq, Repr

/-- A request of another package that reaches a cluster's memory port (R137), with the capability it carries
(R319). `va` is the window pointer of the element, `cc` the notified counter and `core` the notified core; `fz` is the issuer's FZ
(R177); `srcPkg` and `tag` name the requester for the answer. -/
structure RemoteReq where
  cluster : Nat
  core : Nat
  cap : BitVec 16
  kind : RemoteKind
  va : Word
  fmt : BitVec 4
  value : Word
  cc : Nat
  scope : Nat
  fz : Bool
  srcPkg : Nat
  tag : Nat
deriving DecidableEq, Repr

/-- A pod-global request that reaches the ingress translation unit (R80): the pod address-space number, the
capability, the pointer and the access with the issuer's FZ (R177), and the core of the package that asks. -/
structure IngressReq where
  pas : Nat
  cap : BitVec 16
  kind : RemoteKind
  va : Word
  fmt : BitVec 4
  value : Word
  fz : Bool
  srcPkg : Nat
  srcCore : Nat
  tag : Nat
deriving DecidableEq, Repr

/-- A collective contribution of another package's member (R317, R319): its group, its rank and the digest, kind, element count,
format, operation, instance number and capability it was sent with, and its bytes. For a member of this package `ext` is none and the
bytes are read from the member's own source. -/
structure CollPart where
  gid : Nat
  rank : Nat
  ext : Option (List Byte)
  digest : W32
  kind : Nat
  count : Nat
  fmt : BitVec 4
  op : Nat
  inst : Nat
  cap : BitVec 16
deriving DecidableEq, Repr

/-- A task that travels (R351, R352): program address, payload, priority, group, launch. -/
structure TaskMsg where
  pc : Word
  p0 : Word
  p1 : Word
  p2 : Word
  p3 : Word
  pri : Nat
  group : BitVec 16
  launch : Option Nat
deriving DecidableEq, Repr

/-- Where an arriving task comes from: entry `i` of a core's outbound task buffer (R352), or another package, with the capability and the pod address-space number it carries (R79). -/
inductive TaskSource where
  | buffer (core i : Nat)
  | pod (cluster core : Nat) (cap : BitVec 16) (pas : Option Nat) (t : TaskMsg)
deriving DecidableEq, Repr

/-- Where a migrated task came from (R370): the package, its tag there, and the launch it belongs to there. -/
structure Origin where
  pkg : Nat
  tag : Nat
  launch : Option Nat
deriving DecidableEq, Repr

/-- A migrating task that reaches this package (R370): the shipped workspace bytes with its priority, group,
launch, capability and the place it came from. -/
structure Migration where
  cluster : Nat
  core : Nat
  cap : BitVec 16
  psize : Nat
  bytes : List Byte
  pri : Nat
  group : BitVec 16
  srcPkg : Nat
  tag : Nat
  launch : Option Nat
  origin : Option Origin
deriving DecidableEq, Repr

/-- The notice that another package sends back about a task that went there (R339, R370): it was accepted, it was
refused, or it has ended, with the launch it carries where the notice names it; that a judge of another package
has taken the words that the core's FOENC sent there (R258, log 22); and that the other packages have terminated a group (R364). -/
inductive NoticeKind where
  | accepted
  | refused
  | ended (launch : Option Nat)
  | taken
  | terminated
deriving DecidableEq, Repr

structure Notice where
  core : Nat
  ctx : Nat
  kind : NoticeKind
deriving DecidableEq, Repr

/-- A partition definition of the configuration record (R376, R382): clusters, key, world, TC grant, start queue
base, the frames it owns as (first frame, count) ranges, its minimum image security version, the system image it names, and its image key
set: the ids of its Ed25519 and its ML-DSA-65 keys (R391, R392). -/
structure PartDef where
  clusters : List Nat
  pkey : BitVec 16
  world : Bool
  tc : Bool
  sqbase : Nat
  frames : List (Nat × Nat)
  quantum : Nat
  isvMin : Nat
  image : Option Nat
  edKeys : List (List (BitVec 8))
  mlKeys : List (List (BitVec 8))
deriving DecidableEq, Repr

/-- The signed configuration record of the board flash (R382). -/
structure ConfigRec where
  version : Nat
  sliceMap : List Nat
  sliceGen : Nat
  retiredPlanes : List Nat
  spares : List (Nat × Nat)
  rates : List (Nat × Nat)
  parts : List (Nat × PartDef)
deriving DecidableEq, Repr

/-- A system image as boot step 9 sees it (R391, R392): its bytes, and the signatures over the digest of its signed bytes that verify under
the keys which its two key ids name. Signature arithmetic is an input of the boot. How Infield places and starts an image is its own
(log 26): the frame of each virtual page, the table entries that it writes, and the start-queue entry and launch record that it starts the
image with. -/
structure ImageInput where
  bytes : List Byte
  edValid : List (List Byte)
  mlValid : List (List Byte)
  frames : List (Nat × Nat)
  tables : List (Nat × Word)
  entry : Nat
  record : List Byte
deriving DecidableEq, Repr

/-- What boot finds outside the machine (R383): the outcome of each test, the configuration record as read with the
outcome of its signature check, the images that partition definitions name, and the pod address spaces (number, partition, root,
ASID) that Infield installs (R80). -/
structure BootInput where
  firmwareA : Bool
  firmwareB : Bool
  record : Option ConfigRec
  recordSigs : Bool
  badChannels : List Nat
  badLinksPlanes : List Nat
  badCores : List Nat
  badSpares : List Nat
  badSlices : List Nat
  zeroOk : Bool
  zeroAltOk : Bool
  infieldA : Bool
  infieldB : Bool
  pkg : Nat
  inPod : Bool
  images : List (Nat × ImageInput)
  podSpaces : List (Nat × Nat × Word × BitVec 15)
deriving DecidableEq, Repr

/-- A register of the device register window with no row of its own: a read-only register of a partition's block (R377), PLCTL (R313), an
entry of a router's routing table and its HUBSEL (R309), the world bit of a slice and of a region (R380), a core's ASCR, which Infield may
write (R67), and a dword of a channel's metadata, which the steward reaches through the memory controller (R52). -/
inductive WindowReg where
  | readOnly (p off : Nat)
  | plctl
  | route (router dest : Nat)
  | hubsel (router : Nat)
  | sliceWorld (h : Nat)
  | regionWorld (r : Nat)
  | ascr (core : Nat)
  | channelMeta (ch i : Nat)
deriving DecidableEq, Repr

/-- The instructions and events of the opcode table. -/
inductive Instr where
  /-- NOP (R43): C-slot no-operation that reads and writes nothing. -/
  | nop (o : CROps)
  /-- LDB (R290): Loads a sign-extended byte into d as a long-latency producer. -/
  | ldb (o : CIOps)
  /-- LDBN (R290): Loads a zero-extended byte into d. -/
  | ldbn (o : CIOps)
  /-- LDH (R290): Loads a sign-extended half into d. -/
  | ldh (o : CIOps)
  /-- LDHN (R290): Loads a zero-extended half into d. -/
  | ldhn (o : CIOps)
  /-- LDW (R290): Loads a sign-extended word into d. -/
  | ldw (o : CIOps)
  /-- LDWN (R290): Loads a zero-extended word into d. -/
  | ldwn (o : CIOps)
  /-- LDD (R290): Loads a dword into d. -/
  | ldd (o : CIOps)
  /-- STB (R293): Places a byte store into the store buffer. -/
  | stb (o : CIOps)
  /-- STH (R293): Places a half store into the store buffer. -/
  | sth (o : CIOps)
  /-- STW (R293): Places a word store into the store buffer. -/
  | stw (o : CIOps)
  /-- STD (R293): Places a dword store into the store buffer. -/
  | std (o : CIOps)
  /-- LDXD (R290): Loads a dword from a plus b times 8. -/
  | ldxd (o : CROps)
  /-- STXD (R293): Stores a dword to a plus b times 8. -/
  | stxd (o : CROps)
  /-- LDACQ (R290): Loads a dword with acquire order. -/
  | ldacq (o : CIOps)
  /-- STREL (R293): Stores a dword with release order. -/
  | strel (o : CIOps)
  /-- AADD (R302): Atomically adds d to a dword and returns the old value. -/
  | aadd (o : CIOps)
  /-- AAND (R302): Atomic AND on a dword. -/
  | aand (o : CIOps)
  /-- AOR (R302): Atomic OR on a dword. -/
  | aor (o : CIOps)
  /-- AXOR (R302): Atomic XOR on a dword. -/
  | axor (o : CIOps)
  /-- AMIN (R302): Atomic signed minimum on a dword. -/
  | amin (o : CIOps)
  /-- AMAX (R302): Atomic signed maximum on a dword. -/
  | amax (o : CIOps)
  /-- AMINN (R302): Atomic unsigned minimum on a dword. -/
  | aminn (o : CIOps)
  /-- AMAXN (R302): Atomic unsigned maximum on a dword. -/
  | amaxn (o : CIOps)
  /-- ASWP (R302): Atomic swap of a dword. -/
  | aswp (o : CIOps)
  /-- ACAS (R302): Atomic compare-and-swap using d as expected and d+1 as new value. -/
  | acas (o : CIOps)
  /-- AFADD (R302): Atomic f32 add on 4 bytes with RNE. -/
  | afadd (o : CIOps)
  /-- MONITOR (R306): Arms a value watch on one dword, triggering at once if it already differs. -/
  | monitor (o : CIOps)
  /-- MWAIT (R307): Sleeps until the watch triggers, is lost, an event is pending or the limit passes. -/
  | mwait (o : CROps)
  /-- DRAINST (R301): Waits until the context's earlier stores are performed. -/
  | drainst (o : CROps)
  /-- FENCE (R305): Orders the context's accesses at a scope with acquire, release or both. -/
  | fence (o : CIOps)
  /-- CFLUSH (R115): Writes back one L1 line to its home slice. -/
  | cflush (o : CIOps)
  /-- CFLUSH_INV (R115): Writes back and invalidates one line in the cluster's L1s. -/
  | cflushInv (o : CIOps)
  /-- PTRG (R108): Converts a pointer to its globally meaningful form. -/
  | ptrg (o : CROps)
  /-- PTRL (R108): Converts a pointer to the issuing context's local form. -/
  | ptrl (o : CROps)
  /-- LI (R166): Loads a sign-extended immediate into d. -/
  | li (o : CLOps)
  /-- LIH (R166): Loads an immediate into the high half of d. -/
  | lih (o : CLOps)
  /-- CSRR (R165): Reads a control and status register into d. -/
  | csrr (o : CIOps)
  /-- CSRW (R165): Writes a control and status register from a. -/
  | csrw (o : CIOps)
  /-- PBIND (R161): Binds or unbinds an outbound port after earlier words have entered their FIFO. -/
  | pbind (o : CROps)
  /-- TLD (R92): Loads one tensor element by coordinates as a long-latency producer. -/
  | tld (o : CROps)
  /-- XCOPY (R132): Issues a copy command to the transfer queue. -/
  | xcopy (o : CROps)
  /-- XCONV (R132): Issues a format conversion command to the transfer queue. -/
  | xconv (o : CROps)
  /-- XTRAN (R132): Issues a transpose command to the transfer queue. -/
  | xtran (o : CROps)
  /-- XEXP (R132): Issues a pack-stream expansion command. -/
  | xexp (o : CROps)
  /-- XPACK (R132): Issues a pack-stream encoding command. -/
  | xpack (o : CROps)
  /-- GETX (R138): Issues an index-list gather from remote memory into local memory. -/
  | getx (o : CROps)
  /-- GETX_REG (R138): Issues a one-element gather into a register marked empty at issue. -/
  | getxReg (o : CROps)
  /-- PUTX (R138): Issues an index-list scatter to remote memory. -/
  | putx (o : CROps)
  /-- PUTACC (R138): Issues an index-list atomic accumulate to remote memory. -/
  | putacc (o : CROps)
  /-- CWAIT (R141): Waits until a completion counter reaches its target, then acquires. -/
  | cwait (o : CROps)
  /-- CTEST (R142): Copies a counter test and its error flag into predicates. -/
  | ctest (o : CROps)
  /-- CSET (R143): Sets a completion counter value and clears its flag and scope. -/
  | cset (o : CROps)
  /-- XFORM (R148): Sends a command to the transform coprocessor or receives busy. -/
  | xform (o : CROps)
  /-- XFPOLL (R151): Reads the state of a coprocessor command by ticket. -/
  | xfpoll (o : CROps)
  /-- TREG (R90): Registers a tensor descriptor and returns its id. -/
  | treg (o : CROps)
  /-- TDROP (R91): Invalidates a tensor by incrementing its generation. -/
  | tdrop (o : CROps)
  /-- TDROP_FREE (R91): Invalidates a tensor, removes its entries and frees its id. -/
  | tdropFree (o : CROps)
  /-- TLOOK (R93): Reports the presence and state of a tile. -/
  | tlook (o : CROps)
  /-- TFETCH (R94): Prefetches a tile and its neighbours, retiring at issue. -/
  | tfetch (o : CROps)
  /-- THALO (R95): Pins or unpins a range of tiles for sharing. -/
  | thalo (o : CROps)
  /-- TFLUSH (R96): Writes back a tensor's dirty sectors, then releases at PACKAGE. -/
  | tflush (o : CROps)
  /-- TFLUSH_INV (R96): Writes back and drops a tensor's lines. -/
  | tflushInv (o : CROps)
  /-- QINIT (R100): Creates or destroys a slice-resident queue. -/
  | qinit (o : CROps)
  /-- QPUSH (R101): Adds an entry to a queue as a release at PACKAGE. -/
  | qpush (o : CROps)
  /-- QPOP (R101): Removes an entry from a queue as a long-latency producer. -/
  | qpop (o : CROps)
  /-- QWAIT (R102): Sleeps until a queue is non-empty or destroyed. -/
  | qwait (o : CROps)
  /-- MALLOC (R250): Allocates a band of accumulator rows. -/
  | malloc (o : CROps)
  /-- MFREE (R251): Frees a band once its pending count is zero. -/
  | mfree (o : CROps)
  /-- MMA (R240): Issues a dense multiply-accumulate into a band. -/
  | mma (o : CROps)
  /-- MMAS (R244): Issues a multiply-accumulate with 2:4 sparse B. -/
  | mmas (o : CROps)
  /-- MZERO (R247): Issues a command that zeroes every word of a band. -/
  | mzero (o : CROps)
  /-- MLDA (R247): Issues a load of rows from memory into a band. -/
  | mlda (o : CROps)
  /-- MSTA (R247): Issues a store of band rows to memory. -/
  | msta (o : CROps)
  /-- MDRAIN (R248): Issues a command that hands band rows to handler tasks. -/
  | mdrain (o : CROps)
  /-- RDONE (R249): Releases a drained row buffer to its destination. -/
  | rdone (o : CROps)
  /-- MJOIN (R252): Waits for a band's pending count to reach zero, then acquires. -/
  | mjoin (o : CROps)
  /-- MRDROW (R253): Reads one accumulator word of a band. -/
  | mrdrow (o : CROps)
  /-- MSTAT (R254): Reports a band's state word. -/
  | mstat (o : CROps)
  /-- VCHAIN (R220): Issues a packet chain of element operations. -/
  | vchain (o : CROps)
  /-- VRED (R221): Issues a tree reduction of a shape. -/
  | vred (o : CROps)
  /-- VSCAN (R222): Issues a prefix scan. -/
  | vscan (o : CROps)
  /-- VSORT (R224): Issues a stable key sort. -/
  | vsort (o : CROps)
  /-- VTOPK (R225): Issues a top-K selection. -/
  | vtopk (o : CROps)
  /-- VSRCH (R226): Issues a search of sorted keys. -/
  | vsrch (o : CROps)
  /-- VPACK24 (R228): Issues 2:4 structured pruning. -/
  | vpack24 (o : CROps)
  /-- VCONV (R229): Issues an element-wise format conversion. -/
  | vconv (o : CROps)
  /-- VRAND (R229): Issues counter-based random fill. -/
  | vrand (o : CROps)
  /-- VGATH (R230): Issues an index-list gather between shapes. -/
  | vgath (o : CROps)
  /-- VSCAT (R230): Issues an index-list scatter or scatter-add. -/
  | vscat (o : CROps)
  /-- VCMP (R231): Issues an element-wise compare into an n8 mask. -/
  | vcmp (o : CROps)
  /-- VSEL (R231): Issues an element-wise select by mask. -/
  | vsel (o : CROps)
  /-- VJOIN (R227): Issues a merge or intersection of sorted key lists. -/
  | vjoin (o : CROps)
  /-- VFILL (R229): Issues a constant or ramp fill. -/
  | vfill (o : CROps)
  /-- VHIST (R232): Issues a histogram count into bins. -/
  | vhist (o : CROps)
  /-- FOENC (R258): Issues a rank encoding of a vector sent as a finish-order stream. -/
  | foenc (o : CROps)
  /-- FOOPEN (R262): Binds a finish-order reception to the judge. -/
  | foopen (o : CROps)
  /-- FOSTEP (R265): Consumes up to n arrivals of the reception. -/
  | fostep (o : CROps)
  /-- FORUN (R265): Consumes arrivals until consumption ends. -/
  | forun (o : CROps)
  /-- FOCLOSE (R268): Ends the reception, discarding unconsumed stream words. -/
  | foclose (o : CROps)
  /-- FOSHEET (R269): Writes the finish sheet to memory. -/
  | fosheet (o : CROps)
  /-- FOGRAD (R272): Issues a backward pass through a finish order. -/
  | fograd (o : CROps)
  /-- FOSTAT (R270): Reads the judge's status word. -/
  | fostat (o : CROps)
  /-- RELAY (R283): Enters relay mode at a first leg, or continues a suspended or faulted relay. -/
  | relay (o : CROps)
  /-- RELAY_RESUME (R283): Returns from a CODE leg fragment or continues the relay. -/
  | relayResume (o : CROps)
  /-- RSTAT (R284): Reads the relay status word. -/
  | rstat (o : CROps)
  /-- RSTAT_ABANDON (R284): Reads the relay status and abandons a suspended, parked or faulted relay. -/
  | rstatAbandon (o : CROps)
  /-- RSTAT_LEG (R284): Reads the current leg's address. -/
  | rstatLeg (o : CROps)
  /-- GROUP (R315): Installs or deletes a collective group. -/
  | group (o : CROps)
  /-- AGATH (R317): Issues an all-gather collective. -/
  | agath (o : CROps)
  /-- RSCAT (R317): Issues a reduce-scatter collective. -/
  | rscat (o : CROps)
  /-- ATOA (R317): Issues an all-to-all collective. -/
  | atoa (o : CROps)
  /-- HURDLE (R321): Releases, arrives at a hurdle and waits for the episode. -/
  | hurdle (o : CIOps)
  /-- CNTSUM (R322): Arrives at a hurdle contributing event counters to a sum. -/
  | cntsum (o : CROps)
  /-- CNTSUM_CLR (R322): Arrives at a hurdle contributing and clearing event counters. -/
  | cntsumClr (o : CROps)
  /-- BR (R345): Branches by a bundle displacement. -/
  | br (o : CBOps)
  /-- CALL (R345): Branches and writes the return address to w55. -/
  | call (o : CBOps)
  /-- JMPR (R345): Jumps to the address in a. -/
  | jmpr (o : CROps)
  /-- JMPR_LINK (R345): Jumps to the address in a and writes w55. -/
  | jmprLink (o : CROps)
  /-- LOOP (R346): Decrements a count and branches back while nonzero. -/
  | loop (o : CIOps)
  /-- START (R347): Starts a helper on a workspace. -/
  | start (o : CROps)
  /-- FORK (R348): Starts engine sequencers from a fork record. -/
  | fork (o : CROps)
  /-- JOIN (R350): Waits for engine sequencers to end, then acquires. -/
  | join (o : CROps)
  /-- SEND (R352): Creates a task at a core through the outbound task buffer. -/
  | send (o : CROps)
  /-- TASKQ (R354): Enqueues a timestamped task in the photo-finish unit. -/
  | taskq (o : CROps)
  /-- LAUNCH (R340): Submits a child launch to the starter. -/
  | launch (o : CROps)
  /-- SETWP (R167): Switches the context to another workspace. -/
  | setwp (o : CROps)
  /-- EXIT (R357): Ends the context after its stores are performed. -/
  | exit (o : CROps)
  /-- TRAP (R363): Raises a software trap that returns after itself. -/
  | trap (o : CIOps)
  /-- TRET (R364): Returns from a trap handler. -/
  | tret (o : CROps)
  /-- TRET_TERM (R364): Terminates a task group on this core and returns or ends. -/
  | tretTerm (o : CROps)
  /-- TRET_TERMALL (R364): Terminates a task group across the launch. -/
  | tretTermall (o : CROps)
  /-- SLEEP (R358): Leaves the issue choice for a number of cycles. -/
  | sleep (o : CROps)
  /-- INVPG (R77): Invalidates translations and tensor lines for a page region. -/
  | invpg (o : CXOps)
  /-- INVAS (R77): Invalidates translations of one ASID. -/
  | invas (o : CXOps)
  /-- INVALL (R77): Invalidates every translation of the partition. -/
  | invall (o : CXOps)
  /-- TLBSYNC (R78): Waits until earlier invalidations are acknowledged. -/
  | tlbsync (o : CXOps)
  /-- SWCALL (R366): Calls the steward with a call block and waits for the answer. -/
  | swcall (o : CXOps)
  /-- WORLD (R367): Returns the context's world, partition and place. -/
  | world (o : CXOps)
  /-- DISCARD (R75): Marks pages discarded and drops their cached data. -/
  | discard (o : CXOps)
  /-- IDLE (R368): Waits until work arrives at the core. -/
  | idle (o : CXOps)
  /-- ADD (R194): Integer add. -/
  | add (o : AOps)
  /-- SUB (R194): Integer subtract. -/
  | sub (o : AOps)
  /-- MUL (R194): Integer multiply, low bits. -/
  | mul (o : AOps)
  /-- MULH (R194): Integer multiply, high bits. -/
  | mulh (o : AOps)
  /-- DIV (R197): Integer divide as a long-latency producer. -/
  | div (o : AOps)
  /-- REM (R197): Integer remainder as a long-latency producer. -/
  | rem (o : AOps)
  /-- MIN (R194): Integer minimum. -/
  | min (o : AOps)
  /-- MAX (R194): Integer maximum. -/
  | max (o : AOps)
  /-- AND (R194): Bitwise AND. -/
  | and (o : AOps)
  /-- OR (R194): Bitwise OR. -/
  | or (o : AOps)
  /-- XOR (R194): Bitwise XOR. -/
  | xor (o : AOps)
  /-- ANDN (R194): Bitwise AND NOT. -/
  | andn (o : AOps)
  /-- SHL (R194): Shift left. -/
  | shl (o : AOps)
  /-- SHR (R194): Logical shift right. -/
  | shr (o : AOps)
  /-- SAR (R194): Arithmetic shift right. -/
  | sar (o : AOps)
  /-- ROT (R194): Rotate left. -/
  | rot (o : AOps)
  /-- ADDI (R195): Add a signed 6-bit immediate. -/
  | addi (o : AOps)
  /-- SHLI (R195): Shift left by an immediate. -/
  | shli (o : AOps)
  /-- SHRI (R195): Logical shift right by an immediate. -/
  | shri (o : AOps)
  /-- SARI (R195): Arithmetic shift right by an immediate. -/
  | sari (o : AOps)
  /-- ANDI (R195): AND with a sign-extended immediate. -/
  | andi (o : AOps)
  /-- MOV (R196): Integer move with fill. -/
  | mov (o : AOps)
  /-- SEL (R198): Selects one of two registers by a predicate. -/
  | sel (o : AOps)
  /-- CLZ (R196): Counts leading zeros. -/
  | clz (o : AOps)
  /-- POPC (R196): Counts one bits. -/
  | popc (o : AOps)
  /-- BFX (R199): Extracts a bit field. -/
  | bfx (o : AOps)
  /-- BFI (R199): Inserts a bit field. -/
  | bfi (o : AOps)
  /-- ABS (R196): Integer absolute value. -/
  | abs (o : AOps)
  /-- NEG (R196): Integer negate. -/
  | neg (o : AOps)
  /-- RNDC (R200): Counter-based random generator. -/
  | rndc (o : AOps)
  /-- SEXT (R196): Sign-extends from a stated width. -/
  | sext (o : AOps)
  /-- FADD (R201): Floating add rounded by FPCR. -/
  | fadd (o : AOps)
  /-- FSUB (R201): Floating subtract. -/
  | fsub (o : AOps)
  /-- FMUL (R201): Floating multiply. -/
  | fmul (o : AOps)
  /-- FMA (R201): Fused multiply-add into d. -/
  | fma (o : AOps)
  /-- FMS (R201): Fused multiply-subtract from d. -/
  | fms (o : AOps)
  /-- FDIV (R201): Floating divide as a long-latency producer. -/
  | fdiv (o : AOps)
  /-- FMIN (R202): Floating minimum under R187. -/
  | fmin (o : AOps)
  /-- FMAX (R202): Floating maximum under R187. -/
  | fmax (o : AOps)
  /-- FABS (R202): Clears the sign bit. -/
  | fabs (o : AOps)
  /-- FNEG (R202): Inverts the sign bit. -/
  | fneg (o : AOps)
  /-- FSQRT (R201): Square root as a long-latency producer. -/
  | fsqrt (o : AOps)
  /-- FRCP (R203): Approximate reciprocal. -/
  | frcp (o : AOps)
  /-- FRSQ (R203): Approximate reciprocal square root. -/
  | frsq (o : AOps)
  /-- FEXP2 (R203): Approximate power of two. -/
  | fexp2 (o : AOps)
  /-- FLOG2 (R203): Approximate base-2 logarithm. -/
  | flog2 (o : AOps)
  /-- FSIN (R203): Approximate sine. -/
  | fsin (o : AOps)
  /-- FCOS (R203): Approximate cosine. -/
  | fcos (o : AOps)
  /-- FTANH (R203): Approximate hyperbolic tangent. -/
  | ftanh (o : AOps)
  /-- FCLASS (R204): Writes a one-hot class mask. -/
  | fclass (o : AOps)
  /-- CVT (R205): Converts between types rounding by FPCR. -/
  | cvt (o : AOps)
  /-- CVTI (R205): Converts between types rounding toward zero. -/
  | cvti (o : AOps)
  /-- CMPEQ (R206): Compares for equality into a predicate pair. -/
  | cmpeq (o : AOps)
  /-- CMPNE (R206): Compares for inequality. -/
  | cmpne (o : AOps)
  /-- CMPLT (R206): Compares less than. -/
  | cmplt (o : AOps)
  /-- CMPLE (R206): Compares less or equal. -/
  | cmple (o : AOps)
  /-- CMPUN (R206): Tests for an unordered operand. -/
  | cmpun (o : AOps)
  /-- PLOG (R207): Combines two predicates by a logic function. -/
  | plog (o : AOps)
  /-- TABLE_WALK (R70): A walker reads page-table levels and checks the leaf, raising page faults. -/
  | tableWalk (core ctx : Nat) (va : Word) (kind : WalkKind)
  /-- PRODUCER_RESULT (R158): A long-latency producer's result returns and fills its register. -/
  | producerResult (core i : Nat)
  /-- STORE_LEAVES_BUFFER (R294): A store buffer entry is translated, checked and performed. -/
  | storeLeavesBuffer (core i : Nat)
  /-- SLICE_REQUEST (R60): A home slice serves or answers moved to an arriving request. -/
  | sliceRequest (core : Nat) (pa : Nat) (op : PortOp)
  /-- MOVED_ANSWER (R62): A requester receives moved, fetches the new map and resends. -/
  | movedAnswer (core : Nat)
  /-- EXPANDER_ACCESS (R117): The expander serves a cluster-memory access, decoding and evicting packs as needed. -/
  | expanderAccess (cluster : Nat) (off : Nat) (op : PortOp)
  /-- PACK_COMPACTION (R118): The controller places packs and compacts the store in the background. -/
  | packCompaction (cluster : Nat)
  /-- SCRATCHPAD_ACCESS (R105): A scratchpad port performs an access in arrival order. -/
  | scratchpadAccess (core : Nat) (off : Nat) (op : PortOp)
  /-- PATROL_SCRUB (R57): The controller read-and-corrects sectors so every line is scrubbed daily. -/
  | patrolScrub (sector : Nat) (err : EccError)
  /-- ROW_SPARING (R58): An error count triggers copying a row to a spare and remapping it. -/
  | rowSparing (channel row : Nat)
  /-- SLICE_RETIREMENT (R61): Infield builds a new map and the slice flushes and carries its records. -/
  | sliceRetirement (slice : Nat)
  /-- SLICE_MAP_INSTALL (R61): Once drained, the new map generation is installed and the slice answers moved. -/
  | sliceMapInstall (slice : Nat)
  /-- INGRESS_REQUEST (R80): The ingress translation unit translates an arriving pod-global request. -/
  | ingressRequest (req : IngressReq)
  /-- TFETCH_FILL (R94): A prefetched tile fill completes or is skipped. -/
  | tfetchFill (core : Nat)
  /-- QWAIT_WAKE (R102): A push, destroy or interrupt wakes a waiting context. -/
  | qwaitWake (core ctx : Nat)
  /-- TRANSFER_COMMAND_START (R126): A queued transfer command starts when overlap rules allow. -/
  | transferCommandStart (core i : Nat)
  /-- TRANSFER_COMMAND_COMPLETE (R128): A transfer command's writes are performed and its counter increments. -/
  | transferCommandComplete (core i : Nat)
  /-- COMMAND_PARK_RESUME (R127): A parked command resumes when a remote answer arrives. -/
  | commandParkResume (core i : Nat) (ans : RemoteAnswer) (data : List (BitVec 8))
  /-- TECTL_RES (R146): Writing RES restarts a PAGE command or passes over a failed one. -/
  | tectlRes (core : Nat)
  /-- TECTL_DISC (R146): Writing DISC drops halted, queued and parked commands with error flags. -/
  | tectlDisc (core : Nat)
  /-- TECTL_CPRES (R147): Writing CPRES resumes the core's coprocessor share. -/
  | tectlCpres (core : Nat)
  /-- TECTL_CPDISC (R147): Writing CPDISC drops the core's coprocessor commands. -/
  | tectlCpdisc (core : Nat)
  /-- TRANSFORM_COMMAND (R149): The coprocessor runs a transform command to completion or error. -/
  | transformCommand (cluster third : Nat)
  /-- REMOTE_REQUEST (R137): A target memory port serves a gather, scatter or accumulate element. -/
  | remoteRequest (req : RemoteReq)
  /-- CWAIT_COMPLETE (R141): A waiting CWAIT completes when its counter is ready and acquires. -/
  | cwaitComplete (core ctx : Nat)
  /-- VECTOR_COMMAND (R215): A vector command translates then processes elements and completes. -/
  | vectorCommand (core : Nat)
  /-- MATRIX_COMMAND (R238): A matrix command runs from the queue to completion or halt. -/
  | matrixCommand (core : Nat)
  /-- MDRAIN_ROW (R248): When a buffer is free a row is copied and a handler task enqueued. -/
  | mdrainRow (core : Nat)
  /-- MJOIN_COMPLETE (R252): A waiting MJOIN completes when the pending count reaches zero. -/
  | mjoinComplete (core ctx : Nat)
  /-- STREAM_WORD_ARRIVAL (R259): A finish-order word enters the target judge's FIFO for its rank. -/
  | streamWordArrival (core rank : Nat) (cap : BitVec 16) (word : BitVec 32)
  /-- JUDGE_ARRIVAL (R264): The judge takes the next arrival and applies it to the output row. -/
  | judgeArrival (core : Nat)
  /-- LEG_FETCH (R276): The relay sequencer fetches, checks and performs one leg. -/
  | legFetch (core : Nat)
  /-- RELAY_END (R282): After all leg commands complete the relay ends and RELAY completes. -/
  | relayEnd (core : Nat)
  /-- MWAIT_WAKE (R307): A trigger, loss or pending event wakes MWAIT. -/
  | mwaitWake (core ctx : Nat)
  /-- MWAIT_TIMEOUT (R307): MWAIT's cycle limit expires. -/
  | mwaitTimeout (core ctx : Nat)
  /-- LINK_RETRY (R313): A link resends a flit that failed its check. -/
  | linkRetry (plane router port : Nat) (ok : Bool)
  /-- PLANE_RETIREMENT (R313): Sixteen failed retries retire a plane and rebuild the plane set. -/
  | planeRetirement (plane : Nat)
  /-- PLANE_POWER_ON (R312): Sustained occupancy starts powering the next plane. -/
  | planePowerOn (plane : Nat)
  /-- PLANE_POWERED (R312): A plane finishes powering on and takes bulk traffic. -/
  | planePowered (plane : Nat)
  /-- PLANE_POWER_OFF (R312): An idle plane powers off after its idle count. -/
  | planePowerOff (plane : Nat)
  /-- COLLECTIVE_CONTRIBUTION (R317): A member's chunk arrives and is written to the destination. -/
  | collectiveContribution (core i : Nat) (part : CollPart)
  /-- COLLECTIVE_COMPLETE (R317): A collective completes and its counter increments. -/
  | collectiveComplete (core i : Nat)
  /-- HURDLE_EPISODE_COMPLETE (R320): The n-th arrival completes the episode and releases waiters. -/
  | hurdleEpisodeComplete (i : Nat)
  /-- LAUNCH_START (R338): The starter places a launch once its cores are free. -/
  | launchStart (p : Nat)
  /-- LAUNCH_COMPLETE (R339): The starter releases, writes STATUS and frees the cores. -/
  | launchComplete (id : Nat)
  /-- TASK_DISPATCH (R341): A free helper takes the next run-queue task. -/
  | taskDispatch (core : Nat)
  /-- TASK_ARRIVAL (R352): A sent task enters the target run queue or is refused. -/
  | taskArrival (src : TaskSource)
  /-- PFU_TASK_START (R353): The photo-finish unit starts a pending task on a free helper. -/
  | pfuTaskStart (cluster : Nat)
  /-- PFU_COMMIT (R353): The oldest finished task commits its held writes and sends. -/
  | pfuCommit (cluster : Nat)
  /-- PFU_ABORT (R356): A conflicting write aborts a speculative task to pending. -/
  | pfuAbort (cluster seq : Nat)
  /-- PACE_UPDATE (R344): Every 4,096 cycles a cluster updates its pace register. -/
  | paceUpdate (cluster : Nat)
  /-- SLEEP_EXPIRY (R358): The SLEEP count expires and the context becomes ready. -/
  | sleepExpiry (core ctx : Nat)
  /-- JOIN_COMPLETE (R350): JOIN completes when the selected sequencers have ended. -/
  | joinComplete (core ctx : Nat)
  /-- SEQUENCER_FAULT (R349): A sequencer trap or store fault ends it with mailbox FAULT. -/
  | sequencerFault (core e : Nat)
  /-- IDLE_WAKE (R368): A task, trap or pre-emption wakes IDLE. -/
  | idleWake (core ctx : Nat)
  /-- TRAP_DELIVERY (R361): A pending trap writes the cause slots and vectors the context to the handler. -/
  | trapDelivery (core ctx : Nat)
  /-- SETVEC (R366): The steward sets or clears the partition's trap vector. -/
  | setvec (core ctx : Nat)
  /-- SETFSVC (R366): The steward names the fault-service core and handler. -/
  | setfsvc (core ctx : Nat)
  /-- EVENTQ (R366): The steward names the partition's event queue. -/
  | eventq (core ctx : Nat)
  /-- RESUMEFAULT (R366): The steward retranslates and completes a deferred request. -/
  | resumefault (core ctx : Nat)
  /-- FAILFAULT (R366): The steward answers a deferred request failed. -/
  | failfault (core ctx : Nat)
  /-- STEPINFO (R366): The steward returns the partition's time-slice quantum. -/
  | stepinfo (core ctx : Nat)
  /-- MIGRATION_ARRIVAL (R370): A migrated task is accepted or refused at the home package. -/
  | migrationArrival (m : Migration)
  /-- PREEMPTION (R372): Infield stops a partition's contexts, engines and store buffers and saves them. -/
  | preemption (p : Nat)
  /-- PARTITION_RESUME (R372): A pre-empted partition's state is restored and its contexts continue. -/
  | partitionResume (p : Nat)
  /-- CORE_LOSS (R374): A core with an uncorrectable internal error stops and is replaced or withdrawn. -/
  | coreLoss (core : Nat)
  /-- WATCHDOG_EXPIRY (R381): The steward watchdog expires and resets the steward cores. -/
  | watchdogExpiry
  /-- START_REGISTER (R378): A host START store queues a launch or is dropped if busy. -/
  | startRegister (p : Nat) (value : Word)
  /-- DOORBELL (R406): A host write sets doorbell bits. -/
  | doorbell (p : Nat) (value : Word)
  /-- DOORBELL_POSTING (R406): Set doorbell bits are posted as a task once a posting is possible. -/
  | doorbellPosting (p : Nat)
  /-- HOST_BAR_WRITE (R379): The endpoint performs a host posted write. -/
  | hostBarWrite (p bar : Nat) (off : Nat) (bytes : List (BitVec 8))
  /-- HOST_BAR_READ (R379): The endpoint performs a host read as an acquire. -/
  | hostBarRead (p bar : Nat) (off n : Nat)
  /-- FUNCTION_LEVEL_RESET (R378): An FLR terminates, drops, zeroes and clears the partition's launches. -/
  | functionLevelReset (p : Nat)
  /-- PACKAGE_RESET (R383): Reset starts boot, which runs the journaled boot steps. -/
  | packageReset (b : BootInput)
  /-- POWER_MANAGER_TICK (R385): Every 8 µs the power manager sets each compute island's operating point. -/
  | powerManagerTick
  /-- THERMAL_LIMIT (R386): Excess power or temperature limits islands one operating point lower. -/
  | thermalLimit
  /-- THERMAL_LIMIT_LIFT (R386): After 10 ms below both thresholds the limit is lifted. -/
  | thermalLimitLift
  /-- THERMAL_SHUTDOWN (R386): At 115 °C the steward stops all islands and journals the event. -/
  | thermalShutdown
  /-- REGISTER_WRITE (R10): A write to a register with no row of its own. -/
  | registerWrite (reg : WindowReg) (value : Word)
  /-- POWER_LOSS (R382): Package power fails mid-operation, possibly between a configuration record write and the counter increment or inside a journaled boot step. -/
  | powerLoss (during : Option (BootInput × Nat)) (torn : Option Nat)
  /-- MIGRATION_NOTICE (R370): An acceptance, refusal or exit notice for a migrated task arrives back at the origin package, freeing or trapping the origin helper or releasing the origin launch. -/
  | migrationNotice (n : Notice)
  /-- OPERATING_POINT_CHANGE_END (R385): An island's change of operating point completes and issue and engine progress resume. -/
  | operatingPointChangeEnd (island : Nat)
  /-- INFIELD_RESTART (R381): After a watchdog reset, Infield restarts, resumes from its journal and answers the waiting SWCALLs and deferred work. -/
  | infieldRestart
  /-- INVALIDATION_ACKNOWLEDGE (R78): A TLB, walk cache, walker, ingress unit or slice acknowledges an INVPG, INVAS, INVALL or DISCARD after its tensor write-back, letting TLBSYNC complete. -/
  | invalidationAcknowledge (core ctx : Nat)
deriving DecidableEq, Repr

end Sys2Proof
end

