-- ==== Sys2Proof/WellFormed.lean ====
section
/-! DEFINITION. Which instructions are well formed: the reasons 2 to 6 of the illegal-instruction trap (R47), as far
as they are judged on the encoded word (R46, R48), read from one table of field rules. -/

namespace Sys2Proof

/-- The reasons of the illegal-instruction trap (R47). -/
inductive Reason where
  | unassigned | literal | reserved | type | register | value
deriving DecidableEq, Repr

/-- The reason code (R47). -/
def Reason.code : Reason → Nat
  | .unassigned => 1 | .literal => 2 | .reserved => 3 | .type => 4 | .register => 5 | .value => 6

/-- How an instruction uses a 6-bit field (R24, R42, R45). -/
inductive FieldUse where
  /-- A register read as a source: w0–w55 or ch0–ch3. -/
  | src
  /-- A source that must be w0–w55. -/
  | srcGen
  /-- A destination: w0–w55 or ch4–ch7. -/
  | dst
  /-- A destination (for an atomic also a source) that must be w0–w55. -/
  | gen
  /-- ACAS's d: w0–w54, with d + 1 read too. -/
  | acas
  /-- PBIND's d: ch4–ch7. -/
  | outPort
  /-- A predicate destination in bits 2:0. -/
  | pred
  /-- Two predicate destinations: p in bits 2:0, q in bits 5:3. -/
  | pq
  /-- A predicate source in bits 2:0. -/
  | predSrc
  /-- A completion counter in bits 3:0. -/
  | cc
  /-- A 3-bit code in bits 2:0. -/
  | code
  /-- TRET's MODE in bits 1:0. -/
  | mode
  /-- A field the instruction reads as data or ignores whole. -/
  | ignored
  /-- A reserved field. -/
  | resv
  /-- A field that holds one value. -/
  | fixed (v : Nat)
  /-- A field whose bits under `mask` hold `v`. -/
  | bits (mask v : Nat)
deriving DecidableEq, Repr

/-- A source flag bit: free, reserved (0), or part of the opcode (1). -/
inductive FlagUse where
  | flag | clear | set
deriving DecidableEq, Repr

/-- The operand values that an instruction's description states as raising reason 6, as far as the word shows them. -/
inductive ValueRule where
  /-- None. -/
  | any
  /-- A memory literal: scope 7, or an order outside the set whose bits are given (R22, R289, R115). -/
  | mem (orders : BitVec 4)
  /-- FENCE: scope 7 or kind 0 (R305). -/
  | fence
  /-- HURDLE: level 0, 6 or 7 (R321). -/
  | hurdle
  /-- CSRR: an unlisted number (R162, R165). -/
  | csrRead
  /-- CSRW: an unlisted or read-only number (R162, R165). -/
  | csrWrite
  /-- p and q the same predicate other than g7 (R25, R142, R207). -/
  | distinct
  /-- TRET: MODE 3 (R364). -/
  | mode
  /-- RSTAT: ABANDON and LEG together (R284). -/
  | oneBit
  /-- XFORM: a guard that names g7 (R148). -/
  | conditional
  /-- CVT and CVTI: source code 111 (R205). -/
  | source
deriving DecidableEq, Repr

structure CRRule where
  lit : Bool
  d : FieldUse
  a : FieldUse
  b : FieldUse
  fa : FlagUse
  fb : FlagUse
  value : ValueRule
deriving DecidableEq, Repr

structure CIRule where
  lit : Bool
  d : FieldUse
  a : FieldUse
  fa : FlagUse
  immReserved : BitVec 7
  value : ValueRule
deriving DecidableEq, Repr

structure CXRule where
  d : FieldUse
  a : FieldUse
deriving DecidableEq, Repr

structure ARule where
  /-- Bit n set: type code n accepted (R45). -/
  types : BitVec 8
  d : FieldUse
  a : FieldUse
  b : FieldUse
  value : ValueRule
deriving DecidableEq, Repr

/-- The field rules of one row of the opcode table. CL is LI and LIH, CB is BR and CALL (R42). -/
inductive OpRule where
  | cr (r : CRRule) | ci (r : CIRule) | cl | cb | cx (r : CXRule) | a (r : ARule) | event
deriving DecidableEq, Repr

/-- The fields of an instruction, by format. -/
inductive Fields where
  | cr (o : CROps) | ci (o : CIOps) | cl (o : CLOps) | cb (o : CBOps) | cx (o : CXOps) | a (o : AOps) | event
deriving DecidableEq, Repr

/-- The fields an instruction carries. -/
def Instr.fields : Instr → Fields
  | .nop o => .cr o
  | .ldb o => .ci o
  | .ldbn o => .ci o
  | .ldh o => .ci o
  | .ldhn o => .ci o
  | .ldw o => .ci o
  | .ldwn o => .ci o
  | .ldd o => .ci o
  | .stb o => .ci o
  | .sth o => .ci o
  | .stw o => .ci o
  | .std o => .ci o
  | .ldxd o => .cr o
  | .stxd o => .cr o
  | .ldacq o => .ci o
  | .strel o => .ci o
  | .aadd o => .ci o
  | .aand o => .ci o
  | .aor o => .ci o
  | .axor o => .ci o
  | .amin o => .ci o
  | .amax o => .ci o
  | .aminn o => .ci o
  | .amaxn o => .ci o
  | .aswp o => .ci o
  | .acas o => .ci o
  | .afadd o => .ci o
  | .monitor o => .ci o
  | .mwait o => .cr o
  | .drainst o => .cr o
  | .fence o => .ci o
  | .cflush o => .ci o
  | .cflushInv o => .ci o
  | .ptrg o => .cr o
  | .ptrl o => .cr o
  | .li o => .cl o
  | .lih o => .cl o
  | .csrr o => .ci o
  | .csrw o => .ci o
  | .pbind o => .cr o
  | .tld o => .cr o
  | .xcopy o => .cr o
  | .xconv o => .cr o
  | .xtran o => .cr o
  | .xexp o => .cr o
  | .xpack o => .cr o
  | .getx o => .cr o
  | .getxReg o => .cr o
  | .putx o => .cr o
  | .putacc o => .cr o
  | .cwait o => .cr o
  | .ctest o => .cr o
  | .cset o => .cr o
  | .xform o => .cr o
  | .xfpoll o => .cr o
  | .treg o => .cr o
  | .tdrop o => .cr o
  | .tdropFree o => .cr o
  | .tlook o => .cr o
  | .tfetch o => .cr o
  | .thalo o => .cr o
  | .tflush o => .cr o
  | .tflushInv o => .cr o
  | .qinit o => .cr o
  | .qpush o => .cr o
  | .qpop o => .cr o
  | .qwait o => .cr o
  | .malloc o => .cr o
  | .mfree o => .cr o
  | .mma o => .cr o
  | .mmas o => .cr o
  | .mzero o => .cr o
  | .mlda o => .cr o
  | .msta o => .cr o
  | .mdrain o => .cr o
  | .rdone o => .cr o
  | .mjoin o => .cr o
  | .mrdrow o => .cr o
  | .mstat o => .cr o
  | .vchain o => .cr o
  | .vred o => .cr o
  | .vscan o => .cr o
  | .vsort o => .cr o
  | .vtopk o => .cr o
  | .vsrch o => .cr o
  | .vpack24 o => .cr o
  | .vconv o => .cr o
  | .vrand o => .cr o
  | .vgath o => .cr o
  | .vscat o => .cr o
  | .vcmp o => .cr o
  | .vsel o => .cr o
  | .vjoin o => .cr o
  | .vfill o => .cr o
  | .vhist o => .cr o
  | .foenc o => .cr o
  | .foopen o => .cr o
  | .fostep o => .cr o
  | .forun o => .cr o
  | .foclose o => .cr o
  | .fosheet o => .cr o
  | .fograd o => .cr o
  | .fostat o => .cr o
  | .relay o => .cr o
  | .relayResume o => .cr o
  | .rstat o => .cr o
  | .rstatAbandon o => .cr o
  | .rstatLeg o => .cr o
  | .group o => .cr o
  | .agath o => .cr o
  | .rscat o => .cr o
  | .atoa o => .cr o
  | .hurdle o => .ci o
  | .cntsum o => .cr o
  | .cntsumClr o => .cr o
  | .br o => .cb o
  | .call o => .cb o
  | .jmpr o => .cr o
  | .jmprLink o => .cr o
  | .loop o => .ci o
  | .start o => .cr o
  | .fork o => .cr o
  | .join o => .cr o
  | .send o => .cr o
  | .taskq o => .cr o
  | .launch o => .cr o
  | .setwp o => .cr o
  | .exit o => .cr o
  | .trap o => .ci o
  | .tret o => .cr o
  | .tretTerm o => .cr o
  | .tretTermall o => .cr o
  | .sleep o => .cr o
  | .invpg o => .cx o
  | .invas o => .cx o
  | .invall o => .cx o
  | .tlbsync o => .cx o
  | .swcall o => .cx o
  | .world o => .cx o
  | .discard o => .cx o
  | .idle o => .cx o
  | .add o => .a o
  | .sub o => .a o
  | .mul o => .a o
  | .mulh o => .a o
  | .div o => .a o
  | .rem o => .a o
  | .min o => .a o
  | .max o => .a o
  | .and o => .a o
  | .or o => .a o
  | .xor o => .a o
  | .andn o => .a o
  | .shl o => .a o
  | .shr o => .a o
  | .sar o => .a o
  | .rot o => .a o
  | .addi o => .a o
  | .shli o => .a o
  | .shri o => .a o
  | .sari o => .a o
  | .andi o => .a o
  | .mov o => .a o
  | .sel o => .a o
  | .clz o => .a o
  | .popc o => .a o
  | .bfx o => .a o
  | .bfi o => .a o
  | .abs o => .a o
  | .neg o => .a o
  | .rndc o => .a o
  | .sext o => .a o
  | .fadd o => .a o
  | .fsub o => .a o
  | .fmul o => .a o
  | .fma o => .a o
  | .fms o => .a o
  | .fdiv o => .a o
  | .fmin o => .a o
  | .fmax o => .a o
  | .fabs o => .a o
  | .fneg o => .a o
  | .fsqrt o => .a o
  | .frcp o => .a o
  | .frsq o => .a o
  | .fexp2 o => .a o
  | .flog2 o => .a o
  | .fsin o => .a o
  | .fcos o => .a o
  | .ftanh o => .a o
  | .fclass o => .a o
  | .cvt o => .a o
  | .cvti o => .a o
  | .cmpeq o => .a o
  | .cmpne o => .a o
  | .cmplt o => .a o
  | .cmple o => .a o
  | .cmpun o => .a o
  | .plog o => .a o
  | .tableWalk _ _ _ _ => .event
  | .producerResult _ _ => .event
  | .storeLeavesBuffer _ _ => .event
  | .sliceRequest _ _ _ => .event
  | .movedAnswer _ => .event
  | .expanderAccess _ _ _ => .event
  | .packCompaction _ => .event
  | .scratchpadAccess _ _ _ => .event
  | .patrolScrub _ _ => .event
  | .rowSparing _ _ => .event
  | .sliceRetirement _ => .event
  | .sliceMapInstall _ => .event
  | .ingressRequest _ => .event
  | .tfetchFill _ => .event
  | .qwaitWake _ _ => .event
  | .transferCommandStart _ _ => .event
  | .transferCommandComplete _ _ => .event
  | .commandParkResume _ _ _ _ => .event
  | .tectlRes _ => .event
  | .tectlDisc _ => .event
  | .tectlCpres _ => .event
  | .tectlCpdisc _ => .event
  | .transformCommand _ _ => .event
  | .remoteRequest _ => .event
  | .cwaitComplete _ _ => .event
  | .vectorCommand _ => .event
  | .matrixCommand _ => .event
  | .mdrainRow _ => .event
  | .mjoinComplete _ _ => .event
  | .streamWordArrival _ _ _ _ => .event
  | .judgeArrival _ => .event
  | .legFetch _ => .event
  | .relayEnd _ => .event
  | .mwaitWake _ _ => .event
  | .mwaitTimeout _ _ => .event
  | .linkRetry _ _ _ _ => .event
  | .planeRetirement _ => .event
  | .planePowerOn _ => .event
  | .planePowered _ => .event
  | .planePowerOff _ => .event
  | .collectiveContribution _ _ _ => .event
  | .collectiveComplete _ _ => .event
  | .hurdleEpisodeComplete _ => .event
  | .launchStart _ => .event
  | .launchComplete _ => .event
  | .taskDispatch _ => .event
  | .taskArrival _ => .event
  | .pfuTaskStart _ => .event
  | .pfuCommit _ => .event
  | .pfuAbort _ _ => .event
  | .paceUpdate _ => .event
  | .sleepExpiry _ _ => .event
  | .joinComplete _ _ => .event
  | .sequencerFault _ _ => .event
  | .idleWake _ _ => .event
  | .trapDelivery _ _ => .event
  | .setvec _ _ => .event
  | .setfsvc _ _ => .event
  | .eventq _ _ => .event
  | .resumefault _ _ => .event
  | .failfault _ _ => .event
  | .stepinfo _ _ => .event
  | .migrationArrival _ => .event
  | .preemption _ => .event
  | .partitionResume _ => .event
  | .coreLoss _ => .event
  | .watchdogExpiry => .event
  | .startRegister _ _ => .event
  | .doorbell _ _ => .event
  | .doorbellPosting _ => .event
  | .hostBarWrite _ _ _ _ => .event
  | .hostBarRead _ _ _ _ => .event
  | .functionLevelReset _ => .event
  | .packageReset _ => .event
  | .powerManagerTick => .event
  | .thermalLimit => .event
  | .thermalLimitLift => .event
  | .thermalShutdown => .event
  | .registerWrite _ _ => .event
  | .powerLoss _ _ => .event
  | .migrationNotice _ => .event
  | .operatingPointChangeEnd _ => .event
  | .infieldRestart => .event
  | .invalidationAcknowledge _ _ => .event

/-- What the opcode map (R42, R44, R45) and the describing chapter say of each instruction's fields. -/
def Instr.rule : Instr → OpRule
  | .nop _ => .cr ⟨false, .resv, .resv, .resv, .clear, .clear, .any⟩
  | .ldb _ => .ci ⟨true, .dst, .src, .flag, 0, .mem 0b0011⟩
  | .ldbn _ => .ci ⟨true, .dst, .src, .flag, 0, .mem 0b0011⟩
  | .ldh _ => .ci ⟨true, .dst, .src, .flag, 0, .mem 0b0011⟩
  | .ldhn _ => .ci ⟨true, .dst, .src, .flag, 0, .mem 0b0011⟩
  | .ldw _ => .ci ⟨true, .dst, .src, .flag, 0, .mem 0b0011⟩
  | .ldwn _ => .ci ⟨true, .dst, .src, .flag, 0, .mem 0b0011⟩
  | .ldd _ => .ci ⟨true, .dst, .src, .flag, 0, .mem 0b0011⟩
  | .stb _ => .ci ⟨true, .src, .src, .flag, 0, .mem 0b0101⟩
  | .sth _ => .ci ⟨true, .src, .src, .flag, 0, .mem 0b0101⟩
  | .stw _ => .ci ⟨true, .src, .src, .flag, 0, .mem 0b0101⟩
  | .std _ => .ci ⟨true, .src, .src, .flag, 0, .mem 0b0101⟩
  | .ldxd _ => .cr ⟨false, .dst, .src, .src, .flag, .flag, .any⟩
  | .stxd _ => .cr ⟨false, .src, .src, .src, .flag, .flag, .any⟩
  | .ldacq _ => .ci ⟨true, .dst, .src, .flag, 0, .mem 0b0010⟩
  | .strel _ => .ci ⟨true, .src, .src, .flag, 0, .mem 0b0100⟩
  | .aadd _ => .ci ⟨true, .gen, .src, .flag, 0, .mem 0b1111⟩
  | .aand _ => .ci ⟨true, .gen, .src, .flag, 0, .mem 0b1111⟩
  | .aor _ => .ci ⟨true, .gen, .src, .flag, 0, .mem 0b1111⟩
  | .axor _ => .ci ⟨true, .gen, .src, .flag, 0, .mem 0b1111⟩
  | .amin _ => .ci ⟨true, .gen, .src, .flag, 0, .mem 0b1111⟩
  | .amax _ => .ci ⟨true, .gen, .src, .flag, 0, .mem 0b1111⟩
  | .aminn _ => .ci ⟨true, .gen, .src, .flag, 0, .mem 0b1111⟩
  | .amaxn _ => .ci ⟨true, .gen, .src, .flag, 0, .mem 0b1111⟩
  | .aswp _ => .ci ⟨true, .gen, .src, .flag, 0, .mem 0b1111⟩
  | .acas _ => .ci ⟨true, .acas, .src, .flag, 0, .mem 0b1111⟩
  | .afadd _ => .ci ⟨true, .gen, .src, .flag, 0, .mem 0b1111⟩
  | .monitor _ => .ci ⟨true, .srcGen, .src, .flag, 0, .mem 0b0001⟩
  | .mwait _ => .cr ⟨false, .gen, .src, .resv, .flag, .clear, .any⟩
  | .drainst _ => .cr ⟨false, .resv, .resv, .resv, .clear, .clear, .any⟩
  | .fence _ => .ci ⟨false, .resv, .resv, .clear, 0x60, .fence⟩
  | .cflush _ => .ci ⟨true, .resv, .src, .flag, 0, .mem 0b0001⟩
  | .cflushInv _ => .ci ⟨true, .fixed 1, .src, .flag, 0, .mem 0b0001⟩
  | .ptrg _ => .cr ⟨false, .dst, .src, .resv, .flag, .clear, .any⟩
  | .ptrl _ => .cr ⟨false, .dst, .src, .resv, .flag, .clear, .any⟩
  | .li _ => .cl
  | .lih _ => .cl
  | .csrr _ => .ci ⟨true, .dst, .resv, .clear, 0, .csrRead⟩
  | .csrw _ => .ci ⟨true, .resv, .src, .flag, 0, .csrWrite⟩
  | .pbind _ => .cr ⟨false, .outPort, .src, .resv, .flag, .clear, .any⟩
  | .tld _ => .cr ⟨false, .dst, .src, .src, .flag, .flag, .any⟩
  | .xcopy _ => .cr ⟨false, .cc, .src, .resv, .flag, .clear, .any⟩
  | .xconv _ => .cr ⟨false, .cc, .src, .resv, .flag, .clear, .any⟩
  | .xtran _ => .cr ⟨false, .cc, .src, .resv, .flag, .clear, .any⟩
  | .xexp _ => .cr ⟨false, .cc, .src, .resv, .flag, .clear, .any⟩
  | .xpack _ => .cr ⟨false, .cc, .src, .resv, .flag, .clear, .any⟩
  | .getx _ => .cr ⟨false, .cc, .src, .resv, .flag, .clear, .any⟩
  | .getxReg _ => .cr ⟨false, .cc, .src, .gen, .flag, .set, .any⟩
  | .putx _ => .cr ⟨false, .cc, .src, .resv, .flag, .clear, .any⟩
  | .putacc _ => .cr ⟨false, .cc, .src, .resv, .flag, .clear, .any⟩
  | .cwait _ => .cr ⟨true, .resv, .cc, .src, .clear, .flag, .any⟩
  | .ctest _ => .cr ⟨false, .pq, .cc, .src, .clear, .flag, .distinct⟩
  | .cset _ => .cr ⟨true, .resv, .cc, .src, .clear, .flag, .any⟩
  | .xform _ => .cr ⟨false, .dst, .src, .cc, .flag, .clear, .conditional⟩
  | .xfpoll _ => .cr ⟨false, .dst, .src, .resv, .flag, .clear, .any⟩
  | .treg _ => .cr ⟨false, .dst, .src, .resv, .flag, .clear, .any⟩
  | .tdrop _ => .cr ⟨false, .resv, .src, .resv, .flag, .clear, .any⟩
  | .tdropFree _ => .cr ⟨false, .resv, .src, .fixed 1, .flag, .clear, .any⟩
  | .tlook _ => .cr ⟨false, .dst, .src, .pred, .flag, .clear, .any⟩
  | .tfetch _ => .cr ⟨false, .ignored, .src, .src, .flag, .flag, .any⟩
  | .thalo _ => .cr ⟨false, .pred, .src, .src, .flag, .flag, .any⟩
  | .tflush _ => .cr ⟨false, .resv, .src, .resv, .flag, .clear, .any⟩
  | .tflushInv _ => .cr ⟨false, .resv, .src, .fixed 1, .flag, .clear, .any⟩
  | .qinit _ => .cr ⟨false, .pred, .src, .src, .flag, .flag, .any⟩
  | .qpush _ => .cr ⟨false, .pred, .src, .src, .flag, .flag, .any⟩
  | .qpop _ => .cr ⟨false, .dst, .src, .pred, .flag, .clear, .any⟩
  | .qwait _ => .cr ⟨false, .resv, .src, .resv, .flag, .clear, .any⟩
  | .malloc _ => .cr ⟨false, .dst, .src, .pred, .flag, .clear, .any⟩
  | .mfree _ => .cr ⟨false, .resv, .src, .resv, .flag, .clear, .any⟩
  | .mma _ => .cr ⟨false, .cc, .src, .resv, .flag, .clear, .any⟩
  | .mmas _ => .cr ⟨false, .cc, .src, .resv, .flag, .clear, .any⟩
  | .mzero _ => .cr ⟨false, .cc, .src, .resv, .flag, .clear, .any⟩
  | .mlda _ => .cr ⟨false, .cc, .src, .resv, .flag, .clear, .any⟩
  | .msta _ => .cr ⟨false, .cc, .src, .resv, .flag, .clear, .any⟩
  | .mdrain _ => .cr ⟨false, .cc, .src, .resv, .flag, .clear, .any⟩
  | .rdone _ => .cr ⟨false, .resv, .src, .resv, .flag, .clear, .any⟩
  | .mjoin _ => .cr ⟨false, .resv, .src, .resv, .flag, .clear, .any⟩
  | .mrdrow _ => .cr ⟨false, .dst, .src, .src, .flag, .flag, .any⟩
  | .mstat _ => .cr ⟨false, .dst, .src, .resv, .flag, .clear, .any⟩
  | .vchain _ => .cr ⟨false, .cc, .src, .resv, .flag, .clear, .any⟩
  | .vred _ => .cr ⟨false, .cc, .src, .resv, .flag, .clear, .any⟩
  | .vscan _ => .cr ⟨false, .cc, .src, .resv, .flag, .clear, .any⟩
  | .vsort _ => .cr ⟨false, .cc, .src, .resv, .flag, .clear, .any⟩
  | .vtopk _ => .cr ⟨false, .cc, .src, .resv, .flag, .clear, .any⟩
  | .vsrch _ => .cr ⟨false, .cc, .src, .resv, .flag, .clear, .any⟩
  | .vpack24 _ => .cr ⟨false, .cc, .src, .resv, .flag, .clear, .any⟩
  | .vconv _ => .cr ⟨false, .cc, .src, .resv, .flag, .clear, .any⟩
  | .vrand _ => .cr ⟨false, .cc, .src, .resv, .flag, .clear, .any⟩
  | .vgath _ => .cr ⟨false, .cc, .src, .resv, .flag, .clear, .any⟩
  | .vscat _ => .cr ⟨false, .cc, .src, .resv, .flag, .clear, .any⟩
  | .vcmp _ => .cr ⟨false, .cc, .src, .resv, .flag, .clear, .any⟩
  | .vsel _ => .cr ⟨false, .cc, .src, .resv, .flag, .clear, .any⟩
  | .vjoin _ => .cr ⟨false, .cc, .src, .resv, .flag, .clear, .any⟩
  | .vfill _ => .cr ⟨false, .cc, .src, .resv, .flag, .clear, .any⟩
  | .vhist _ => .cr ⟨false, .cc, .src, .resv, .flag, .clear, .any⟩
  | .foenc _ => .cr ⟨false, .cc, .src, .resv, .flag, .clear, .any⟩
  | .foopen _ => .cr ⟨false, .resv, .src, .resv, .flag, .clear, .any⟩
  | .fostep _ => .cr ⟨false, .dst, .src, .resv, .flag, .clear, .any⟩
  | .forun _ => .cr ⟨false, .dst, .resv, .resv, .clear, .clear, .any⟩
  | .foclose _ => .cr ⟨false, .dst, .resv, .resv, .clear, .clear, .any⟩
  | .fosheet _ => .cr ⟨false, .dst, .src, .resv, .flag, .clear, .any⟩
  | .fograd _ => .cr ⟨false, .cc, .src, .resv, .flag, .clear, .any⟩
  | .fostat _ => .cr ⟨false, .dst, .resv, .resv, .clear, .clear, .any⟩
  | .relay _ => .cr ⟨false, .resv, .src, .resv, .flag, .clear, .any⟩
  | .relayResume _ => .cr ⟨false, .fixed 1, .resv, .resv, .clear, .clear, .any⟩
  | .rstat _ => .cr ⟨false, .dst, .resv, .resv, .clear, .clear, .any⟩
  | .rstatAbandon _ => .cr ⟨false, .dst, .resv, .bits 0x3C 0, .clear, .clear, .oneBit⟩
  | .rstatLeg _ => .cr ⟨false, .dst, .resv, .fixed 2, .clear, .clear, .any⟩
  | .group _ => .cr ⟨false, .resv, .src, .src, .flag, .flag, .any⟩
  | .agath _ => .cr ⟨false, .cc, .src, .resv, .flag, .clear, .any⟩
  | .rscat _ => .cr ⟨false, .cc, .src, .resv, .flag, .clear, .any⟩
  | .atoa _ => .cr ⟨false, .cc, .src, .resv, .flag, .clear, .any⟩
  | .hurdle _ => .ci ⟨false, .resv, .src, .flag, 0, .hurdle⟩
  | .cntsum _ => .cr ⟨false, .resv, .src, .src, .flag, .flag, .any⟩
  | .cntsumClr _ => .cr ⟨false, .fixed 1, .src, .src, .flag, .flag, .any⟩
  | .br _ => .cb
  | .call _ => .cb
  | .jmpr _ => .cr ⟨false, .resv, .src, .resv, .flag, .clear, .any⟩
  | .jmprLink _ => .cr ⟨false, .resv, .src, .fixed 1, .flag, .clear, .any⟩
  | .loop _ => .ci ⟨true, .gen, .src, .flag, 0, .any⟩
  | .start _ => .cr ⟨false, .gen, .src, .src, .flag, .flag, .any⟩
  | .fork _ => .cr ⟨false, .resv, .src, .src, .flag, .flag, .any⟩
  | .join _ => .cr ⟨false, .gen, .src, .resv, .flag, .clear, .any⟩
  | .send _ => .cr ⟨false, .resv, .src, .resv, .flag, .clear, .any⟩
  | .taskq _ => .cr ⟨false, .cc, .src, .resv, .flag, .clear, .any⟩
  | .launch _ => .cr ⟨false, .cc, .src, .resv, .flag, .clear, .any⟩
  | .setwp _ => .cr ⟨false, .resv, .src, .resv, .flag, .clear, .any⟩
  | .exit _ => .cr ⟨false, .resv, .resv, .resv, .clear, .clear, .any⟩
  | .trap _ => .ci ⟨true, .resv, .src, .flag, 0, .any⟩
  | .tret _ => .cr ⟨false, .resv, .resv, .resv, .clear, .clear, .any⟩
  | .tretTerm _ => .cr ⟨false, .fixed 1, .src, .resv, .flag, .clear, .any⟩
  -- MODE 3 reads its fields as MODE 1 and 2 do (log 51).
  | .tretTermall _ => .cr ⟨false, .mode, .src, .resv, .flag, .clear, .mode⟩
  | .sleep _ => .cr ⟨false, .resv, .src, .resv, .flag, .clear, .any⟩
  | .invpg _ => .cx ⟨.resv, .src⟩
  | .invas _ => .cx ⟨.resv, .src⟩
  | .invall _ => .cx ⟨.resv, .resv⟩
  | .tlbsync _ => .cx ⟨.resv, .resv⟩
  | .swcall _ => .cx ⟨.dst, .src⟩
  | .world _ => .cx ⟨.dst, .resv⟩
  | .discard _ => .cx ⟨.src, .src⟩
  | .idle _ => .cx ⟨.resv, .resv⟩
  | .add _ => .a ⟨0x0F, .dst, .src, .src, .any⟩
  | .sub _ => .a ⟨0x0F, .dst, .src, .src, .any⟩
  | .mul _ => .a ⟨0x0F, .dst, .src, .src, .any⟩
  | .mulh _ => .a ⟨0x0F, .dst, .src, .src, .any⟩
  | .div _ => .a ⟨0x0F, .dst, .src, .src, .any⟩
  | .rem _ => .a ⟨0x0F, .dst, .src, .src, .any⟩
  | .min _ => .a ⟨0x0F, .dst, .src, .src, .any⟩
  | .max _ => .a ⟨0x0F, .dst, .src, .src, .any⟩
  | .and _ => .a ⟨0x0F, .dst, .src, .src, .any⟩
  | .or _ => .a ⟨0x0F, .dst, .src, .src, .any⟩
  | .xor _ => .a ⟨0x0F, .dst, .src, .src, .any⟩
  | .andn _ => .a ⟨0x0F, .dst, .src, .src, .any⟩
  | .shl _ => .a ⟨0x0F, .dst, .src, .src, .any⟩
  | .shr _ => .a ⟨0x0F, .dst, .src, .src, .any⟩
  | .sar _ => .a ⟨0x0F, .dst, .src, .src, .any⟩
  | .rot _ => .a ⟨0x0F, .dst, .src, .src, .any⟩
  | .addi _ => .a ⟨0x0F, .dst, .src, .ignored, .any⟩
  | .shli _ => .a ⟨0x0F, .dst, .src, .ignored, .any⟩
  | .shri _ => .a ⟨0x0F, .dst, .src, .ignored, .any⟩
  | .sari _ => .a ⟨0x0F, .dst, .src, .ignored, .any⟩
  | .andi _ => .a ⟨0x0F, .dst, .src, .ignored, .any⟩
  | .mov _ => .a ⟨0x0F, .dst, .src, .resv, .any⟩
  | .sel _ => .a ⟨0xFF, .dst, .src, .src, .any⟩
  | .clz _ => .a ⟨0x0F, .dst, .src, .resv, .any⟩
  | .popc _ => .a ⟨0x0F, .dst, .src, .resv, .any⟩
  | .bfx _ => .a ⟨0x0F, .dst, .src, .src, .any⟩
  | .bfi _ => .a ⟨0x0F, .gen, .src, .src, .any⟩
  | .abs _ => .a ⟨0x0F, .dst, .src, .resv, .any⟩
  | .neg _ => .a ⟨0x0F, .dst, .src, .resv, .any⟩
  | .rndc _ => .a ⟨0x0F, .dst, .src, .src, .any⟩
  | .sext _ => .a ⟨0x0F, .dst, .src, .resv, .any⟩
  | .fadd _ => .a ⟨0x70, .dst, .src, .src, .any⟩
  | .fsub _ => .a ⟨0x70, .dst, .src, .src, .any⟩
  | .fmul _ => .a ⟨0x70, .dst, .src, .src, .any⟩
  | .fma _ => .a ⟨0x70, .gen, .src, .src, .any⟩
  | .fms _ => .a ⟨0x70, .gen, .src, .src, .any⟩
  | .fdiv _ => .a ⟨0x70, .dst, .src, .src, .any⟩
  | .fmin _ => .a ⟨0x70, .dst, .src, .src, .any⟩
  | .fmax _ => .a ⟨0x70, .dst, .src, .src, .any⟩
  | .fabs _ => .a ⟨0x70, .dst, .src, .resv, .any⟩
  | .fneg _ => .a ⟨0x70, .dst, .src, .resv, .any⟩
  | .fsqrt _ => .a ⟨0x70, .dst, .src, .resv, .any⟩
  | .frcp _ => .a ⟨0x70, .dst, .src, .resv, .any⟩
  | .frsq _ => .a ⟨0x70, .dst, .src, .resv, .any⟩
  | .fexp2 _ => .a ⟨0x70, .dst, .src, .resv, .any⟩
  | .flog2 _ => .a ⟨0x70, .dst, .src, .resv, .any⟩
  | .fsin _ => .a ⟨0x70, .dst, .src, .resv, .any⟩
  | .fcos _ => .a ⟨0x70, .dst, .src, .resv, .any⟩
  | .ftanh _ => .a ⟨0x70, .dst, .src, .resv, .any⟩
  | .fclass _ => .a ⟨0x70, .dst, .src, .resv, .any⟩
  | .cvt _ => .a ⟨0x7F, .dst, .src, .code, .source⟩
  | .cvti _ => .a ⟨0x7F, .dst, .src, .code, .source⟩
  | .cmpeq _ => .a ⟨0x7F, .pq, .src, .src, .distinct⟩
  | .cmpne _ => .a ⟨0x7F, .pq, .src, .src, .distinct⟩
  | .cmplt _ => .a ⟨0x7F, .pq, .src, .src, .distinct⟩
  | .cmple _ => .a ⟨0x7F, .pq, .src, .src, .distinct⟩
  | .cmpun _ => .a ⟨0x7F, .pq, .src, .src, .distinct⟩
  | .plog _ => .a ⟨0xFF, .pq, .predSrc, .predSrc, .distinct⟩
  | .tableWalk _ _ _ _ => .event
  | .producerResult _ _ => .event
  | .storeLeavesBuffer _ _ => .event
  | .sliceRequest _ _ _ => .event
  | .movedAnswer _ => .event
  | .expanderAccess _ _ _ => .event
  | .packCompaction _ => .event
  | .scratchpadAccess _ _ _ => .event
  | .patrolScrub _ _ => .event
  | .rowSparing _ _ => .event
  | .sliceRetirement _ => .event
  | .sliceMapInstall _ => .event
  | .ingressRequest _ => .event
  | .tfetchFill _ => .event
  | .qwaitWake _ _ => .event
  | .transferCommandStart _ _ => .event
  | .transferCommandComplete _ _ => .event
  | .commandParkResume _ _ _ _ => .event
  | .tectlRes _ => .event
  | .tectlDisc _ => .event
  | .tectlCpres _ => .event
  | .tectlCpdisc _ => .event
  | .transformCommand _ _ => .event
  | .remoteRequest _ => .event
  | .cwaitComplete _ _ => .event
  | .vectorCommand _ => .event
  | .matrixCommand _ => .event
  | .mdrainRow _ => .event
  | .mjoinComplete _ _ => .event
  | .streamWordArrival _ _ _ _ => .event
  | .judgeArrival _ => .event
  | .legFetch _ => .event
  | .relayEnd _ => .event
  | .mwaitWake _ _ => .event
  | .mwaitTimeout _ _ => .event
  | .linkRetry _ _ _ _ => .event
  | .planeRetirement _ => .event
  | .planePowerOn _ => .event
  | .planePowered _ => .event
  | .planePowerOff _ => .event
  | .collectiveContribution _ _ _ => .event
  | .collectiveComplete _ _ => .event
  | .hurdleEpisodeComplete _ => .event
  | .launchStart _ => .event
  | .launchComplete _ => .event
  | .taskDispatch _ => .event
  | .taskArrival _ => .event
  | .pfuTaskStart _ => .event
  | .pfuCommit _ => .event
  | .pfuAbort _ _ => .event
  | .paceUpdate _ => .event
  | .sleepExpiry _ _ => .event
  | .joinComplete _ _ => .event
  | .sequencerFault _ _ => .event
  | .idleWake _ _ => .event
  | .trapDelivery _ _ => .event
  | .setvec _ _ => .event
  | .setfsvc _ _ => .event
  | .eventq _ _ => .event
  | .resumefault _ _ => .event
  | .failfault _ _ => .event
  | .stepinfo _ _ => .event
  | .migrationArrival _ => .event
  | .preemption _ => .event
  | .partitionResume _ => .event
  | .coreLoss _ => .event
  | .watchdogExpiry => .event
  | .startRegister _ _ => .event
  | .doorbell _ _ => .event
  | .doorbellPosting _ => .event
  | .hostBarWrite _ _ _ _ => .event
  | .hostBarRead _ _ _ _ => .event
  | .functionLevelReset _ => .event
  | .packageReset _ => .event
  | .powerManagerTick => .event
  | .thermalLimit => .event
  | .thermalLimitLift => .event
  | .thermalShutdown => .event
  | .registerWrite _ _ => .event
  | .powerLoss _ _ => .event
  | .migrationNotice _ => .event
  | .operatingPointChangeEnd _ => .event
  | .infieldRestart => .event
  | .invalidationAcknowledge _ _ => .event

/-- The guard field of an instruction: an event has none and reads as "always" (R23). -/
def Fields.guard : Fields → BitVec 4
  | .cr o => o.g | .ci o => o.g | .cl o => o.g | .cb o => o.g | .cx o => o.g | .a o => o.g | .event => 7

/-- Reserved bits of a field are zero and fixed bits hold their value (reason 3, R47). -/
def FieldUse.bitsOk (u : FieldUse) (v : BitVec 6) : Bool :=
  match u with
  | .resv => v == 0
  | .fixed k => v == BitVec.ofNat 6 k
  | .bits m k => (v &&& BitVec.ofNat 6 m) == BitVec.ofNat 6 k
  | .pred | .predSrc | .code => (v &&& 0x38) == 0
  | .cc => (v &&& 0x30) == 0
  | .mode => (v &&& 0x3C) == 0
  | _ => true

/-- The register named is one the field permits (reason 5, R24, R47). -/
def FieldUse.regOk (u : FieldUse) (v : BitVec 6) : Bool :=
  match u with
  | .src => v.toNat < 60
  | .srcGen | .gen => v.toNat < 56
  | .dst => v.toNat < 56 || 60 ≤ v.toNat
  | .acas => v.toNat < 55
  | .outPort => 60 ≤ v.toNat
  | _ => true

def FlagUse.ok (u : FlagUse) (v : BitVec 1) : Bool :=
  match u with
  | .flag => true
  | .clear => v == 0
  | .set => v == 1

/-- The CSR numbers of R162, and which of them CSRW accepts. -/
def csrListed (n : Nat) : Bool := n ≤ 8 || (0x10 ≤ n && n ≤ 0x2F)

def csrWritable (n : Nat) : Bool := (3 ≤ n && n ≤ 6) || (0x20 ≤ n && n ≤ 0x2F)

/-- The CSR number of CSRR and CSRW: imm7 in 0–63, or a literal whose bits 31:16 are zero (R165). -/
def csrNumber (imm : BitVec 7) (lit : Option W32) : Option Nat :=
  match lit with
  | some l => if l.toNat < 65536 then some l.toNat else none
  | none => if imm.toNat < 64 then some imm.toNat else none

/-- A memory literal's scope code and order code (R22). -/
def litScope (l : W32) : Nat := (l.extractLsb' 26 3).toNat

def litOrder (l : W32) : Nat := (l.extractLsb' 24 2).toNat

/-- p and q of a predicate pair: distinct, or both g7 (R25). -/
def pqDistinct (d : BitVec 6) : Bool :=
  d.extractLsb' 0 3 != d.extractLsb' 3 3 || d.extractLsb' 0 3 == 7

/-- Reason 6 as far as it is judged on the encoded word (R47, R48). -/
def ValueRule.ok (v : ValueRule) (f : Fields) : Bool :=
  match v, f with
  | .mem orders, .ci o =>
    match o.lit with
    | some l => litScope l != 7 && orders.getLsbD (litOrder l)
    | none => true
  | .fence, .ci o => o.imm.extractLsb' 0 3 != 7 && o.imm.extractLsb' 3 2 != 0
  | .hurdle, .ci o => 1 ≤ (o.imm.extractLsb' 0 3).toNat && (o.imm.extractLsb' 0 3).toNat ≤ 5
  | .csrRead, .ci o => match csrNumber o.imm o.lit with | some n => csrListed n | none => false
  | .csrWrite, .ci o => match csrNumber o.imm o.lit with | some n => csrWritable n | none => false
  | .distinct, .cr o => pqDistinct o.d
  | .distinct, .a o => pqDistinct o.d
  | .mode, .cr o => o.d.extractLsb' 0 2 == 2
  | .oneBit, .cr o => o.b == 1
  | .conditional, .cr o => o.g.extractLsb' 0 3 != 7
  | .source, .a o => o.b.extractLsb' 0 3 != 7
  | _, _ => true

/-- The literal of an instruction, where one stands in the bundle. -/
def Fields.lit : Fields → Option W32
  | .cr o => o.lit | .ci o => o.lit | .cl o => o.lit | .cb o => o.lit | .cx o => o.lit
  | .a _ | .event => none

/-- Reason 2 (R42, R47): a literal stands where none is accepted. -/
def OpRule.litOk (r : OpRule) (f : Fields) : Bool :=
  match r with
  | .cr r => r.lit || f.lit.isNone
  | .ci r => r.lit || f.lit.isNone
  | .cl | .a _ | .event => true
  | .cb | .cx _ => f.lit.isNone

/-- Reason 3 (R21, R42–R45, R47): reserved bits, and the field that a literal replaces, are zero. -/
def OpRule.bitsOk (r : OpRule) (f : Fields) : Bool :=
  match r, f with
  | .cr r, .cr o =>
    r.d.bitsOk o.d && r.a.bitsOk o.a && r.b.bitsOk o.b && r.fa.ok o.fa && r.fb.ok o.fb
      && (o.lit.isNone || (o.b == 0 && o.fb == 0))
  | .ci r, .ci o =>
    r.d.bitsOk o.d && r.a.bitsOk o.a && r.fa.ok o.fa && (o.imm &&& r.immReserved) == 0
      && (o.lit.isNone || o.imm == 0)
  | .cl, .cl o => o.lit.isNone || o.imm == 0
  | .cb, .cb _ => true
  | .cx r, .cx o => r.d.bitsOk o.d && r.a.bitsOk o.a
  | .a r, .a o => r.d.bitsOk o.d && r.a.bitsOk o.a && r.b.bitsOk o.b
  | .event, .event => true
  | _, _ => false

/-- Reason 4 (R45, R47): the type code is in the instruction's set. -/
def OpRule.typeOk (r : OpRule) (f : Fields) : Bool :=
  match r, f with
  | .a r, .a o => r.types.getLsbD o.t.toNat
  | _, _ => true

/-- Reason 5 (R24, R47): every register field names a permitted register. -/
def OpRule.regsOk (r : OpRule) (f : Fields) : Bool :=
  match r, f with
  | .cr r, .cr o => r.d.regOk o.d && r.a.regOk o.a && (o.lit.isSome || r.b.regOk o.b)
  | .ci r, .ci o => r.d.regOk o.d && r.a.regOk o.a
  | .cl, .cl o => o.d.toNat < 56
  | .cx r, .cx o => r.d.regOk o.d && r.a.regOk o.a
  | .a r, .a o => r.d.regOk o.d && r.a.regOk o.a && r.b.regOk o.b
  | _, _ => true

def OpRule.valueOk (r : OpRule) (f : Fields) : Bool :=
  match r with
  | .cr r => r.value.ok f
  | .ci r => r.value.ok f
  | .a r => r.value.ok f
  | .cl | .cb | .cx _ | .event => true

/-- The first of the reasons 2 to 6 that the word shows, in rising order (R46, R47). -/
def Instr.reason (i : Instr) : Option Reason :=
  let r := i.rule
  let f := i.fields
  if !r.litOk f then some .literal
  else if !r.bitsOk f then some .reserved
  else if !r.typeOk f then some .type
  else if !r.regsOk f then some .register
  else if !r.valueOk f then some .value
  else none

/-- An event row of the opcode table: it has no encoding. -/
def Instr.isEvent (i : Instr) : Bool :=
  match i.fields with
  | .event => true
  | _ => false

/-- An A-slot instruction (R20, R45). -/
def Instr.isA (i : Instr) : Bool :=
  match i.fields with
  | .a _ => true
  | _ => false

/-- A well-formed instruction: its word raises no reason of R47. -/
def Instr.wellFormed (i : Instr) : Bool := i.reason.isNone

end Sys2Proof
end

