-- ==== Sys2Proof/Decode.lean ====
section
/-! DEFINITION. The decoder of the two slots of a bundle (R19, R20, R41–R48), total on any word and refusing by the
reasons of R47, and the encoder written from the same tables. -/

namespace Sys2Proof

/-- Bits 30:24 of word 0 (R19). -/
def op7Of (w : W32) : BitVec 7 := w.extractLsb' 24 7

/-- Bits 30:25 of an A-slot word (R20). -/
def op6Of (w : W32) : BitVec 6 := w.extractLsb' 25 6

/-- L, bit 31 of word 0 (R14). -/
def lBit (w : W32) : Bool := w.getLsbD 31

/-- The guard field of a C-slot word (R23). -/
def guardC (w : W32) : BitVec 4 := w.extractLsb' 20 4

/-- The guard field of an A-slot word (R23). -/
def guardA (w : W32) : BitVec 4 := w.extractLsb' 18 4

def crOf (w : W32) (lit : Option W32) : CROps :=
  ⟨w.extractLsb' 20 4, w.extractLsb' 14 6, w.extractLsb' 8 6, w.extractLsb' 2 6, w.extractLsb' 1 1,
    w.extractLsb' 0 1, lit⟩

def ciOf (w : W32) (lit : Option W32) : CIOps :=
  ⟨w.extractLsb' 20 4, w.extractLsb' 14 6, w.extractLsb' 8 6, w.extractLsb' 1 7, w.extractLsb' 0 1, lit⟩

def clOf (w : W32) (lit : Option W32) : CLOps := ⟨w.extractLsb' 20 4, w.extractLsb' 14 6, w.extractLsb' 0 14, lit⟩

def cbOf (w : W32) (lit : Option W32) : CBOps := ⟨w.extractLsb' 20 4, w.extractLsb' 0 20, lit⟩

def cxOf (w : W32) (lit : Option W32) : CXOps := ⟨w.extractLsb' 20 4, w.extractLsb' 14 6, w.extractLsb' 8 6, lit⟩

def aOf (w : W32) : AOps :=
  ⟨w.extractLsb' 31 1, w.extractLsb' 22 3, w.extractLsb' 18 4, w.extractLsb' 12 6, w.extractLsb' 6 6,
    w.extractLsb' 0 6⟩

/-- The SYS functions (R44). -/
def shapeSys (w : W32) (lit : Option W32) : Option Instr :=
  match (w.extractLsb' 0 8).toNat with
  | 0x01 => some (.invpg (cxOf w lit))
  | 0x02 => some (.invas (cxOf w lit))
  | 0x03 => some (.invall (cxOf w lit))
  | 0x04 => some (.tlbsync (cxOf w lit))
  | 0x05 => some (.swcall (cxOf w lit))
  | 0x06 => some (.world (cxOf w lit))
  | 0x07 => some (.discard (cxOf w lit))
  | 0x08 => some (.idle (cxOf w lit))
  | _ => none

/-- The C-slot instruction a word names, before its fields are judged: none for an unassigned op7 or func8 (R41,
R44, reason 1). A row with a variant bit of its own is chosen by that bit. -/
def shapeC (w : W32) (lit : Option W32) : Option Instr :=
  match (op7Of w).toNat with
  | 0x00 => some (.nop (crOf w lit))
  | 0x01 => some (.ldb (ciOf w lit))
  | 0x02 => some (.ldbn (ciOf w lit))
  | 0x03 => some (.ldh (ciOf w lit))
  | 0x04 => some (.ldhn (ciOf w lit))
  | 0x05 => some (.ldw (ciOf w lit))
  | 0x06 => some (.ldwn (ciOf w lit))
  | 0x07 => some (.ldd (ciOf w lit))
  | 0x08 => some (.stb (ciOf w lit))
  | 0x09 => some (.sth (ciOf w lit))
  | 0x0a => some (.stw (ciOf w lit))
  | 0x0b => some (.std (ciOf w lit))
  | 0x0c => some (.ldxd (crOf w lit))
  | 0x0d => some (.stxd (crOf w lit))
  | 0x0e => some (.ldacq (ciOf w lit))
  | 0x0f => some (.strel (ciOf w lit))
  | 0x10 => some (.aadd (ciOf w lit))
  | 0x11 => some (.aand (ciOf w lit))
  | 0x12 => some (.aor (ciOf w lit))
  | 0x13 => some (.axor (ciOf w lit))
  | 0x14 => some (.amin (ciOf w lit))
  | 0x15 => some (.amax (ciOf w lit))
  | 0x16 => some (.aminn (ciOf w lit))
  | 0x17 => some (.amaxn (ciOf w lit))
  | 0x18 => some (.aswp (ciOf w lit))
  | 0x19 => some (.acas (ciOf w lit))
  | 0x1a => some (.afadd (ciOf w lit))
  | 0x1b => some (.monitor (ciOf w lit))
  | 0x1c => some (.mwait (crOf w lit))
  | 0x1d => some (.drainst (crOf w lit))
  | 0x1e => some (.fence (ciOf w lit))
  | 0x1f => if w.getLsbD 14 then some (.cflushInv (ciOf w lit)) else some (.cflush (ciOf w lit))
  | 0x20 => some (.ptrg (crOf w lit))
  | 0x21 => some (.ptrl (crOf w lit))
  | 0x22 => some (.li (clOf w lit))
  | 0x23 => some (.lih (clOf w lit))
  | 0x24 => some (.csrr (ciOf w lit))
  | 0x25 => some (.csrw (ciOf w lit))
  | 0x26 => some (.pbind (crOf w lit))
  | 0x27 => some (.tld (crOf w lit))
  | 0x28 => some (.xcopy (crOf w lit))
  | 0x29 => some (.xconv (crOf w lit))
  | 0x2a => some (.xtran (crOf w lit))
  | 0x2b => some (.xexp (crOf w lit))
  | 0x2c => some (.xpack (crOf w lit))
  | 0x2d => if w.getLsbD 0 then some (.getxReg (crOf w lit)) else some (.getx (crOf w lit))
  | 0x2e => some (.putx (crOf w lit))
  | 0x2f => some (.putacc (crOf w lit))
  | 0x30 => some (.cwait (crOf w lit))
  | 0x31 => some (.ctest (crOf w lit))
  | 0x32 => some (.cset (crOf w lit))
  | 0x33 => some (.xform (crOf w lit))
  | 0x34 => some (.xfpoll (crOf w lit))
  | 0x35 => some (.treg (crOf w lit))
  | 0x36 => if w.getLsbD 2 then some (.tdropFree (crOf w lit)) else some (.tdrop (crOf w lit))
  | 0x37 => some (.tlook (crOf w lit))
  | 0x38 => some (.tfetch (crOf w lit))
  | 0x39 => some (.thalo (crOf w lit))
  | 0x3a => if w.getLsbD 2 then some (.tflushInv (crOf w lit)) else some (.tflush (crOf w lit))
  | 0x3b => some (.qinit (crOf w lit))
  | 0x3c => some (.qpush (crOf w lit))
  | 0x3d => some (.qpop (crOf w lit))
  | 0x3e => some (.qwait (crOf w lit))
  | 0x40 => some (.malloc (crOf w lit))
  | 0x41 => some (.mfree (crOf w lit))
  | 0x42 => some (.mma (crOf w lit))
  | 0x43 => some (.mmas (crOf w lit))
  | 0x44 => some (.mzero (crOf w lit))
  | 0x45 => some (.mlda (crOf w lit))
  | 0x46 => some (.msta (crOf w lit))
  | 0x47 => some (.mdrain (crOf w lit))
  | 0x48 => some (.rdone (crOf w lit))
  | 0x49 => some (.mjoin (crOf w lit))
  | 0x4a => some (.mrdrow (crOf w lit))
  | 0x4b => some (.mstat (crOf w lit))
  | 0x50 => some (.vchain (crOf w lit))
  | 0x51 => some (.vred (crOf w lit))
  | 0x52 => some (.vscan (crOf w lit))
  | 0x53 => some (.vsort (crOf w lit))
  | 0x54 => some (.vtopk (crOf w lit))
  | 0x55 => some (.vsrch (crOf w lit))
  | 0x56 => some (.vpack24 (crOf w lit))
  | 0x57 => some (.vconv (crOf w lit))
  | 0x58 => some (.vrand (crOf w lit))
  | 0x59 => some (.vgath (crOf w lit))
  | 0x5a => some (.vscat (crOf w lit))
  | 0x5b => some (.vcmp (crOf w lit))
  | 0x5c => some (.vsel (crOf w lit))
  | 0x5d => some (.vjoin (crOf w lit))
  | 0x5e => some (.vfill (crOf w lit))
  | 0x5f => some (.vhist (crOf w lit))
  | 0x60 => some (.foenc (crOf w lit))
  | 0x61 => some (.foopen (crOf w lit))
  | 0x62 => some (.fostep (crOf w lit))
  | 0x63 => some (.forun (crOf w lit))
  | 0x64 => some (.foclose (crOf w lit))
  | 0x65 => some (.fosheet (crOf w lit))
  | 0x66 => some (.fograd (crOf w lit))
  | 0x67 => some (.fostat (crOf w lit))
  | 0x68 => if w.getLsbD 14 then some (.relayResume (crOf w lit)) else some (.relay (crOf w lit))
  | 0x69 => if w.getLsbD 2 then some (.rstatAbandon (crOf w lit)) else if w.getLsbD 3 then some (.rstatLeg (crOf w lit)) else some (.rstat (crOf w lit))
  | 0x6a => some (.group (crOf w lit))
  | 0x6b => some (.agath (crOf w lit))
  | 0x6c => some (.rscat (crOf w lit))
  | 0x6d => some (.atoa (crOf w lit))
  | 0x6e => some (.hurdle (ciOf w lit))
  | 0x6f => if w.getLsbD 14 then some (.cntsumClr (crOf w lit)) else some (.cntsum (crOf w lit))
  | 0x70 => some (.br (cbOf w lit))
  | 0x71 => some (.call (cbOf w lit))
  | 0x72 => if w.getLsbD 2 then some (.jmprLink (crOf w lit)) else some (.jmpr (crOf w lit))
  | 0x73 => some (.loop (ciOf w lit))
  | 0x74 => some (.start (crOf w lit))
  | 0x75 => some (.fork (crOf w lit))
  | 0x76 => some (.join (crOf w lit))
  | 0x77 => some (.send (crOf w lit))
  | 0x78 => some (.taskq (crOf w lit))
  | 0x79 => some (.launch (crOf w lit))
  | 0x7a => some (.setwp (crOf w lit))
  | 0x7b => some (.exit (crOf w lit))
  | 0x7c => some (.trap (ciOf w lit))
  | 0x7d => if w.getLsbD 15 then some (.tretTermall (crOf w lit)) else if w.getLsbD 14 then some (.tretTerm (crOf w lit)) else some (.tret (crOf w lit))
  | 0x7e => some (.sleep (crOf w lit))
  | 0x7f => shapeSys w lit
  | _ => none

/-- The A-slot instruction a word names, before its fields are judged: none for an unassigned op6 (R45, reason 1). -/
def shapeA (w : W32) : Option Instr :=
  match (op6Of w).toNat with
  | 0x00 => some (.add (aOf w))
  | 0x01 => some (.sub (aOf w))
  | 0x02 => some (.mul (aOf w))
  | 0x03 => some (.mulh (aOf w))
  | 0x04 => some (.div (aOf w))
  | 0x05 => some (.rem (aOf w))
  | 0x06 => some (.min (aOf w))
  | 0x07 => some (.max (aOf w))
  | 0x08 => some (.and (aOf w))
  | 0x09 => some (.or (aOf w))
  | 0x0a => some (.xor (aOf w))
  | 0x0b => some (.andn (aOf w))
  | 0x0c => some (.shl (aOf w))
  | 0x0d => some (.shr (aOf w))
  | 0x0e => some (.sar (aOf w))
  | 0x0f => some (.rot (aOf w))
  | 0x10 => some (.addi (aOf w))
  | 0x11 => some (.shli (aOf w))
  | 0x12 => some (.shri (aOf w))
  | 0x13 => some (.sari (aOf w))
  | 0x14 => some (.andi (aOf w))
  | 0x15 => some (.mov (aOf w))
  | 0x16 => some (.sel (aOf w))
  | 0x17 => some (.clz (aOf w))
  | 0x18 => some (.popc (aOf w))
  | 0x19 => some (.bfx (aOf w))
  | 0x1a => some (.bfi (aOf w))
  | 0x1b => some (.abs (aOf w))
  | 0x1c => some (.neg (aOf w))
  | 0x1d => some (.rndc (aOf w))
  | 0x1e => some (.sext (aOf w))
  | 0x20 => some (.fadd (aOf w))
  | 0x21 => some (.fsub (aOf w))
  | 0x22 => some (.fmul (aOf w))
  | 0x23 => some (.fma (aOf w))
  | 0x24 => some (.fms (aOf w))
  | 0x25 => some (.fdiv (aOf w))
  | 0x26 => some (.fmin (aOf w))
  | 0x27 => some (.fmax (aOf w))
  | 0x28 => some (.fabs (aOf w))
  | 0x29 => some (.fneg (aOf w))
  | 0x2a => some (.fsqrt (aOf w))
  | 0x2b => some (.frcp (aOf w))
  | 0x2c => some (.frsq (aOf w))
  | 0x2d => some (.fexp2 (aOf w))
  | 0x2e => some (.flog2 (aOf w))
  | 0x2f => some (.fsin (aOf w))
  | 0x30 => some (.fcos (aOf w))
  | 0x31 => some (.ftanh (aOf w))
  | 0x32 => some (.fclass (aOf w))
  | 0x33 => some (.cvt (aOf w))
  | 0x34 => some (.cvti (aOf w))
  | 0x38 => some (.cmpeq (aOf w))
  | 0x39 => some (.cmpne (aOf w))
  | 0x3a => some (.cmplt (aOf w))
  | 0x3b => some (.cmple (aOf w))
  | 0x3c => some (.cmpun (aOf w))
  | 0x3d => some (.plog (aOf w))
  | _ => none

/-- The first reason that applies, 1 to 6 (R46, R47), or the instruction. -/
def judge (i : Option Instr) : Except Reason Instr :=
  match i with
  | none => .error .unassigned
  | some i =>
    match i.reason with
    | some r => .error r
    | none => .ok i

/-- Decode a C-slot word with the literal word that follows it when L = 1 (R14, R46). -/
def decodeC (w : W32) (lit : Option W32) : Except Reason Instr := judge (shapeC w lit)

/-- Decode an A-slot word (R20, R46). -/
def decodeA (w : W32) : Except Reason Instr := judge (shapeA w)

/-- The literal of a bundle: word 1 when L = 1 (R14). -/
def literalOf (w0 w1 : W32) : Option W32 := if lBit w0 then some w1 else none

/-- Little-endian bytes to a natural number (R7). -/
def bytesToNat : List Byte → Nat
  | [] => 0
  | b :: t => b.toNat + 256 * bytesToNat t

/-- The 32-bit word at the start of a byte list, and the rest (R7). -/
def takeWord (bs : List Byte) : Option (W32 × List Byte) :=
  if 4 ≤ bs.length then some (BitVec.ofNat 32 (bytesToNat (bs.take 4)), bs.drop 4) else none

/-- What the eight bytes of a bundle hold (R14): the C-slot outcome, and the A-slot outcome when L = 0. The bytes
after the bundle are returned. -/
structure Bundle where
  w0 : W32
  w1 : W32
deriving DecidableEq, Repr

def takeBundle (bs : List Byte) : Option (Bundle × List Byte) :=
  match takeWord bs with
  | none => none
  | some (w0, r) =>
    match takeWord r with
    | none => none
    | some (w1, r') => some (⟨w0, w1⟩, r')

/-- The opcode of each instruction: op7 in the C slot, func8 under SYS, op6 in the A slot (R41, R44, R45). -/
def Instr.opcode : Instr → Nat
  | .nop _ => 0x00
  | .ldb _ => 0x01
  | .ldbn _ => 0x02
  | .ldh _ => 0x03
  | .ldhn _ => 0x04
  | .ldw _ => 0x05
  | .ldwn _ => 0x06
  | .ldd _ => 0x07
  | .stb _ => 0x08
  | .sth _ => 0x09
  | .stw _ => 0x0a
  | .std _ => 0x0b
  | .ldxd _ => 0x0c
  | .stxd _ => 0x0d
  | .ldacq _ => 0x0e
  | .strel _ => 0x0f
  | .aadd _ => 0x10
  | .aand _ => 0x11
  | .aor _ => 0x12
  | .axor _ => 0x13
  | .amin _ => 0x14
  | .amax _ => 0x15
  | .aminn _ => 0x16
  | .amaxn _ => 0x17
  | .aswp _ => 0x18
  | .acas _ => 0x19
  | .afadd _ => 0x1a
  | .monitor _ => 0x1b
  | .mwait _ => 0x1c
  | .drainst _ => 0x1d
  | .fence _ => 0x1e
  | .cflush _ => 0x1f
  | .cflushInv _ => 0x1f
  | .ptrg _ => 0x20
  | .ptrl _ => 0x21
  | .li _ => 0x22
  | .lih _ => 0x23
  | .csrr _ => 0x24
  | .csrw _ => 0x25
  | .pbind _ => 0x26
  | .tld _ => 0x27
  | .xcopy _ => 0x28
  | .xconv _ => 0x29
  | .xtran _ => 0x2a
  | .xexp _ => 0x2b
  | .xpack _ => 0x2c
  | .getx _ => 0x2d
  | .getxReg _ => 0x2d
  | .putx _ => 0x2e
  | .putacc _ => 0x2f
  | .cwait _ => 0x30
  | .ctest _ => 0x31
  | .cset _ => 0x32
  | .xform _ => 0x33
  | .xfpoll _ => 0x34
  | .treg _ => 0x35
  | .tdrop _ => 0x36
  | .tdropFree _ => 0x36
  | .tlook _ => 0x37
  | .tfetch _ => 0x38
  | .thalo _ => 0x39
  | .tflush _ => 0x3a
  | .tflushInv _ => 0x3a
  | .qinit _ => 0x3b
  | .qpush _ => 0x3c
  | .qpop _ => 0x3d
  | .qwait _ => 0x3e
  | .malloc _ => 0x40
  | .mfree _ => 0x41
  | .mma _ => 0x42
  | .mmas _ => 0x43
  | .mzero _ => 0x44
  | .mlda _ => 0x45
  | .msta _ => 0x46
  | .mdrain _ => 0x47
  | .rdone _ => 0x48
  | .mjoin _ => 0x49
  | .mrdrow _ => 0x4a
  | .mstat _ => 0x4b
  | .vchain _ => 0x50
  | .vred _ => 0x51
  | .vscan _ => 0x52
  | .vsort _ => 0x53
  | .vtopk _ => 0x54
  | .vsrch _ => 0x55
  | .vpack24 _ => 0x56
  | .vconv _ => 0x57
  | .vrand _ => 0x58
  | .vgath _ => 0x59
  | .vscat _ => 0x5a
  | .vcmp _ => 0x5b
  | .vsel _ => 0x5c
  | .vjoin _ => 0x5d
  | .vfill _ => 0x5e
  | .vhist _ => 0x5f
  | .foenc _ => 0x60
  | .foopen _ => 0x61
  | .fostep _ => 0x62
  | .forun _ => 0x63
  | .foclose _ => 0x64
  | .fosheet _ => 0x65
  | .fograd _ => 0x66
  | .fostat _ => 0x67
  | .relay _ => 0x68
  | .relayResume _ => 0x68
  | .rstat _ => 0x69
  | .rstatAbandon _ => 0x69
  | .rstatLeg _ => 0x69
  | .group _ => 0x6a
  | .agath _ => 0x6b
  | .rscat _ => 0x6c
  | .atoa _ => 0x6d
  | .hurdle _ => 0x6e
  | .cntsum _ => 0x6f
  | .cntsumClr _ => 0x6f
  | .br _ => 0x70
  | .call _ => 0x71
  | .jmpr _ => 0x72
  | .jmprLink _ => 0x72
  | .loop _ => 0x73
  | .start _ => 0x74
  | .fork _ => 0x75
  | .join _ => 0x76
  | .send _ => 0x77
  | .taskq _ => 0x78
  | .launch _ => 0x79
  | .setwp _ => 0x7a
  | .exit _ => 0x7b
  | .trap _ => 0x7c
  | .tret _ => 0x7d
  | .tretTerm _ => 0x7d
  | .tretTermall _ => 0x7d
  | .sleep _ => 0x7e
  | .invpg _ => 0x01
  | .invas _ => 0x02
  | .invall _ => 0x03
  | .tlbsync _ => 0x04
  | .swcall _ => 0x05
  | .world _ => 0x06
  | .discard _ => 0x07
  | .idle _ => 0x08
  | .add _ => 0x00
  | .sub _ => 0x01
  | .mul _ => 0x02
  | .mulh _ => 0x03
  | .div _ => 0x04
  | .rem _ => 0x05
  | .min _ => 0x06
  | .max _ => 0x07
  | .and _ => 0x08
  | .or _ => 0x09
  | .xor _ => 0x0a
  | .andn _ => 0x0b
  | .shl _ => 0x0c
  | .shr _ => 0x0d
  | .sar _ => 0x0e
  | .rot _ => 0x0f
  | .addi _ => 0x10
  | .shli _ => 0x11
  | .shri _ => 0x12
  | .sari _ => 0x13
  | .andi _ => 0x14
  | .mov _ => 0x15
  | .sel _ => 0x16
  | .clz _ => 0x17
  | .popc _ => 0x18
  | .bfx _ => 0x19
  | .bfi _ => 0x1a
  | .abs _ => 0x1b
  | .neg _ => 0x1c
  | .rndc _ => 0x1d
  | .sext _ => 0x1e
  | .fadd _ => 0x20
  | .fsub _ => 0x21
  | .fmul _ => 0x22
  | .fma _ => 0x23
  | .fms _ => 0x24
  | .fdiv _ => 0x25
  | .fmin _ => 0x26
  | .fmax _ => 0x27
  | .fabs _ => 0x28
  | .fneg _ => 0x29
  | .fsqrt _ => 0x2a
  | .frcp _ => 0x2b
  | .frsq _ => 0x2c
  | .fexp2 _ => 0x2d
  | .flog2 _ => 0x2e
  | .fsin _ => 0x2f
  | .fcos _ => 0x30
  | .ftanh _ => 0x31
  | .fclass _ => 0x32
  | .cvt _ => 0x33
  | .cvti _ => 0x34
  | .cmpeq _ => 0x38
  | .cmpne _ => 0x39
  | .cmplt _ => 0x3a
  | .cmple _ => 0x3b
  | .cmpun _ => 0x3c
  | .plog _ => 0x3d
  | .tableWalk _ _ _ _ => 0
  | .producerResult _ _ => 0
  | .storeLeavesBuffer _ _ => 0
  | .sliceRequest _ _ _ => 0
  | .movedAnswer _ => 0
  | .expanderAccess _ _ _ => 0
  | .packCompaction _ => 0
  | .scratchpadAccess _ _ _ => 0
  | .patrolScrub _ _ => 0
  | .rowSparing _ _ => 0
  | .sliceRetirement _ => 0
  | .sliceMapInstall _ => 0
  | .ingressRequest _ => 0
  | .tfetchFill _ => 0
  | .qwaitWake _ _ => 0
  | .transferCommandStart _ _ => 0
  | .transferCommandComplete _ _ => 0
  | .commandParkResume _ _ _ _ => 0
  | .tectlRes _ => 0
  | .tectlDisc _ => 0
  | .tectlCpres _ => 0
  | .tectlCpdisc _ => 0
  | .transformCommand _ _ => 0
  | .remoteRequest _ => 0
  | .cwaitComplete _ _ => 0
  | .vectorCommand _ => 0
  | .matrixCommand _ => 0
  | .mdrainRow _ => 0
  | .mjoinComplete _ _ => 0
  | .streamWordArrival _ _ _ _ => 0
  | .judgeArrival _ => 0
  | .legFetch _ => 0
  | .relayEnd _ => 0
  | .mwaitWake _ _ => 0
  | .mwaitTimeout _ _ => 0
  | .linkRetry _ _ _ _ => 0
  | .planeRetirement _ => 0
  | .planePowerOn _ => 0
  | .planePowered _ => 0
  | .planePowerOff _ => 0
  | .collectiveContribution _ _ _ => 0
  | .collectiveComplete _ _ => 0
  | .hurdleEpisodeComplete _ => 0
  | .launchStart _ => 0
  | .launchComplete _ => 0
  | .taskDispatch _ => 0
  | .taskArrival _ => 0
  | .pfuTaskStart _ => 0
  | .pfuCommit _ => 0
  | .pfuAbort _ _ => 0
  | .paceUpdate _ => 0
  | .sleepExpiry _ _ => 0
  | .joinComplete _ _ => 0
  | .sequencerFault _ _ => 0
  | .idleWake _ _ => 0
  | .trapDelivery _ _ => 0
  | .setvec _ _ => 0
  | .setfsvc _ _ => 0
  | .eventq _ _ => 0
  | .resumefault _ _ => 0
  | .failfault _ _ => 0
  | .stepinfo _ _ => 0
  | .migrationArrival _ => 0
  | .preemption _ => 0
  | .partitionResume _ => 0
  | .coreLoss _ => 0
  | .watchdogExpiry => 0
  | .startRegister _ _ => 0
  | .doorbell _ _ => 0
  | .doorbellPosting _ => 0
  | .hostBarWrite _ _ _ _ => 0
  | .hostBarRead _ _ _ _ => 0
  | .functionLevelReset _ => 0
  | .packageReset _ => 0
  | .powerManagerTick => 0
  | .thermalLimit => 0
  | .thermalLimitLift => 0
  | .thermalShutdown => 0
  | .registerWrite _ _ => 0
  | .powerLoss _ _ => 0
  | .migrationNotice _ => 0
  | .operatingPointChangeEnd _ => 0
  | .infieldRestart => 0
  | .invalidationAcknowledge _ _ => 0

/-- The L bit of an instruction: it has a literal. -/
def lOf (lit : Option W32) : BitVec 1 := if lit.isSome then 1 else 0

def crWord (op : BitVec 7) (o : CROps) : W32 :=
  lOf o.lit ++ op ++ o.g ++ o.d ++ o.a ++ o.b ++ o.fa ++ o.fb

def ciWord (op : BitVec 7) (o : CIOps) : W32 := lOf o.lit ++ op ++ o.g ++ o.d ++ o.a ++ o.imm ++ o.fa

def clWord (op : BitVec 7) (o : CLOps) : W32 := lOf o.lit ++ op ++ o.g ++ o.d ++ o.imm

def cbWord (op : BitVec 7) (o : CBOps) : W32 := lOf o.lit ++ op ++ o.g ++ o.disp

def cxWord (func : BitVec 8) (o : CXOps) : W32 := lOf o.lit ++ (0x7F#7) ++ o.g ++ o.d ++ o.a ++ func

def aWord (op : BitVec 6) (o : AOps) : W32 := o.y ++ op ++ o.t ++ o.g ++ o.d ++ o.a ++ o.b

/-- The words of an instruction (R19, R20): its slot word, then its literal where it has one. An event has none. -/
def encode (i : Instr) : List W32 :=
  match i.fields with
  | .cr o => crWord (BitVec.ofNat 7 i.opcode) o :: o.lit.toList
  | .ci o => ciWord (BitVec.ofNat 7 i.opcode) o :: o.lit.toList
  | .cl o => clWord (BitVec.ofNat 7 i.opcode) o :: o.lit.toList
  | .cb o => cbWord (BitVec.ofNat 7 i.opcode) o :: o.lit.toList
  | .cx o => cxWord (BitVec.ofNat 8 i.opcode) o :: o.lit.toList
  | .a o => [aWord (BitVec.ofNat 6 i.opcode) o]
  | .event => []

/-- Decode the words `encode` writes: a C-slot word with its literal, or an A-slot word, by the slot the reader
chooses. -/
def decodeWords (slotA : Bool) (ws : List W32) : Except Reason Instr :=
  match slotA, ws with
  | true, [w] => decodeA w
  | false, [w] => decodeC w none
  | false, [w, l] => if lBit w then decodeC w (some l) else .error .unassigned
  | _, _ => .error .unassigned

/-- The instruction that the table's bits name. A word of the table is one slot word: it is read as word 0 of a bundle
(R14), whose literal word, where L = 1, holds the bits above `nbits`, zero; a word that the C slot refuses is read as an
A-slot word. -/
def decodeTableWord (nbits w : Nat) : Option Instr :=
  if nbits ≤ 32 then
    let x := BitVec.ofNat 32 w
    match decodeC x (if lBit x then some 0 else none) with
    | .ok i => some i
    | .error _ =>
      match decodeA x with
      | .ok i => some i
      | .error _ => none
  else none

end Sys2Proof
end

