-- ==== Sys2Proof/Machine/Tab.lean ====
section
/-! DEFINITION. Sparse tables: entries by key, keys rising. A key that is not listed reads as the caller's default. -/

namespace Sys2Proof.Machine

abbrev Tab (α : Type) := List (Nat × α)

/-- The entry of key `k`. -/
def tabGet {α : Type} : Tab α → Nat → Option α
  | [], _ => none
  | (j, v) :: t, k => if j = k then some v else tabGet t k

/-- The entry of key `k`, or the value an unlisted key reads as. -/
def tabGetD {α : Type} (t : Tab α) (k : Nat) (dflt : α) : α := (tabGet t k).getD dflt

/-- Set the entry of key `k`, keeping the keys in rising order. -/
def tabSet {α : Type} : Tab α → Nat → α → Tab α
  | [], k, v => [(k, v)]
  | (j, w) :: t, k, v =>
    if k < j then (k, v) :: (j, w) :: t else if j = k then (k, v) :: t else (j, w) :: tabSet t k v

/-- Remove the entry of key `k`. -/
def tabErase {α : Type} : Tab α → Nat → Tab α
  | [], _ => []
  | (j, w) :: t, k => if j = k then tabErase t k else (j, w) :: tabErase t k

/-- Replace element `i` of a list, where it exists. -/
def listSet {α : Type} : List α → Nat → α → List α
  | [], _, _ => []
  | _ :: t, 0, v => v :: t
  | x :: t, i + 1, v => x :: listSet t i v

/-- The first element that satisfies `p`, with its index. -/
def findIdxFrom {α : Type} (p : α → Bool) : List α → Nat → Option (Nat × α)
  | [], _ => none
  | x :: t, i => if p x then some (i, x) else findIdxFrom p t (i + 1)

def findIdx {α : Type} (p : α → Bool) (l : List α) : Option (Nat × α) := findIdxFrom p l 0

/-- Remove element `i` of a list. -/
def listDrop {α : Type} (l : List α) (i : Nat) : List α := l.take i ++ l.drop (i + 1)

end Sys2Proof.Machine
end

