-- ==== Sys2Proof/Machine/State.lean ====
section
/-! DEFINITION. The state of one KZ50 package: everything the spec gives the machine, as plain data, and the state
right after package reset. The log entries that name the reset values are 1 to 10. -/

namespace Sys2Proof.Machine

/-- Memory scopes (R5), narrowest first. -/
inductive Scope where
  | core | quad | cluster | die | package | pod | system
deriving DecidableEq, Repr

/-- Memory orders (R22). -/
inductive Order where
  | rlx | acq | rel | ar
deriving DecidableEq, Repr

/-- Memory types of a page (R76). -/
inductive MemType where
  | writeBack | writeThrough | uncacheable | device
deriving DecidableEq, Repr

/-! ## Contexts -/

/-- The register set of a workspace: w0–w55 with their full/empty and poison bits (R153, R156, R159), the predicates
g0–g6 (R154), and the predicates that a QPOP still owes (R101). -/
structure Regs where
  w : Vector Word 56
  full : BitVec 56
  psn : BitVec 56
  g : BitVec 7
  pend : BitVec 7
deriving DecidableEq, Repr

/-- What a context waits for, where an event of the opcode table ends the wait (R342). The other waits of the manual
are made again with the bundle (R16). -/
inductive Wait where
  /-- CWAIT on a counter for a target (R141). -/
  | counter (c : Nat) (target : W32)
  /-- JOIN on a mask of sequencers (R350). -/
  | join (mask : Nat)
  /-- MJOIN on a band handle (R252). -/
  | band (handle : BitVec 16)
  /-- MWAIT, with the cycle at which its limit passes (R307). -/
  | watch (until? : Option Nat)
  /-- SLEEP until a cycle (R358). -/
  | sleep (until_ : Nat)
  /-- QWAIT on the queue whose line stands at a physical address (R102). -/
  | queue (pa : Nat)
  /-- IDLE (R368). -/
  | idle
  /-- HURDLE or CNTSUM: the serial number of the episode it arrived at (R321). -/
  | hurdle (episode : Nat)
  /-- SWCALL: a call in progress (R366). -/
  | call
  /-- TLBSYNC or DISCARD: acknowledgements outstanding (R78). -/
  | inval
  /-- RELAY: the relay runs (R283). -/
  | relay
  /-- A plain access to another package: the task has been shipped and awaits the notice (R370). -/
  | away
  /-- A queue operation or scope check on a line whose state is being carried from a retiring slice (R104). -/
  | carried (line : Nat)
  /-- TRET.TERMALL: the acknowledgement of the other packages (R364). -/
  | terminate
deriving DecidableEq, Repr

/-- A precise trap that waits for w54 and w55 (R361), as its delivery will record it: the fields of R359 and R360, and the program counter
to be saved. -/
structure Latched where
  code : Nat
  reason : Nat
  reg : Nat
  slotA : Bool
  addr : Word
  pcx : Word
  arg : Word
  saved : Word
deriving DecidableEq, Repr

/-- How a wait ended: the reissued bundle completes by this. -/
inductive Grant where
  | done
  /-- MWAIT's code (R307). -/
  | code (n : Nat)
  /-- SWCALL's status (R366). -/
  | status (n : Nat)
  /-- A migration was refused (R370). -/
  | refused
  /-- A precise trap of the bundle waits for w54 or w55 (R361). -/
  | trapping (t : Latched)
deriving DecidableEq, Repr

/-- What an invalidation covers: an address's pages under an ASID, an ASID, all, or a range of discarded pages (R75, R77). -/
inductive Inval where
  | page (va : Nat) (asid : BitVec 15)
  | space (asid : BitVec 15)
  | all
  | pages (va n : Nat) (asid : BitVec 15)
deriving DecidableEq, Repr

/-- A watch armed by MONITOR (R306): the place watched, the generic address, the armed value, the dword that its serving agent held
last, the ASID and G bit for invalidations, and the code it was triggered with (0: not triggered, 3: lost). -/
structure Watch where
  key : Nat
  va : Word
  armed : Word
  home : Word
  asid : BitVec 15
  glob : Bool
  flat : Bool
  code : Nat
deriving DecidableEq, Repr

/-- An asynchronous trap that waits for a bundle boundary (R359, R362). `rank` orders them: store faults by slot,
then engine errors by engine, then leg faults, then sequencer faults. -/
structure PendTrap where
  rank : Nat
  code : Nat
  reason : Nat
  idx : Nat
  addr : Word
  pcx : Word
  arg : Word
deriving DecidableEq, Repr

/-- A hurdle arrival that a context has made and whose episode it has still to see complete (R321, R322). -/
structure Arrival where
  pc : Word
  episode : Nat
deriving DecidableEq, Repr

/-- A SWCALL in progress (R366): its bundle, whether a handler made it, its block's place and contents, and the answer
once Infield has given it. -/
structure Call where
  pc : Word
  ih : Bool
  block : Nat
  func : Nat
  resvOk : Bool
  args : List Word
  answer : Option Nat
deriving DecidableEq, Repr

/-- One of the fourteen contexts of a core: control context 0, helpers 1–10, sequencers 11–13 (R163, R341). `origin`
says of a task that migrated here where it came from (R370); `token` is the row-buffer token of
an MDRAIN's handler task (R248). -/
structure Ctx where
  live : Bool
  pc : Word
  npc : Word
  wp : BitVec 19
  psize : BitVec 8
  regs : Regs
  fpcr : Word
  cpr : Word
  cause : Word
  taddr : Word
  pcx : Word
  targ : Word
  ih : Bool
  group : BitVec 16
  launch : Option Nat
  prio : Nat
  pfu : Option Nat
  wait : Option Wait
  grant : Option Grant
  watch : Option Watch
  pend : List PendTrap
  arrivals : List Arrival
  calls : List Call
  origin : Option Origin
  token : Option Word
  invals : List Inval
  discarded : Option Word
  bundles : Nat
deriving DecidableEq, Repr

/-! ## Queues of a core -/

/-- Where a store buffer entry stands (R294, R297): it may leave, it is frozen behind the faulting store of a record slot, or it has
failed its checks with a reason while no slot was free, and is frozen until one is. -/
inductive StorePhase where
  | ready
  | frozen (slot : Nat)
  | blocked (reason : Nat)
deriving DecidableEq, Repr

/-- One store in the store buffer (R293): generic address, the address normalised as in R133 and resolved at issue
(R65), data, size, policy, scope, order, context, its bundle's address and number, task group, launch (R339), and whether a handler issued
it (R297). -/
structure StoreEntry where
  va : Word
  norm : Word
  data : Word
  size : Nat
  pol : Nat
  scope : Scope
  order : Order
  ctx : Nat
  pc : Word
  bundle : Nat
  group : BitVec 16
  launch : Option Nat
  ih : Bool
  phase : StorePhase
deriving DecidableEq, Repr

/-- A slot of the store-fault record queue (R298): the faulting store, where its record stands in the scratchpad, and
whether its trap has been delivered. -/
structure FaultSlot where
  entry : StoreEntry
  offset : Nat
  delivered : Bool
deriving DecidableEq, Repr

/-- What a context has released behind stores that its buffer still holds: a word written to an outbound port, bound for a core's inbound
FIFO (R160), or bytes of the workspace that a SETWP has left (R167). -/
inductive Released where
  | word (port core fifo : Nat) (w : Word)
  | slots (key : Nat) (bytes : List Byte)
deriving DecidableEq, Repr

/-- A release that follows the stores of a context's bundles up to one (R160, R167, R327). -/
structure Behind where
  ctx : Nat
  bundle : Nat
  what : Released
deriving DecidableEq, Repr

/-- What an operation counts (R188), and, for an A-slot instruction, the sticky flags it sets (R176). -/
structure FEv where
  iv : Nat := 0
  dz : Nat := 0
  of : Nat := 0
  uf : Nat := 0
  ix : Nat := 0
  sat : Nat := 0
  flush : Nat := 0
  nanblock : Nat := 0
  trunc : Nat := 0
  skip : Nat := 0
deriving DecidableEq, Repr

/-- A long-latency producer's result that is owed to a register (R158): the value or poison, and for QPOP the
predicate. An A-slot producer occupies a unit (0 the integer divider, 1 division and square root, 2 functions: R192) and has events and
sticky flags that are performed with its result (R189, R193). -/
structure Owed where
  ctx : Nat
  reg : Nat
  value : Option Word
  pred : Option (Nat × Bool)
  unit? : Option Nat
  ev : FEv
  sticky : Word
deriving DecidableEq, Repr

/-- A byte range in one space (R133): space tag and first byte, with its length. -/
structure Range where
  tag : Nat
  lo : Nat
  len : Nat
deriving DecidableEq, Repr

/-- Progress of a queued engine command. -/
inductive CmdStatus where
  | queued | running | parked | halted
deriving DecidableEq, Repr

/-- What other accesses may do to a command while it runs (R135, R150, R216): the ranges it reads and writes, each in the space of a core;
the source bytes that the engine has read at an earlier value than memory holds now; the places it writes that something has been stored to
since; whether anything has been stored to its source. -/
structure Race where
  src : List (Nat × Range)
  dst : List (Nat × Range)
  took : List (Nat × BitVec 8)
  hit : List Nat
  changed : Bool
deriving DecidableEq, Repr

def Race.none : Race := ⟨[], [], [], [], false⟩

/-- A command in an engine queue: what its issue recorded (R125, R144, R214, R238). `op` is op7 of the issuing
instruction; `leg` marks a command of a relay leg with the core that owns the relay (R279). -/
structure Cmd where
  seq : Nat
  op : Nat
  record : List Byte
  addr : Word
  arg : Word
  pc : Word
  ctx : Nat
  group : BitVec 16
  launch : Option Nat
  counter : Option Nat
  fz : Bool
  pol : Nat
  wp : BitVec 19
  psize : BitVec 8
  status : CmdStatus
  reason : Nat
  range : Option Range
  reg : Option Nat
  instNo : Nat
  got : List Nat
  sent : List Nat
  stores : List (Nat × List Byte)
  leg : Option Nat
  payload : List Byte
  exited : Bool
  counted : Bool
  race : Race
  token : Option Word
deriving DecidableEq, Repr

/-- A band of accumulator rows (R235, R239). `last` is the counter of the last command that named it (16: a leg, which has
none), and `seen` lists the contexts that have joined it or observed that counter since (R253). -/
structure Band where
  first : Nat
  size : Nat
  serial : Nat
  pending : Nat
  invalid : Bool
  bps : Scope
  last : Option Nat
  seen : List Nat
deriving DecidableEq, Repr

/-- A row buffer of an MDRAIN (R248): the row it holds, whether its handler task has entered the run queue, whether RDONE has
released it to the engine, and whether the handler has accessed it since (R249). -/
structure RowBuf where
  row : Nat
  token : Word
  queued : Bool
  released : Bool
  touched : Bool
deriving DecidableEq, Repr

/-- A running MDRAIN (R248): its command, the next row to copy, the four buffers, rows finished, rows written among them (R144), rows lost
with a terminated handler (R249), an error met. -/
structure Drain where
  cmd : Cmd
  next : Nat
  bufs : List (Option RowBuf)
  done : Nat
  written : Nat
  lost : List Nat
  failed : Bool
deriving DecidableEq, Repr

/-- A row buffer that RDONE has released and the engine has freed (R249): its token, its offset in the scratchpad, and the ranges that its
row was written to. -/
structure SpentBuf where
  token : Word
  off : Nat
  dst : List (Nat × Range)
deriving DecidableEq, Repr

/-- A completion counter (R140): value, sticky error, pending scope. -/
structure Counter where
  v : W32
  e : Bool
  ps : Scope
deriving DecidableEq, Repr

/-- A ticket's state word at the transform coprocessor (R151). -/
structure Ticket where
  seq : Nat
  state : Nat
deriving DecidableEq, Repr

/-- The judge (R260): state code, input FIFOs, the open record, band, finish count, reason, ended ranks, the consumption that
a FOSTEP or FORUN has begun (its remaining count, or none for FORUN), the context that stands in it (none: it is suspended,
R266), the finish sheet, and the contexts whose consumption another context's FOCLOSE ends, each with the status word that its FOSTEP or
FORUN completes with, once the reception is closed (R265). -/
structure Judge where
  state : Nat
  fifos : Tab (List W32)
  record : List Byte
  band : BitVec 16
  wp : BitVec 19
  psize : BitVec 8
  fc : Nat
  reason : Nat
  ended : BitVec 16
  susp : Option (Option Nat)
  active : Option Nat
  sheet : List W32
  ousted : List (Nat × Option Word)
deriving DecidableEq, Repr

/-- A leg command that is outstanding at a target core (R279, R285): the number of its leg, the leg's address and sequence,
the core, whether it has completed, and the error it has met (REASON, ADDR, PROGRESS, DETAIL). -/
structure LegTarget where
  no : Nat
  leg : Word
  seq : W32
  core : Nat
  finished : Bool
  error : Option (Nat × Word × Nat × Nat)
deriving DecidableEq, Repr

/-- A leg that the sequencer has fetched, checked and decoded (R276, R278): its header, its decoded payload, its targets. -/
structure HeldLeg where
  hdr : List Byte
  data : List Byte
  targets : List Nat
deriving DecidableEq, Repr

/-- The relay sequencer (R274): state code, owner, stack, current and next leg, sequence, reason, count, a CODE leg's successor
while its fragment runs, the address of the owner's RELAY bundle, the number of the current leg, the targets that have accepted
it, the outstanding leg commands, whether the chain has ended, the leg whose TARGET fault has been delivered, whether the relay has
been continued after a fault (R284, R285), and the leg that it has fetched and decoded and still has to perform. -/
structure Relay where
  state : Nat
  owner : Nat
  ownerWp : BitVec 19
  stack : List Word
  cur : Word
  curSeq : W32
  next : Word
  reason : Nat
  count : Nat
  succ : Option Word
  pc : Word
  no : Nat
  accepted : List Nat
  targets : List LegTarget
  ending : Bool
  faulted : Option Nat
  resumed : Bool
  held : Option HeldLeg
deriving DecidableEq, Repr

/-- What comes with a migrated task (R370): the shipped bytes, its PSIZE, where the notice of its acceptance goes, and where it came from
first. -/
structure Shipped where
  bytes : List Byte
  psize : Nat
  pkg : Nat
  tag : Nat
  origin : Origin
deriving DecidableEq, Repr

/-- A run-queue entry (R341): the task, its priority now, how often it has been passed over, what came with a migrated task
(R370), and the token of an MDRAIN's handler task (R248). -/
structure RunEntry where
  task : TaskMsg
  pri : Nat
  passed : Nat
  migrated : Option Shipped
  token : Option Word
deriving DecidableEq, Repr

/-- An entry of the outbound task buffer (R352), with its target. -/
structure OutTask where
  pkg : Nat
  cluster : Nat
  core : Nat
  cap : BitVec 16
  pas : Option Nat
  task : TaskMsg
deriving DecidableEq, Repr

/-- A sequencer's mailbox (R348–R350). -/
inductive Mailbox where
  | idle | running | done | fault
deriving DecidableEq, Repr

/-- A sequencer of a core: its mailbox, the context that forked it and the FORK bundle's address (R348, R359). -/
structure Seq where
  mailbox : Mailbox
  forker : Nat
  forkPc : Word
deriving DecidableEq, Repr

/-- A TLB entry (R72): page base and size, partition, ASID, global bit, and the leaf that it was filled from. -/
structure TlbEntry where
  base : Nat
  size : Nat
  part : Nat
  asid : BitVec 15
  glob : Bool
  leaf : Word
  leafPa : Nat
deriving DecidableEq, Repr

/-- A walk-cache entry (R72): the table that maps `size` bytes of virtual space from `base`, for a partition and an ASID. -/
structure WalkEntry where
  base : Nat
  size : Nat
  part : Nat
  asid : BitVec 15
  next : Nat
deriving DecidableEq, Repr

/-- A request that a slice answered "moved" (R62): the physical address and access held until it is resent. -/
structure Moved where
  pa : Nat
  op : PortOp
  gen : Nat
deriving DecidableEq, Repr

/-- A core's outbound port binding (R160, R161): core of the cluster and inbound FIFO. -/
structure Binding where
  core : Nat
  fifo : Nat
deriving DecidableEq, Repr

/-- Registers of a core that its contexts share (R162, R168): control registers, counters, ports. -/
structure CoreRegs where
  ascr : Word
  eebase : W32
  ev : List W32
  cc : List Counter
  fifos : List (List Word)
  binds : List (Option Binding)
deriving DecidableEq, Repr

/-- The transfer, vector and matrix queues, their halts and sequence numbers (R126, R147, R217, R245), the collective
issue numbers per group (R317) and the coprocessor share (R148–R151). `unseen` lists the destination ranges of completed commands
whose increment nobody has observed yet, with the counter (R133). -/
structure Engines where
  xq : List Cmd
  vq : List Cmd
  mq : List Cmd
  cq : List Cmd
  xhalt : Bool
  vhalt : Bool
  mhalt : Bool
  cphalt : Bool
  xseq : Nat
  vseq : Nat
  mseq : Nat
  cseq : Nat
  collNo : Tab Nat
  tickets : List Ticket
  unseen : List (Nat × Range)
deriving DecidableEq, Repr

/-- The matrix engine's own state (R234, R235, R245, R248): bands, serial counter, shadow store and running drains. `past` holds, by
row, the words that the row has held and lost since its band's allocation (R253); `spent` the buffers that handlers have given back
(R249). -/
structure Matrix where
  bands : List Band
  serial : Nat
  shadow : List (List W32)
  drains : List Drain
  past : Tab (List W32)
  spent : List SpentBuf
deriving DecidableEq, Repr

/-- The store unit of a core (R294, R297, R298), with the releases that follow its stores (R160, R167). -/
structure StoreUnit where
  buf : List StoreEntry
  slots : List (Option FaultSlot)
  behind : List Behind
deriving DecidableEq, Repr

/-- One exposed core. `evSaved` is Infield's last save of its event counters (R188). -/
structure Core where
  ctxs : Tab Ctx
  regs : CoreRegs
  su : StoreUnit
  owed : List Owed
  eng : Engines
  mat : Matrix
  judge : Judge
  relay : Relay
  seqs : List Seq
  runq : List RunEntry
  outq : List OutTask
  dtlb : List TlbEntry
  itlb : List TlbEntry
  moved : List Moved
  fetches : List (Nat × Nat)
  launch : Option Nat
  group : BitVec 16
  twbase : Nat
  tpsize : Nat
  cycle0 : Nat
  last : Nat
  lost : Bool
  evSaved : List W32
deriving DecidableEq, Repr

/-! ## Clusters -/

/-- A photo-finish task's state (R353). -/
inductive PfuState where
  | pending | running | irrevocable | finished
deriving DecidableEq, Repr

/-- A write that a photo-finish unit holds (R355): its place, size and value, what its performance needs (memory type of a flat page,
policy, scope, order, normalised pointer), and the page and ASID of the translation it took (R78). -/
structure HeldWrite where
  key : Nat
  size : Nat
  data : Word
  mt : Option MemType
  pol : Nat
  scope : Scope
  order : Order
  norm : Word
  page : Nat
  pageSize : Nat
  asid : BitVec 15
  glob : Bool
deriving DecidableEq, Repr

/-- A task held by a photo-finish unit (R353–R356). `held` lists its held writes, oldest
first; `doomed` marks a task that a conflicting write will abort (R356), `fixed` one that has been irrevocable and is never aborted (R356). -/
structure PfuTask where
  ts : Word
  seq : Nat
  task : TaskMsg
  parent : Option Nat
  children : Nat
  core : Nat
  counter : Nat
  srcCore : Nat
  state : PfuState
  ctx : Nat
  reads : List Nat
  writes : List Nat
  held : List HeldWrite
  sends : List OutTask
  doomed : Bool
  fixed : Bool
deriving DecidableEq, Repr

/-- A scope record (R98): the synchronisation line, and the last release on it: package, global core number, scope. `at_` is the
model's own number of that release (log 7): the larger is the later. -/
structure ScopeRec where
  line : Nat
  rel : Option (Nat × Nat × Scope)
  at_ : Nat
deriving DecidableEq, Repr

/-- A pack's directory entry (R118). -/
structure PackEntry where
  z : Bool
  ovf : Bool
  codec : Nat
  nsec : Nat
  loc : Nat
deriving DecidableEq, Repr

/-- A line of the cluster's L1s (R109–R111): its bytes, its sectors' valid and poison bits, its dirty bytes, whether its recorded
write scope is CLUSTER (otherwise SYSTEM), and the directory's record of the L1s that hold it. The copies of a line are equal (R111), so
its bytes are stored once. `sync` marks bytes that an atomic or a release left dirty (R331), and `used` is the model's own stamp of the
last use (log 7). -/
structure L1Line where
  data : List Byte
  valid : BitVec 4
  dirty : BitVec 192
  psn : BitVec 4
  ws : Bool
  holders : List Nat
  sync : Bool
  used : Nat
deriving DecidableEq, Repr

/-- One cluster. `l1` holds the lines of its 24 L1s by line number (R109–R111); `l1Tick` stamps their uses and `paceAt` is the
model's own count of pace updates (R344). The directory keeps the scope records of windows (R114) and of the flat lines that its L1s
hold (R98, R111). -/
structure Cluster where
  secure : Bool
  owner : Option Nat
  pkey : BitVec 16
  fused : Bool
  l1 : Tab L1Line
  l1Tick : Nat
  l2tlb : List TlbEntry
  walks : List WalkEntry
  winRecs : List ScopeRec
  flatRecs : List ScopeRec
  sliceMap : List Nat
  sliceGen : Nat
  expanded : List Nat
  packs : Tab PackEntry
  pace : Nat
  paceAt : Nat
  pfu : List PfuTask
  pfuSeq : Nat
  spareUsed : Option Nat
  withheld : Bool
  coproc : List (List (Nat × Nat))
deriving DecidableEq, Repr

/-! ## The package -/

/-- A slice-resident queue (R100): the physical address of its line, its home slice, capacity, counts. -/
structure SliceQueue where
  pa : Nat
  slice : Nat
  cap : Nat
  head : Nat
  tail : Nat
deriving DecidableEq, Repr

/-- A slice's part in retirement (R61). -/
inductive SliceState where
  | live | flushing | retired
deriving DecidableEq, Repr

/-- A tensor cache slice: its copy of the map, its state and its world (R60, R61, R380). -/
structure Slice where
  state : SliceState
  map : List Nat
  gen : Nat
  secure : Bool
  gaining : List (Nat × Nat)
deriving DecidableEq, Repr

/-- A registered tensor (R86, R88, R89): owner, ASID, descriptor, backing range, generation. -/
structure Tensor where
  part : Nat
  asid : BitVec 15
  desc : List Byte
  lo : Nat
  hi : Nat
  gen : Nat
deriving DecidableEq, Repr

/-- A flat entry of a slice (R82, R84), kept by its line number: its sectors' valid and dirty bits, and the stamp of its last use. The
192 bytes it holds are `State.mem`'s at the line, since every access but the memory controller's is served by the home slice (R54). `hbm`
and `hpsn` are what HBM itself holds below its valid sectors meanwhile, bytes and poison marks, which an access to an uncacheable page
meets (R76) and which come back to `State.mem` when the entry leaves. -/
structure FLine where
  valid : BitVec 4
  dirty : BitVec 4
  hbm : List Byte
  hpsn : BitVec 4
  used : Nat
deriving DecidableEq, Repr

/-- A tensor line (R82, R84): key, fill address, data, per-sector valid, dirty and poison bits, pin, and the stamp of its last
use. -/
structure TLine where
  id : Nat
  gen : Nat
  tile : Nat
  fill : Nat
  data : List Byte
  valid : BitVec 4
  dirty : BitVec 4
  psn : BitVec 4
  pin : Bool
  used : Nat
deriving DecidableEq, Repr

/-- What Infield keeps of a partition whose clusters have passed to another (R372): its cores, the bytes and poison marks of
their scratchpads, accumulator memories and cluster memories, and the clusters' photo-finish units, coprocessor lists and pack
directories. -/
structure Saved where
  cores : Tab Core
  units : Tab (List PfuTask × List (List (Nat × Nat)))
  packs : Tab (Tab PackEntry)
  mem : List Host.Cell
  poison : List Nat
deriving DecidableEq, Repr

/-- A partition (R376, R377, R366, R372, R373, R378). -/
structure Part where
  live : Bool
  clusters : List Nat
  pkey : BitVec 16
  world : Bool
  tc : Bool
  sqbase : Nat
  frames : List (Nat × Nat)
  quantum : Nat
  isvMin : Nat
  vector : Option Word
  fsvc : Option (Nat × Word)
  eventq : Option Nat
  doorbell : BitVec 16
  dropped : Nat
  bootstat : Word
  busy : List Nat
  starts : List Nat
  paused : Bool
  aperture : Tab Nat
  droppedEvents : Nat
  saved : Option Saved
deriving DecidableEq, Repr

/-- A launch (R337–R340): its partition, record, the physical place of its STATUS, state code, the entry of the start
queue it came from (host launches) or the parent's core, counter and covering scope (device launches), and the cores
it places. -/
structure Launch where
  part : Nat
  record : List Byte
  status : Nat
  state : Nat
  entry : Option Nat
  parent : Option (Nat × Nat)
  parentAscr : Word
  scope : Scope
  cores : List Nat
  away : Nat
deriving DecidableEq, Repr

/-- A group of a partition (R314, R315). -/
structure Group where
  records : List Byte
  count : Nat
  digest : W32
deriving DecidableEq, Repr

/-- A hurdle episode (R320–R322): instance key, n, arrivals (core, context), sums, cores that contributed, open or
complete. -/
structure Episode where
  serial : Nat
  level : Nat
  id : Nat
  part : Nat
  inst : Nat
  n : Nat
  arrived : List (Nat × Nat)
  remote : Nat
  sums : List Nat
  contributed : List Nat
  complete : Bool
deriving DecidableEq, Repr

/-- A deferred request at the ingress translation unit (R80, R371). -/
structure Deferred where
  fid : Nat
  part : Nat
  req : IngressReq
  code : Nat
deriving DecidableEq, Repr

/-- An entry of the pod address-space table (R80). -/
structure PodSpace where
  part : Nat
  root : Word
  asid : BitVec 15
deriving DecidableEq, Repr

/-- The four planes (R312, R313): PLCTL's fields and the planes that are powering on. -/
structure Planes where
  ord : Nat
  on : BitVec 4
  live : BitVec 4
  hold : BitVec 4
  powering : BitVec 4
  retries : Tab Nat
deriving DecidableEq, Repr

/-- A voltage and frequency island (R384–R386): clock in MHz, the choice made, and whether a change is in progress. -/
structure Island where
  mhz : Nat
  chosen : Nat
  changing : Bool
deriving DecidableEq, Repr

/-- Power and thermal state (R385, R386); `tickAt` is the model's own count of power manager ticks. -/
structure Power where
  islands : List Island
  limited : Bool
  stopped : Bool
  tickAt : Nat
deriving DecidableEq, Repr

/-- Work of the steward that waits until Infield runs again (R381): an event entry for a partition (R373), or what follows the loss of a
core (R374): the core, its partition, and the groups that were live on it with their launches. -/
inductive StewardWork where
  | event (part entry : Nat)
  | loss (core part : Nat) (groups : List (BitVec 16 × Option Nat))
deriving DecidableEq, Repr

/-- The two steward cores (R381): whether they run or are in reset, and the bytes of their private SRAMs of 2 MiB each, which nothing that
the manual describes reads or writes (log 25). The records Infield keeps: error reports of R56, containment records of R319 (target core,
owning partition, capability), its journal of waiting work, whose form in the unframed lines is not given (log 25), and the count of
corrected scratchpad words (R106). -/
structure Steward where
  up : Bool
  srams : List (List Host.Cell)
  eccRecords : List (Nat × Nat × Nat)
  containment : List (Nat × Nat × BitVec 16)
  journal : List StewardWork
  corrected : Nat
deriving DecidableEq, Repr

/-- A journal record of the board flash (R383). -/
structure JournalRec where
  step : Nat
  attempt : Nat
  outcome : Nat
  detail : Nat
  boot : Nat
deriving DecidableEq, Repr

/-- The board flash (R382, R383): the record, the previous accepted record, the counter, the journal (newest record first), the
boot number. -/
structure Flash where
  record : Option ConfigRec
  previous : Option ConfigRec
  counter : Nat
  journal : List JournalRec
  boot : Nat
deriving DecidableEq, Repr

/-- A memory channel (R52, R56–R59, R383): corrected errors in all and per row in this scrub period, rows with an uncorrectable error, spare
rows used, remapped rows with their spares, the eight dwords of the 64-byte metadata, which hold training results, the sparing map and a
check code, and the training rate in tenths of Gb/s (0: not trained). -/
structure Channel where
  corrected : Nat
  rowErrors : Tab Nat
  bad : List Nat
  used : Nat
  remapped : List (Nat × Nat)
  meta_ : List Word
  rate : Nat
deriving DecidableEq, Repr

/-- A message that leaves the package: toward another package or toward the host (R79, R319, R370, R375). -/
inductive Out where
  | request (core seq pkg : Nat) (va : Word) (kind : RemoteKind) (fmt : BitVec 4) (value : Word) (cap : BitVec 16)
      (pas : Option Nat) (fz : Bool)
  | remoteRead (core seq pkg : Nat) (va : Word) (len : Nat) (cap : BitVec 16) (pas : Option Nat)
  | remoteWrite (core seq pkg : Nat) (va : Word) (bytes : List Byte) (cap : BitVec 16) (pas : Option Nat)
  | notify (pkg cluster core cc : Nat) (cap : BitVec 16)
  | answer (pkg tag : Nat) (ans : RemoteAnswer) (value : Word)
  | deferred (pkg tag : Nat)
  | word (pkg cluster core rank : Nat) (w : W32) (cap : BitVec 16)
  | chunk (pkg cluster core : Nat) (part : CollPart)
  | task (pkg cluster core : Nat) (cap : BitVec 16) (pas : Option Nat) (t : TaskMsg)
  | migrate (pkg cluster core ctx psize : Nat) (bytes : List Byte) (pri : Nat) (group cap : BitVec 16) (launch : Option Nat)
      (origin : Option Origin)
  | hurdle (level id pas n : Nat) (sums : List Nat)
  | notice (pkg tag : Nat) (kind : NoticeKind)
  | msix (p vec : Nat)
  | hostRead (p : Nat) (bytes : List Byte)
  | unsupported (p : Nat)
  | hostWrite (p pa size : Nat) (value : Word)
  | terminate (group cap : BitVec 16)
deriving DecidableEq, Repr

/-- The registers of the package that no core holds. `map` and `gen` are Infield's master copy of the slice map (R60). -/
structure Package where
  map : List Nat
  gen : Nat
  slices : List Slice
  queues : List SliceQueue
  recs : List ScopeRec
  relNo : Nat
  tensors : Tab Tensor
  tlines : List TLine
  flines : Tab FLine
  tick : Nat
  regionNs : List Nat
  parts : Tab Part
  launches : Tab Launch
  nextLaunch : Nat
  groups : Tab Group
  episodes : List Episode
  nextEpisode : Nat
  deferred : List Deferred
  waiting : List IngressReq
  itu : List TlbEntry
  podSpaces : Tab PodSpace
  planes : Planes
  routes : Tab Byte
  hubsel : Tab Byte
  power : Power
  steward : Steward
  flash : Flash
  channels : Tab Channel
  pkg : Nat
  inPod : Bool
deriving DecidableEq, Repr

/-- How the instruction issued last fared (R16): it completed, its context waits and the bundle is to issue again, it
waits but its A-slot partner issues (R283), or a trap was taken. -/
inductive Issue where
  | done | waiting | waitingRun | trapped
deriving DecidableEq, Repr

/-- The machine. `mem` holds every byte by a key: a physical address below 2^52; the scratchpad of core n from
2^52 + n × 2^19; the expanded window of cluster c from 2^53 + c × 2^25; accumulator memory of core n from
2^54 + n × 2^18 (row × 512 + column × 4). `poison` lists the first bytes of poisoned granules: 48-byte sectors of
memory and of the expanded window, 8-byte scratchpad words, 4-byte accumulator words. `agenda`, `free`, `cur`,
`issue`, `view` and `out` are the model's own. -/
structure State where
  cycle : Nat
  mem : List Host.Cell
  poison : List Nat
  cores : Tab Core
  clusters : Tab Cluster
  pack : Package
  agenda : List Instr
  out : List Out
  free : Nat
  curCore : Nat
  curCtx : Nat
  issue : Issue
  view : Option Ctx
deriving DecidableEq, Repr

/-- Why the machine stops with a fault. -/
inductive Fault where
  /-- An event of the opcode table whose condition does not hold in the state it is asked of (the event named does not
  come about there). Raised by the meanings of event rows. Safe: the event does not happen. -/
  | notEnabled (event : String)
  /-- An instruction is performed for a context that is not live. Raised by the meanings of instruction rows, never by
  `step`. Safe: no context issues there. -/
  | notLive
  /-- The steward has stopped every island at 115 °C (R386). Raised by `step`. Safe: nothing runs. -/
  | shutdown
deriving DecidableEq, Repr

/-- Why the model gives no answer. -/
inductive Refusal where
  /-- The instruction has no meaning in this model yet. Raised by `exec`'s arm of that instruction. Safe. -/
  | notModelled (mnemonic : String)
deriving DecidableEq, Repr

/-! ## Reset -/

/-- A register set whose registers are full, unpoisoned and zero (log 9). -/
def Regs.reset : Regs := ⟨Vector.replicate 56 0, BitVec.allOnes 56, 0, 0, 0⟩

/-- A context that is not live (log 9). R176 gives no value to FPCR's RM, FZ and sticky flags; 0 is the model's choice. -/
def Ctx.reset : Ctx :=
  { live := false, pc := 0, npc := 0, wp := 0, psize := 0, regs := Regs.reset, fpcr := 0, cpr := 0, cause := 0,
    taddr := 0, pcx := 0, targ := 0, ih := false, group := 0, launch := none, prio := 3, pfu := none, wait := none,
    grant := none, watch := none, pend := [], arrivals := [], calls := [], origin := none, token := none, invals := [], discarded := none,
    bundles := 0 }

def Counter.reset : Counter := ⟨0, false, .core⟩

def Judge.reset : Judge :=
  { state := 0, fifos := [], record := [], band := 0, wp := 0, psize := 0, fc := 0, reason := 0, ended := 0,
    susp := none, active := none, sheet := [], ousted := [] }

def Relay.reset : Relay :=
  { state := 0, owner := 0, ownerWp := 0, stack := [], cur := 0, curSeq := 0, next := 0, reason := 0, count := 0,
    succ := none, pc := 0, no := 0, accepted := [], targets := [], ending := false,
    faulted := none, resumed := false, held := none }

def Engines.reset : Engines :=
  { xq := [], vq := [], mq := [], cq := [], xhalt := false, vhalt := false, mhalt := false, cphalt := false,
    xseq := 0, vseq := 0, mseq := 0, cseq := 0, collNo := [], tickets := [], unseen := [] }

def Matrix.reset : Matrix := ⟨[], 1, [], [], [], []⟩

def StoreUnit.reset : StoreUnit := ⟨[], List.replicate 8 none, []⟩

def CoreRegs.reset : CoreRegs :=
  { ascr := 0, eebase := 0, ev := List.replicate 16 0, cc := List.replicate 16 Counter.reset,
    fifos := List.replicate 4 [], binds := List.replicate 4 none }

def Seq.reset : Seq := ⟨.idle, 0, 0⟩

/-- A core after package reset (log 8). -/
def Core.reset : Core :=
  { ctxs := [], regs := CoreRegs.reset, su := StoreUnit.reset, owed := [], eng := Engines.reset, mat := Matrix.reset,
    judge := Judge.reset, relay := Relay.reset, seqs := List.replicate 3 Seq.reset, runq := [], outq := [],
    dtlb := [], itlb := [], moved := [], fetches := [], launch := none, group := 0, twbase := 0, tpsize := 0,
    cycle0 := 0, last := 0, lost := false, evSaved := List.replicate 16 0 }

/-- The identity slice map (R60). -/
def identityMap : List Nat := List.range 50

/-- A cluster after package reset: secure (R380), owned by no partition, identity map (R60), cluster memory all zero
(R118); the rest by log 8. -/
def Cluster.reset : Cluster :=
  { secure := true, owner := none, pkey := 0, fused := false, l1 := [], l1Tick := 0, l2tlb := [], walks := [], winRecs := [], flatRecs := [],
    sliceMap := identityMap, sliceGen := 0, expanded := [], packs := [], pace := 0, paceAt := 0, pfu := [], pfuSeq := 0,
    spareUsed := none, withheld := false, coproc := [[], [], []] }

def PackEntry.reset : PackEntry := ⟨true, false, 0, 0, 0⟩

def Slice.reset : Slice := ⟨.live, identityMap, 0, true, []⟩

/-- A partition that does not exist (R375, R376). -/
def Part.reset : Part :=
  { live := false, clusters := [], pkey := 0, world := true, tc := false, sqbase := 0, frames := [], quantum := 0,
    isvMin := 0, vector := none, fsvc := none, eventq := none, doorbell := 0, dropped := 0, bootstat := 0, busy := [],
    starts := [], paused := false, aperture := [], droppedEvents := 0, saved := none }

/-- PLCTL after reset (R313): plane 0 ordered and powered, every plane live. -/
def Planes.reset : Planes := ⟨0, 1, 0xF, 0, 0, []⟩

/-- A channel that is not trained (log 4). -/
def Channel.reset : Channel := ⟨0, [], [], 0, [], List.replicate 8 0, 0⟩

/-- Sixteen islands: the routers' and the hub's at 1.6 GHz (R384), the compute islands at 800 MHz (log 6). -/
def Power.reset : Power :=
  { islands := (List.range 16).map (fun i => if i % 3 = 2 || i = 15 then ⟨1600, 1600, false⟩ else ⟨800, 800, false⟩),
    limited := false, stopped := false, tickAt := 0 }

def Package.reset : Package :=
  { map := identityMap, gen := 0, slices := List.replicate 50 Slice.reset, queues := [], recs := [], relNo := 0, tensors := [], tlines := [], flines := [], tick := 0, regionNs := [],
    parts := [], launches := [], nextLaunch := 0, groups := [], episodes := [], nextEpisode := 0, deferred := [], waiting := [], itu := [],
    podSpaces := [], planes := Planes.reset, routes := [], hubsel := [], power := Power.reset,
    steward := ⟨true, [[], []], [], [], [], 0⟩, flash := ⟨none, none, 0, [], 0⟩, channels := [], pkg := 0, inPod := false }

/-- The machine right after reset: no context is live, memory lists nothing (log 1), world bits secure (R380), the
identity slice map with generation 0 (R60), plane 0 on (R313). -/
def State.reset : State :=
  { cycle := 0, mem := [], poison := [], cores := [], clusters := [], pack := Package.reset, agenda := [], out := [],
    free := 0, curCore := 0, curCtx := 0, issue := .done, view := none }

end Sys2Proof.Machine
end

