-- ==== Sys2Proof/Machine/Memory.lean ====
section
/-! DEFINITION. The memory list in its canonical form, its keys, and the poison marks (R7, R50, R56, R57, R105, R106,
R116, R119, R234). -/

namespace Sys2Proof.Machine

/-- What an address that memory does not list reads as (log 1). -/
def Memory.empty : Byte := 0

/-- The byte at a key. -/
def memGet : List Host.Cell → Nat → Byte
  | [], _ => Memory.empty
  | (b, v) :: t, a => if b = a then v else memGet t a

/-- Put a byte into a sorted list; the value an unlisted address reads as removes the entry. -/
def memSet : List Host.Cell → Nat → Byte → List Host.Cell
  | [], a, v => if v = Memory.empty then [] else [(a, v)]
  | (b, w) :: t, a, v =>
    if a < b then (if v = Memory.empty then (b, w) :: t else (a, v) :: (b, w) :: t)
    else if b = a then (if v = Memory.empty then t else (a, v) :: t)
    else (b, w) :: memSet t a v

/-- The canonical form: addresses strictly rising, no entry equal to what an unlisted address reads as. -/
def Memory.wf : List Host.Cell → Bool
  | [] => true
  | (_, v) :: [] => v != Memory.empty
  | (a, v) :: (b, w) :: t => v != Memory.empty && decide (a < b) && Memory.wf ((b, w) :: t)

/-- Write bytes from a key upward. -/
def memWrite : List Host.Cell → Nat → List Byte → List Host.Cell
  | m, _, [] => m
  | m, a, b :: t => memWrite (memSet m a b) (a + 1) t

/-- Read `n` bytes from a key upward. -/
def memRead (m : List Host.Cell) (a : Nat) : Nat → List Byte
  | 0 => []
  | n + 1 => memGet m a :: memRead m (a + 1) n

/-- The low `n` bytes of a value, little-endian (R7). -/
def natBytes (v : Nat) : Nat → List Byte
  | 0 => []
  | n + 1 => BitVec.ofNat 8 v :: natBytes (v / 256) n

/-- A field of a record: `n` bytes at offset `o`, little-endian (R7). -/
def field (r : List Byte) (o n : Nat) : Nat := bytesToNat ((r.drop o).take n)

/-- A signed 32-bit field. -/
def fieldS32 (r : List Byte) (o : Nat) : Int := (BitVec.ofNat 32 (field r o 4)).toInt

/-- Every byte of a field is zero. -/
def fieldZero (r : List Byte) (o n : Nat) : Bool := ((r.drop o).take n).all (· == 0)

/-! ## Keys -/

def spBase : Nat := 0x10000000000000

def cmBase : Nat := 0x20000000000000

def accBase : Nat := 0x40000000000000

/-- Scratchpad byte `off` of global core `n` (R105). -/
def spKey (n off : Nat) : Nat := spBase + n * 0x80000 + off

/-- Byte `off` of the expanded window of cluster `c` (R116). -/
def cmKey (c off : Nat) : Nat := cmBase + c * 0x2000000 + off

/-- Accumulator word (row, column) of global core `n` (R234). -/
def accKey (n row col : Nat) : Nat := accBase + n * 0x40000 + row * 512 + col * 4

/-- First byte and size of the granule a poison mark covers (R57, R106, R119, R234). -/
def granule (k : Nat) : Nat × Nat :=
  if k < spBase then (k - k % 48, 48)
  else if k < cmBase then (k - k % 8, 8)
  else if k < accBase then
    let o := (k - cmBase) % 0x2000000
    (k - o % 48, 48)
  else (k - k % 4, 4)

/-- The keys lie in one space: `n` bytes at `k` touch a poisoned granule. -/
def poisonedIn (p : List Nat) (k n : Nat) : Bool :=
  p.any fun g => decide (g < k + n) && decide (k < g + (granule g).2)

/-- A write of `n` bytes at `k` clears the marks of the granules it covers whole (R57, R106). -/
def poisonAfter (p : List Nat) (k n : Nat) : List Nat :=
  p.filter fun g => !(decide (k ≤ g) && decide (g + (granule g).2 ≤ k + n))

/-- Mark the granule of a key. -/
def poisonMark (p : List Nat) (k : Nat) : List Nat :=
  let g := (granule k).1
  if p.contains g then p else p ++ [g]

/-! ## The state's memory -/

def State.byteAt (s : State) (k : Nat) : Byte := memGet s.mem k

def State.bytesAt (s : State) (k n : Nat) : List Byte := memRead s.mem k n

/-- A little-endian value in memory (R7). -/
def State.natAt (s : State) (k n : Nat) : Nat := bytesToNat (memRead s.mem k n)

/-- Write bytes at their home, clearing poison of the granules covered (R57). -/
def State.writeAt (s : State) (k : Nat) (bs : List Byte) : State :=
  { s with mem := memWrite s.mem k bs, poison := poisonAfter s.poison k bs.length }

def State.writeNat (s : State) (k n v : Nat) : State := s.writeAt k (natBytes v n)

def State.poisonedAt (s : State) (k n : Nat) : Bool := poisonedIn s.poison k n

/-! ## Free values -/

/-- The next free dword (log 11). -/
def State.fresh (s : State) : Word × State := (Config.freeWord s.free, { s with free := s.free + 1 })

/-- `n` free bytes. -/
def freeBytes (k : Nat) : Nat → List Byte
  | 0 => []
  | n + 1 => Config.freeByte k n :: freeBytes k n

/-- Make `n` bytes at a key undefined: each is a free byte (R12). -/
def State.scramble (s : State) (k n : Nat) : State :=
  { s with mem := memWrite s.mem k (freeBytes s.free n), free := s.free + 1 }

end Sys2Proof.Machine
end

