-- ==== Sys2Proof/Machine/Flags.lean ====
section
/-! DEFINITION. Floating-point events (R186–R188) and the arithmetic of rounding, overflow, tininess and flush (R176–R178,
R185): every flag computation of the manual is here. -/

namespace Sys2Proof.Machine

def FEv.none : FEv := {}

def FEv.add (a b : FEv) : FEv :=
  ⟨a.iv + b.iv, a.dz + b.dz, a.of + b.of, a.uf + b.uf, a.ix + b.ix, a.sat + b.sat, a.flush + b.flush,
    a.nanblock + b.nanblock, a.trunc + b.trunc, a.skip + b.skip⟩

/-- The sticky flags IV, DZ, OF, UF, IX in FPCR bits 8–12 that the events set (R176, R177). `ivFlag` adds IV where an
instruction sets it without counting ev.invalid (R205). -/
def FEv.sticky (e : FEv) (ivFlag : Bool) : Word :=
  (if e.iv ≠ 0 || ivFlag then 0x100 else 0) ||| (if e.dz ≠ 0 then 0x200 else 0) |||
    (if e.of ≠ 0 then 0x400 else 0) ||| (if e.uf ≠ 0 then 0x800 else 0) ||| (if e.ix ≠ 0 then 0x1000 else 0)

/-- Rounding modes of FPCR.RM (R176). -/
inductive RMode where
  | rne | rtz | rup | rdn
deriving DecidableEq, Repr

def RMode.ofFpcr (f : Word) : RMode :=
  match (f.extractLsb' 0 2).toNat with
  | 0 => .rne | 1 => .rtz | 2 => .rup | _ => .rdn

/-- FPCR.FZ (R176). -/
def fzOf (f : Word) : Bool := f.getLsbD 2

/-- The writable bits of FPCR (R176). -/
def fpcrMask : Word := 0x1F07

/-- The scalar floating-point formats (R169). -/
inductive FFmt where
  | f32 | f16 | bf16 | e5m2 | e4m3
deriving DecidableEq, Repr

def FFmt.width : FFmt → Nat
  | .f32 => 32 | .f16 => 16 | .bf16 => 16 | .e5m2 => 8 | .e4m3 => 8

/-- Mantissa bits (R169). -/
def FFmt.mant : FFmt → Nat
  | .f32 => 23 | .f16 => 10 | .bf16 => 7 | .e5m2 => 2 | .e4m3 => 3

def FFmt.ebits : FFmt → Nat
  | .f32 => 8 | .f16 => 5 | .bf16 => 8 | .e5m2 => 5 | .e4m3 => 4

def FFmt.bias : FFmt → Nat
  | .f32 => 127 | .f16 => 15 | .bf16 => 127 | .e5m2 => 15 | .e4m3 => 7

/-- Exponent of the smallest normal number. -/
def FFmt.emin (f : FFmt) : Int := 1 - (f.bias : Int)

/-- The default NaN (R170). -/
def FFmt.nan : FFmt → Nat
  | .f32 => 0x7FC00000 | .f16 => 0x7E00 | .bf16 => 0x7FC0 | .e5m2 => 0x7E | .e4m3 => 0x7F

/-- Largest finite magnitude (R170). -/
def FFmt.maxFin : FFmt → Nat
  | .f32 => 0x7F7FFFFF | .f16 => 0x7BFF | .bf16 => 0x7F7F | .e5m2 => 0x7B | .e4m3 => 0x7E

/-- The encoding of +∞; e4m3 has none and saturates (R180). -/
def FFmt.infBits : FFmt → Nat
  | .f32 => 0x7F800000 | .f16 => 0x7C00 | .bf16 => 0x7F80 | .e5m2 => 0x7C | .e4m3 => 0x7E

def FFmt.signBit (f : FFmt) (neg : Bool) : Nat := if neg then 2 ^ (f.width - 1) else 0

/-- A value: a NaN with its class, an infinity, or (−1)^neg × m × 2^e exactly. -/
inductive FVal where
  | nan (signalling : Bool)
  | inf (neg : Bool)
  | fin (neg : Bool) (m : Nat) (e : Int)
deriving DecidableEq, Repr

def FVal.isZero : FVal → Bool
  | .fin _ 0 _ => true
  | _ => false

def FVal.isNan : FVal → Bool
  | .nan _ => true
  | _ => false

def FVal.isInf : FVal → Bool
  | .inf _ => true
  | _ => false

def FVal.neg? : FVal → Bool
  | .nan _ => false
  | .inf n => n
  | .fin n _ _ => n

def FVal.negate : FVal → FVal
  | .nan q => .nan q
  | .inf n => .inf !n
  | .fin n m e => .fin (!n) m e

def FVal.abs : FVal → FVal
  | .nan q => .nan q
  | .inf _ => .inf false
  | .fin _ m e => .fin false m e

/-- Decode an element (R169, R171). -/
def FFmt.decode (f : FFmt) (bits : Nat) : FVal :=
  let s := bits / 2 ^ (f.width - 1) % 2 == 1
  let e := bits / 2 ^ f.mant % 2 ^ f.ebits
  let m := bits % 2 ^ f.mant
  if e = 2 ^ f.ebits - 1 ∧ (f ≠ .e4m3 ∨ m = 7) then
    if m = 0 then .inf s else .nan (f != .e4m3 && m / 2 ^ (f.mant - 1) == 0)
  else if e = 0 then .fin s m (f.emin - (f.mant : Int))
  else .fin s (2 ^ f.mant + m) ((e : Int) - 1 + (f.emin - (f.mant : Int)))

/-- Exponent of a nonzero magnitude's leading bit. -/
def topExp (m : Nat) (e : Int) : Int := (Nat.log2 m : Int) + e

/-- Round m × 2^e, with `sticky` for a nonzero remainder below m's last bit, to an integer multiple of 2^q (R178).
Answers the multiple and whether the rounding changed the value. -/
def roundAt (mode : RMode) (neg : Bool) (m : Nat) (e : Int) (sticky : Bool) (q : Int) : Nat × Bool :=
  if q ≤ e then (m * 2 ^ (e - q).toNat, sticky)
  else
    let sh := (q - e).toNat
    let base := m / 2 ^ sh
    let rem := m % 2 ^ sh
    let half := 2 ^ (sh - 1)
    let inexact := rem != 0 || sticky
    let up :=
      match mode with
      | .rne => decide (half < rem) || (rem == half && (sticky || base % 2 == 1))
      | .rtz => false
      | .rup => !neg && inexact
      | .rdn => neg && inexact
    (if up then base + 1 else base, inexact)

/-- Overflow's result (R178): infinity or the largest finite magnitude by the mode; e4m3 saturates (R180). -/
def overflowBits (f : FFmt) (mode : RMode) (neg : Bool) : Nat :=
  if f = .e4m3 then f.maxFin
  else
    match mode with
    | .rne => f.infBits
    | .rtz => f.maxFin
    | .rup => if neg then f.maxFin else f.infBits
    | .rdn => if neg then f.infBits else f.maxFin

/-- Round an exact nonzero magnitude to a format (R178, R180), with the events it counts. -/
def roundMag (f : FFmt) (mode : RMode) (neg : Bool) (m : Nat) (e : Int) (sticky : Bool) : Nat × FEv :=
  let p : Int := f.mant
  let top := topExp m e
  let u := roundAt mode neg m e sticky (top - p)
  let top' := if u.1 = 2 ^ (f.mant + 1) then top + 1 else top
  let big : Bool :=
    if f = .e4m3 then decide (8 < top') || (top' == 8 && u.1 == 15)
    else decide ((f.bias : Int) < top')
  if big then
    if f = .e4m3 then (f.signBit neg + f.maxFin, { sat := 1, ix := if u.2 then 1 else 0 })
    else (f.signBit neg + overflowBits f mode neg, { of := 1, ix := 1 })
  else
    let q := max (top - p) (f.emin - p)
    let r := roundAt mode neg m e sticky q
    let bits := (q - (f.emin - p)).toNat * 2 ^ f.mant + r.1
    let tiny := decide (top' < f.emin)
    (f.signBit neg + bits, { ix := if r.2 then 1 else 0, uf := if tiny && r.2 then 1 else 0 })

/-- An exact result, before its single rounding. `sticky` marks a nonzero remainder below m's last bit. -/
inductive XVal where
  /-- The default NaN; `iv` where the operation is invalid (R186). -/
  | nan (iv : Bool)
  | inf (neg : Bool) (dz : Bool)
  | num (neg : Bool) (m : Nat) (e : Int) (sticky : Bool)
deriving DecidableEq, Repr

/-- Is a finite encoding subnormal and not zero? -/
def FFmt.subnormal (f : FFmt) (bits : Nat) : Bool :=
  let b := bits % 2 ^ (f.width - 1)
  b != 0 && decide (b < 2 ^ f.mant)

/-- The flush of an operand whose value is subnormal in the datapath format (R185). -/
def flushIn (fz : Bool) (f : FFmt) (v : FVal) : FVal × FEv :=
  match v with
  | .fin n m e =>
    if fz && m != 0 && decide (topExp m e < f.emin) then (.fin n 0 0, { flush := 1 }) else (v, {})
  | _ => (v, {})

/-- Write an exact result into a format: one rounding (R178), then the flush of a subnormal result (R185). -/
def finish (f : FFmt) (mode : RMode) (fz : Bool) (x : XVal) : Nat × FEv :=
  match x with
  | .nan iv => (f.nan, { iv := if iv then 1 else 0 })
  | .inf n dz =>
    if f = .e4m3 then (f.signBit n + f.maxFin, { sat := 1, dz := if dz then 1 else 0 })
    else (f.signBit n + f.infBits, { dz := if dz then 1 else 0 })
  | .num n m e st =>
    if m = 0 ∧ st = false then (f.signBit n, {})
    else
      let r := roundMag f mode n m e st
      if fz && f.subnormal r.1 then (f.signBit n, { flush := 1, uf := 1, ix := 1 }) else r

/-! ## Exact arithmetic -/

/-- The sum of two finite values; the sign of an exact zero follows R178. -/
def addFin (mode : RMode) (n1 : Bool) (m1 : Nat) (e1 : Int) (n2 : Bool) (m2 : Nat) (e2 : Int) : XVal :=
  let e := min e1 e2
  let a : Int := (if n1 then -1 else 1) * ((m1 * 2 ^ (e1 - e).toNat : Nat) : Int)
  let b : Int := (if n2 then -1 else 1) * ((m2 * 2 ^ (e2 - e).toNat : Nat) : Int)
  let s := a + b
  if s = 0 then .num (if m1 = 0 ∧ m2 = 0 ∧ n1 = n2 then n1 else if m1 = 0 ∧ m2 = 0 then mode == .rdn else mode == .rdn) 0 0 false
  else .num (decide (s < 0)) s.natAbs e false

/-- a + b (R178, R186). -/
def addX (mode : RMode) (a b : FVal) : XVal :=
  match a, b with
  | .nan s, .nan t => .nan (s || t)
  | .nan s, _ => .nan s
  | _, .nan t => .nan t
  | .inf n, .inf m => if n = m then .inf n false else .nan true
  | .inf n, _ => .inf n false
  | _, .inf n => .inf n false
  | .fin n1 m1 e1, .fin n2 m2 e2 => addFin mode n1 m1 e1 n2 m2 e2

/-- a × b (R186). -/
def mulX (a b : FVal) : XVal :=
  match a, b with
  | .nan s, .nan t => .nan (s || t)
  | .nan s, _ => .nan s
  | _, .nan t => .nan t
  | .inf n, .inf m => .inf (n != m) false
  | .inf n, .fin m k _ => if k = 0 then .nan true else .inf (n != m) false
  | .fin m k _, .inf n => if k = 0 then .nan true else .inf (n != m) false
  | .fin n1 m1 e1, .fin n2 m2 e2 => .num (n1 != n2) (m1 * m2) (e1 + e2) false

/-- a × b + c with one rounding (R186, R201). -/
def fmaX (mode : RMode) (a b c : FVal) : XVal :=
  match mulX a b with
  | .nan iv => .nan (iv || (match c with | .nan s => s | _ => false))
  | .inf n _ =>
    match c with
    | .nan s => .nan s
    | .inf m => if n = m then .inf n false else .nan true
    | .fin _ _ _ => .inf n false
  | .num n m e _ =>
    match c with
    | .nan s => .nan s
    | .inf k => .inf k false
    | .fin n2 m2 e2 => addFin mode n m e n2 m2 e2

/-- a ÷ b (R186, R201). -/
def divX (a b : FVal) : XVal :=
  match a, b with
  | .nan s, .nan t => .nan (s || t)
  | .nan s, _ => .nan s
  | _, .nan t => .nan t
  | .inf _, .inf _ => .nan true
  | .inf n, .fin m _ _ => .inf (n != m) false
  | .fin n _ _, .inf m => .num (n != m) 0 0 false
  | .fin n1 m1 e1, .fin n2 m2 e2 =>
    if m2 = 0 then (if m1 = 0 then .nan true else .inf (n1 != n2) true)
    else if m1 = 0 then .num (n1 != n2) 0 0 false
    else
      let k := Nat.log2 m2 + 40
      .num (n1 != n2) (m1 * 2 ^ k / m2) (e1 - e2 - k) (m1 * 2 ^ k % m2 != 0)

/-- The integer square root, by bits from the top (fuel: the number of result bits). -/
def isqrtLoop (n : Nat) : Nat → Nat → Nat
  | 0, r => r
  | k + 1, r =>
    let r' := r + 2 ^ k
    isqrtLoop n k (if r' * r' ≤ n then r' else r)

def isqrt (n : Nat) : Nat := isqrtLoop n (Nat.log2 n / 2 + 1) 0

/-- √a (R186, R201). -/
def sqrtX (a : FVal) : XVal :=
  match a with
  | .nan s => .nan s
  | .inf n => if n then .nan true else .inf false false
  | .fin n m e =>
    if m = 0 then .num n 0 0 false
    else if n then .nan true
    else
      let k : Nat := 60 + (if (e - 60) % 2 = 0 then 0 else 1)
      let v := m * 2 ^ k
      let r := isqrt v
      .num false r ((e - k) / 2) (r * r != v)

/-- Order of two values that are not NaN, −0 equal to +0. -/
def cmpFin (a b : FVal) : Ordering :=
  let key : FVal → FVal → Int := fun x y =>
    match x, y with
    | .fin n m e, .fin _ _ e2 =>
      (if n then -1 else 1) * ((m * 2 ^ (e - min e e2).toNat : Nat) : Int)
    | .fin n m e, _ => (if n then -1 else 1) * ((m * 2 ^ (e - e).toNat : Nat) : Int)
    | _, _ => 0
  match a, b with
  | .inf n, .inf m => if n = m then .eq else if n then .lt else .gt
  | .inf n, _ => if n then .lt else .gt
  | _, .inf m => if m then .gt else .lt
  | _, _ => compare (key a b) (key b a)

/-- FMIN and FMAX of R187: the chosen operand, or the default NaN; a signalling NaN counts invalid. -/
def minmax (wantMax : Bool) (a b : FVal) : FVal × FEv :=
  let iv : FEv := { iv := if a = .nan true ∨ b = .nan true then 1 else 0 }
  match a, b with
  | .nan _, .nan _ => (.nan false, iv)
  | .nan _, _ => (b, iv)
  | _, .nan _ => (a, iv)
  | _, _ =>
    match cmpFin a b with
    | .lt => (if wantMax then b else a, {})
    | .gt => (if wantMax then a else b, {})
    | .eq => if a.neg? = wantMax then (b, {}) else (a, {})

/-- An exact value without rounding, for values that a format holds. -/
def FVal.toX (v : FVal) : XVal :=
  match v with
  | .nan s => .nan s
  | .inf n => .inf n false
  | .fin n m e => .num n m e false

/-- Conversion to a floating-point format (R179, R180). -/
def convF (f : FFmt) (mode : RMode) (v : FVal) : Nat × FEv := finish f mode false v.toX

/-- Conversion to an integer in [lo, hi] (R181). -/
def convI (mode : RMode) (lo hi : Int) (v : FVal) : Int × FEv :=
  match v with
  | .nan _ => (0, { iv := 1 })
  | .inf n => (if n then lo else hi, { sat := 1 })
  | .fin n m e =>
    let r := roundAt mode n m e false 0
    let x : Int := if n then -(r.1 : Int) else r.1
    let ix := if r.2 then 1 else 0
    if x < lo then (lo, { sat := 1, ix := ix }) else if hi < x then (hi, { sat := 1, ix := ix }) else (x, { ix := ix })

/-- An integer as a value. -/
def FVal.ofInt (n : Int) : FVal := .fin (decide (n < 0)) n.natAbs 0

/-- Clamp an integer to a range; a clamp counts ev.saturate (R205, R181). -/
def clampI (lo hi n : Int) : Int × FEv :=
  if n < lo then (lo, { sat := 1 }) else if hi < n then (hi, { sat := 1 }) else (n, {})

end Sys2Proof.Machine
end

