-- ==== Sys2Proof/Machine/Formats.lean ====
section
/-! DEFINITION. Element formats (R29, R172–R175) and the conversions between them (R179–R184, R407). -/

namespace Sys2Proof.Machine

/-- The element formats of R29. -/
inductive Fmt where
  | i8 | n8 | i16 | i32 | f32 | f16 | bf16 | e4m3 | e5m2 | e2m1 | qe2 | qe4 | qe7 | i4 | i64
deriving DecidableEq, Repr

/-- The format of a code; 0xF is reserved (R29). -/
def Fmt.ofCode (n : Nat) : Option Fmt :=
  match n with
  | 0 => some .i8 | 1 => some .n8 | 2 => some .i16 | 3 => some .i32 | 4 => some .f32 | 5 => some .f16
  | 6 => some .bf16 | 7 => some .e4m3 | 8 => some .e5m2 | 9 => some .e2m1 | 10 => some .qe2 | 11 => some .qe4
  | 12 => some .qe7 | 13 => some .i4 | 14 => some .i64 | _ => none

/-- The scalar floating-point format of an element format. -/
def Fmt.float? : Fmt → Option FFmt
  | .f32 => some .f32 | .f16 => some .f16 | .bf16 => some .bf16 | .e4m3 => some .e4m3 | .e5m2 => some .e5m2
  | _ => none

/-- Magnitude bits m of a QE format (R174). -/
def Fmt.qe? : Fmt → Option Nat
  | .qe2 => some 2 | .qe4 => some 4 | .qe7 => some 7
  | _ => none

def Fmt.isBlock : Fmt → Bool
  | .e2m1 | .qe2 | .qe4 | .qe7 => true
  | _ => false

/-- Integer formats with their ranges (R172). -/
def Fmt.int? : Fmt → Option (Int × Int)
  | .i8 => some (-128, 127) | .n8 => some (0, 255) | .i16 => some (-32768, 32767)
  | .i32 => some (-2147483648, 2147483647) | .i64 => some (-9223372036854775808, 9223372036854775807)
  | .i4 => some (-8, 7)
  | _ => none

/-- Elements per block (R173, R174); 2 for i4, whose elements share a byte; otherwise 1. -/
def Fmt.perUnit : Fmt → Nat
  | .e2m1 => 32 | .qe2 | .qe4 | .qe7 => 16 | .i4 => 2 | _ => 1

/-- Bytes per block, per pair of i4, or per element. -/
def Fmt.unitBytes : Fmt → Nat
  | .e2m1 => 17 | .qe2 => 8 | .qe4 => 12 | .qe7 => 18 | .i4 => 1
  | .i8 | .n8 | .e4m3 | .e5m2 => 1 | .i16 | .f16 | .bf16 => 2 | .i32 | .f32 => 4 | .i64 => 8

/-- Bytes of `n` elements, n a multiple of the unit. -/
def Fmt.bytesOf (f : Fmt) (n : Nat) : Nat := n / f.perUnit * f.unitBytes

/-- The alignment of a pointer to elements: the size for 2-, 4- and 8-byte formats, otherwise 1 (R208, R280). -/
def Fmt.align (f : Fmt) : Nat := if f.perUnit = 1 then f.unitBytes else 1

/-- An element's value: a float or an integer. -/
inductive EVal where
  | f (v : FVal)
  | i (n : Int)
deriving DecidableEq, Repr

def EVal.toF : EVal → FVal
  | .f v => v
  | .i n => FVal.ofInt n

/-- Two's complement of `w` bits. -/
def signed (w v : Nat) : Int := if v % 2 ^ w < 2 ^ (w - 1) then (v % 2 ^ w : Nat) else ((v % 2 ^ w : Nat) : Int) - (2 ^ w : Nat)

/-- Bits of an integer in `w` bits. -/
def unsignedBits (w : Nat) (n : Int) : Nat := (n % ((2 ^ w : Nat) : Int)).toNat

/-- Bit field [l + w − 1 : l] of a little-endian byte string. -/
def bitsOf (bs : List Byte) (l w : Nat) : Nat := bytesToNat ((bs.drop (l / 8)).take ((l % 8 + w + 7) / 8)) / 2 ^ (l % 8) % 2 ^ w

/-- Decode element `k` of a unit's bytes (R169, R172–R175). -/
def Fmt.element (f : Fmt) (unit : List Byte) (k : Nat) : EVal :=
  match f with
  | .n8 => .i (bytesToNat (unit.take 1) : Nat)
  | .i8 => .i (signed 8 (bytesToNat (unit.take 1)))
  | .i16 => .i (signed 16 (bytesToNat (unit.take 2)))
  | .i32 => .i (signed 32 (bytesToNat (unit.take 4)))
  | .i64 => .i (signed 64 (bytesToNat (unit.take 8)))
  | .i4 => .i (signed 4 (bitsOf unit (4 * k) 4))
  | .f32 => .f (FFmt.f32.decode (bytesToNat (unit.take 4)))
  | .f16 => .f (FFmt.f16.decode (bytesToNat (unit.take 2)))
  | .bf16 => .f (FFmt.bf16.decode (bytesToNat (unit.take 2)))
  | .e4m3 => .f (FFmt.e4m3.decode (bytesToNat (unit.take 1)))
  | .e5m2 => .f (FFmt.e5m2.decode (bytesToNat (unit.take 1)))
  | .e2m1 =>
    let sc := bitsOf unit 0 8
    let n := bitsOf unit (8 + 4 * k) 4
    if sc = 255 then .f (.nan false)
    else
      let x := n / 2 % 4
      let fr := n % 2
      let neg := n / 8 == 1
      if x = 0 then .f (.fin neg fr ((sc : Int) - 128))
      else .f (.fin neg (2 + fr) ((x : Int) + sc - 129))
  | .qe2 | .qe4 | .qe7 =>
    let m := match f with | .qe2 => 2 | .qe4 => 4 | _ => 7
    let e := bitsOf unit 0 8
    let mu := bitsOf unit (8 + k / 2) 1
    let v := bitsOf unit (16 + (m + 1) * k) (m + 1)
    if e = 255 then .f (.nan false)
    else .f (.fin (v / 2 ^ m == 1) (v % 2 ^ m) ((e : Int) - 127 - mu - (m - 1)))

/-- Encode a value into a non-block element (R179–R181): its bits and the events. -/
def Fmt.encode (f : Fmt) (mode : RMode) (v : EVal) : Nat × FEv :=
  match f.float?, f.int? with
  | some ff, _ => convF ff mode v.toF
  | none, some (lo, hi) =>
    let r :=
      match v with
      | .f x => convI mode lo hi x
      | .i n => clampI lo hi n
    (unsignedBits (match f with | .i4 => 4 | _ => 8 * f.unitBytes) r.1, r.2)
  | none, none => (0, {})

/-- Order of magnitudes. -/
def magLe (m1 : Nat) (e1 : Int) (m2 : Nat) (e2 : Int) : Bool :=
  let e := min e1 e2
  decide (m1 * 2 ^ (e1 - e).toNat ≤ m2 * 2 ^ (e2 - e).toNat)

/-- The larger finite magnitude of a list; infinities and NaNs count as zero. -/
def maxMag (xs : List FVal) : Nat × Int :=
  xs.foldl (fun a x =>
    match x with
    | .fin _ m e => if magLe m e a.1 a.2 then a else (m, e)
    | _ => a) (0, 0)

/-- round_rne(m × 2^e × 2^k). -/
def rneScaled (m : Nat) (e k : Int) : Nat := (roundAt .rne false m (e + k) false 0).1

/-- The smallest scale from `s` on (at most `fuel` steps, at most 254) whose scaled maximum passes `ok`. -/
def searchScale (ok : Nat → Bool) : Nat → Nat → Nat
  | 0, s => min s 254
  | fuel + 1, s => if 254 ≤ s then 254 else if ok s then s else searchScale ok fuel (s + 1)

/-- Pack fields of `w` bits LSB-first into a natural number. -/
def packBits (w : Nat) : List Nat → Nat
  | [] => 0
  | x :: t => x % 2 ^ w + 2 ^ w * packBits w t

/-- Sixteen values to one QE block with magnitude width m (R182). -/
def encodeQe (m : Nat) (xs : List FVal) : List Byte × FEv :=
  let width := 2 + 2 * (m + 1)
  if xs.any FVal.isNan then
    (natBytes 255 1 ++ List.replicate (width - 1) 0,
      { nanblock := 1, iv := if xs.any (· == .nan true) then 1 else 0 })
  else
    let mmax := 2 ^ m - 1
    let a := maxMag xs
    let ok := fun (s : Nat) => decide (rneScaled a.1 a.2 ((m : Int) - 1 + 127 - s) ≤ mmax)
    let e : Nat :=
      if xs.any FVal.isInf then 254
      else if a.1 = 0 then 0
      else searchScale ok 8 (topExp a.1 a.2 + 125).toNat
    let mus := (List.range 8).map fun j =>
      let p := maxMag ((xs.drop (2 * j)).take 2)
      if rneScaled p.1 p.2 ((m : Int) + 127 - e) ≤ mmax then 1 else 0
    let el := (List.range 16).map fun i =>
      let mu : Nat := (mus[i / 2]?).getD 0
      match (xs[i]?).getD (.fin false 0 0) with
      | .nan _ => ((0 : Nat), FEv.none)
      | .inf n => ((if n then 2 ^ m else 0) + mmax, { sat := 1 })
      | .fin n k x =>
        let q : Int := -((m : Int) - 1 + 127 - e + mu)
        let r := roundAt .rne false k x false q
        let c := min r.1 mmax
        ((if n then 2 ^ m else 0) + c,
          { ix := if r.2 || decide (mmax < r.1) then 1 else 0, sat := if mmax < r.1 then 1 else 0,
            uf := if k ≠ 0 ∧ c = 0 then 1 else 0 })
    (natBytes e 1 ++ natBytes (packBits 1 mus) 1 ++ natBytes (packBits (m + 1) (el.map (·.1))) (2 * (m + 1)),
      el.foldl (fun ev x => ev.add x.2) {})

/-- The unbounded grid rounding q of R183 on m × 2^e: the result doubled (0, 1, 2, 3, 4, 6, 8, 12, …), and whether
it changed the value. -/
def gridQ (m : Nat) (e : Int) : Nat × Bool :=
  if m = 0 then (0, false)
  else
    let q := max (topExp m e - 1) (-1)
    let r := roundAt .rne false m e false q
    (r.1 * 2 ^ (q + 1).toNat, r.2)

/-- The nibble magnitude of a doubled grid value up to 12 (R173). -/
def gridCode (d : Nat) : Nat :=
  match d with
  | 0 => 0 | 1 => 1 | 2 => 2 | 3 => 3 | 4 => 4 | 6 => 5 | 8 => 6 | _ => 7

/-- Thirty-two values to one e2m1 block (R183). -/
def encodeE2m1 (xs : List FVal) : List Byte × FEv :=
  if xs.any FVal.isNan then
    (natBytes 255 1 ++ List.replicate 16 0, { nanblock := 1, iv := if xs.any (· == .nan true) then 1 else 0 })
  else
    let a := maxMag xs
    let ok := fun (s : Nat) => decide ((gridQ a.1 (a.2 - ((s : Int) - 127))).1 ≤ 12)
    let sc : Nat :=
      if xs.any FVal.isInf then 254
      else if a.1 = 0 then 0
      else searchScale ok 8 (topExp a.1 a.2 + 123).toNat
    let el := (List.range 32).map fun i =>
      match (xs[i]?).getD (.fin false 0 0) with
      | .nan _ => ((0 : Nat), FEv.none)
      | .inf n => ((if n then 8 else 0) + 7, { sat := 1 })
      | .fin n k x =>
        let r := gridQ k (x - ((sc : Int) - 127))
        let ovr := decide (12 < r.1)
        let c := if ovr then 7 else gridCode r.1
        ((if n then 8 else 0) + c,
          { ix := if r.2 || ovr then 1 else 0, sat := if ovr then 1 else 0, uf := if k ≠ 0 ∧ c = 0 then 1 else 0 })
    (natBytes sc 1 ++ natBytes (packBits 4 (el.map (·.1))) 16, el.foldl (fun ev x => ev.add x.2) {})

/-- Encode one unit of values: a block, a pair of i4, or one element (R179–R184). -/
def Fmt.encodeUnit (f : Fmt) (mode : RMode) (vs : List EVal) : List Byte × FEv :=
  match f with
  | .e2m1 => encodeE2m1 (vs.map EVal.toF)
  | .qe2 => encodeQe 2 (vs.map EVal.toF)
  | .qe4 => encodeQe 4 (vs.map EVal.toF)
  | .qe7 => encodeQe 7 (vs.map EVal.toF)
  | .i4 =>
    let a := f.encode mode ((vs[0]?).getD (.i 0))
    let b := f.encode mode ((vs[1]?).getD (.i 0))
    (natBytes (a.1 + 16 * b.1) 1, a.2.add b.2)
  | _ =>
    let a := f.encode mode ((vs[0]?).getD (.i 0))
    (natBytes a.1 f.unitBytes, a.2)

/-- The values of `n` elements of a byte string, by whole units. -/
def Fmt.decodeUnits (f : Fmt) (bs : List Byte) (n : Nat) : List EVal :=
  (List.range n).map fun i => f.element ((bs.drop (i / f.perUnit * f.unitBytes)).take f.unitBytes) (i % f.perUnit)

/-- The bytes of values, by whole units, with the events. -/
def Fmt.encodeUnits (f : Fmt) (mode : RMode) (vs : List EVal) : List Byte × FEv :=
  (List.range (vs.length / f.perUnit)).foldl (fun acc u =>
    let r := f.encodeUnit mode ((vs.drop (u * f.perUnit)).take f.perUnit)
    (acc.1 ++ r.1, acc.2.add r.2)) ([], {})

/-- A signalling NaN source counts invalid in a conversion between floats (R179); the exact widening to f32 used by
engines, with an e2m1 value beyond the f32 range giving ±∞ and ev.overflow (R188). -/
def widenF32 (v : FVal) : FVal × FEv :=
  match v with
  | .nan s => (.nan s, {})
  | .inf n => (.inf n, {})
  | .fin n m e =>
    if m ≠ 0 ∧ 127 < topExp m e then (.inf n, { of := 1 }) else (.fin n m e, {})

end Sys2Proof.Machine
end

