-- ==== Sys2Proof/Machine/Pack.lean ====
section
/-! DEFINITION. The pack format (R120–R124) and the CRC-32C of R39. -/

namespace Sys2Proof.Machine

/-! ## CRC-32C -/

/-- One bit of the reflected Castagnoli division. -/
def crcBit (r : W32) : W32 := if r.getLsbD 0 then (r >>> 1) ^^^ 0x82F63B78 else r >>> 1

def crcByte (r : W32) (b : Byte) : W32 :=
  crcBit (crcBit (crcBit (crcBit (crcBit (crcBit (crcBit (crcBit (r ^^^ b.setWidth 32))))))))

/-- CRC-32C with an initial register (R39, R149). -/
def crcFrom (init : W32) (bs : List Byte) : W32 := ~~~(bs.foldl crcByte init)

def crc32c (bs : List Byte) : W32 := crcFrom (BitVec.allOnes 32) bs

/-! ## Geometry (R120, R121) -/

def Fmt.code : Fmt → Nat
  | .i8 => 0 | .n8 => 1 | .i16 => 2 | .i32 => 3 | .f32 => 4 | .f16 => 5 | .bf16 => 6 | .e4m3 => 7 | .e5m2 => 8
  | .e2m1 => 9 | .qe2 => 10 | .qe4 => 11 | .qe7 => 12 | .i4 => 13 | .i64 => 14

/-- Bits of an element as a pack holds it (R121). -/
def Fmt.bits : Fmt → Nat
  | .i4 | .e2m1 => 4 | .qe2 => 3 | .qe4 => 5 | .qe7 => 8 | f => 8 * f.unitBytes

/-- The full length of a pack (R120). -/
def Fmt.fullPack : Fmt → Nat
  | .qe7 | .e2m1 => 3060 | _ => 3072

/-- Bytes of a block before its elements: the exponent, and for QE the μ byte. -/
def Fmt.blockHead : Fmt → Nat
  | .e2m1 => 1 | .qe2 | .qe4 | .qe7 => 2 | _ => 0

/-- A group of elements (R121): whether it begins a block, and how many elements it has. -/
structure GroupShape where
  head : Bool
  count : Nat
deriving DecidableEq, Repr

/-- The groups of `n` expanded bytes, in order. -/
def Fmt.groups (f : Fmt) (n : Nat) : List GroupShape :=
  if f.isBlock then
    (List.range (n / f.unitBytes)).flatMap fun _ => ⟨true, 16⟩ :: List.replicate (f.perUnit / 16 - 1) ⟨false, 16⟩
  else
    let e := n * f.perUnit / f.unitBytes
    (List.range ((e + 15) / 16)).map fun i => ⟨false, min 16 (e - 16 * i)⟩

/-- A group's contents: exponent and μ bytes where it begins a block, and its elements' bits. -/
structure Group16 where
  exp : Option Nat
  mu : Option Nat
  elems : List Nat
deriving DecidableEq, Repr

/-- Split expanded bytes into groups. -/
def Fmt.split (f : Fmt) (bs : List Byte) : List Group16 :=
  let w := f.bits
  if f.isBlock then
    (List.range (bs.length / f.unitBytes)).flatMap fun u =>
      let b := (bs.drop (u * f.unitBytes)).take f.unitBytes
      (List.range (f.perUnit / 16)).map fun g =>
        ⟨if g = 0 then some (bitsOf b 0 8) else none, if g = 0 ∧ f.blockHead = 2 then some (bitsOf b 8 8) else none,
          (List.range 16).map fun i => bitsOf b (8 * f.blockHead + w * (16 * g + i)) w⟩
  else
    let e := bs.length * f.perUnit / f.unitBytes
    (List.range ((e + 15) / 16)).map fun g =>
      let b := (bs.drop (2 * w * g)).take (2 * w)
      ⟨none, none, (List.range (min 16 (e - 16 * g))).map fun i => bitsOf b (w * i) w⟩

/-- Bytes that the elements of a group's presence mask take. -/
def presentBytes (w present : Nat) : Nat := (present * w + 7) / 8

/-! ## Encoding (R121, R122) -/

/-- The body of a group: μ, the presence mask, the present elements. -/
def Group16.body (w : Nat) (g : Group16) : List Byte :=
  let present := g.elems.filter (· != 0)
  (match g.mu with | some m => natBytes m 1 | none => [])
    ++ natBytes (packBits 1 (g.elems.map fun x => if x = 0 then 0 else 1)) 2
    ++ natBytes (packBits w present) (presentBytes w present.length)

/-- The nibbles of codec 2's exponent section after its first byte. -/
def expNibbles : Nat → List Nat → List Nat
  | _, [] => []
  | prev, e :: t =>
    let d : Int := (e : Int) - prev
    (if -7 ≤ d ∧ d ≤ 7 then [(d % 16).toNat] else [8, e % 16, e / 16]) ++ expNibbles e t

/-- The exponent section of codec 2 (R121). -/
def expSection : List Nat → List Byte
  | [] => []
  | e :: t =>
    let ns := expNibbles e t
    natBytes e 1 ++ natBytes (packBits 4 ns) ((ns.length + 1) / 2)

/-- The body of a pack under a codec (R121). -/
def packBody (codec : Nat) (f : Fmt) (bs : List Byte) : List Byte :=
  if codec = 0 then bs
  else
    let gs := f.split bs
    if codec = 1 then gs.flatMap fun g => (match g.exp with | some e => natBytes e 1 | none => []) ++ g.body f.bits
    else expSection (gs.filterMap (·.exp)) ++ gs.flatMap (·.body f.bits)

/-- Zero bytes up to a multiple of 48. -/
def padPack (bs : List Byte) : List Byte := bs ++ List.replicate ((48 - bs.length % 48) % 48) 0

/-- A pack: header, body, padding (R120). -/
def packWith (codec : Nat) (f : Fmt) (bs : List Byte) : List Byte :=
  let body := packBody codec f bs
  padPack (natBytes (codec + 16 * f.code) 1 ++ natBytes 0 1 ++ natBytes bs.length 2 ++ natBytes body.length 2 ++ natBytes 0 2 ++ body)

/-- The shorter of two packs, the earlier on a tie. -/
def shorter (a b : List Byte) : List Byte := if b.length < a.length then b else a

/-- The pack that an encoder with codecs up to `c` keeps (R122). -/
def bestPack (c : Nat) (f : Fmt) (bs : List Byte) : List Byte :=
  (List.range c).foldl (fun p k => shorter p (packWith (k + 1) f bs)) (packWith 0 f bs)

/-- Cut a byte string into parts of `n` bytes (fuel: the number of parts). -/
def chunks (n : Nat) : Nat → List Byte → List (List Byte)
  | 0, _ => []
  | fuel + 1, bs => if bs.isEmpty then [] else bs.take n :: chunks n fuel (bs.drop n)

/-- The stream of an encoder (R120, R122). -/
def encodeStream (c : Nat) (f : Fmt) (bs : List Byte) : List Byte :=
  if c = 0 then bs else (chunks f.fullPack (bs.length / f.fullPack + 1) bs).flatMap (bestPack c f)

/-! ## Decoding (R121, R123, R124) -/

/-- What decoding a body gives: the expanded bytes and the body bytes used; ill-formed; or the body's bytes ran out after
`n` expanded bytes. -/
inductive BodyRes where
  | ok (bs : List Byte) (used : Nat)
  | bad
  | short (n : Nat)
deriving Repr

/-- Spread the present elements over the positions of a mask. -/
def spread (mask : Nat) : Nat → List Nat → List Nat
  | 0, _ => []
  | n + 1, vs =>
    if mask % 2 = 1 then (vs.headD 0) :: spread (mask / 2) n vs.tail else 0 :: spread (mask / 2) n vs

def fieldsOf (w n : Nat) (bs : List Byte) : List Nat := (List.range n).map fun i => bitsOf bs (w * i) w

def popCount (n : Nat) : Nat → Nat
  | 0 => 0
  | k + 1 => n % 2 + popCount (n / 2) k

/-- How many leading positions of a mask (of `n`) decode from `bits` bits of present elements of width `w` (R124). -/
def leadingElems (w bits mask : Nat) : Nat → Nat
  | 0 => 0
  | n + 1 =>
    if mask % 2 = 0 then 1 + leadingElems w bits (mask / 2) n
    else if w ≤ bits then 1 + leadingElems w (bits - w) (mask / 2) n
    else 0

/-- The groups of a body from position `pos` on; `exps` holds codec 2's exponents, `out` what earlier groups gave. -/
def decodeGroups (f : Fmt) (body : List Byte) : List GroupShape → Nat → Option (List Nat) → List Byte → BodyRes
  | [], pos, _, out => .ok out pos
  | g :: t, pos, exps, out =>
    let w := f.bits
    let n1 := if g.head ∧ exps.isNone then 1 else 0
    let n2 := if g.head ∧ f.blockHead = 2 then 1 else 0
    let at0 := pos + n1 + n2
    if body.length < at0 + 2 then .short (out.length + if g.head then min (1 + n2) (body.length - pos + (1 - n1)) else 0)
    else
      let e := match exps with
        | some l => l.headD 0
        | none => bytesToNat ((body.drop pos).take 1)
      let head := if g.head then natBytes e 1 ++ ((body.drop (pos + n1)).take n2) else []
      let mask := bytesToNat ((body.drop at0).take 2)
      if 2 ^ g.count ≤ mask then .bad
      else
        let k := popCount mask 16
        let nb := presentBytes w k
        if body.length < at0 + 2 + nb then
          .short (out.length + head.length + leadingElems w (8 * (body.length - (at0 + 2))) mask g.count * w / 8)
        else
          let vs := spread mask g.count (fieldsOf w k ((body.drop (at0 + 2)).take nb))
          let bs := natBytes (packBits w vs) ((g.count * w) / 8)
          decodeGroups f body t (at0 + 2 + nb) (if g.head then exps.map List.tail else exps) (out ++ head ++ bs)

/-- The exponents that codec 2's nibbles give: values, and nibbles used; none where a sum leaves 0–255; `some none` where
the nibbles run out. -/
def decodeExps : Nat → Nat → List Nat → Nat → Option (Option (List Nat × Nat))
  | 0, _, _, used => some (some ([], used))
  | n + 1, prev, ns, used =>
    match ns with
    | [] => some none
    | d :: t =>
      if d = 8 then
        match t with
        | lo :: hi :: t' =>
          let e := lo + 16 * hi
          (match decodeExps n e t' (used + 3) with
          | some (some (l, u)) => some (some (e :: l, u))
          | r => r)
        | _ => some none
      else
        let v : Int := (prev : Int) + (if 8 < d then (d : Int) - 16 else d)
        if v < 0 ∨ 255 < v then none
        else
          match decodeExps n v.toNat t (used + 1) with
          | some (some (l, u)) => some (some (v.toNat :: l, u))
          | r => r

/-- Decode a body of declared expanded length `xlen` from the body bytes present. -/
def decodeBody (codec : Nat) (f : Fmt) (xlen : Nat) (body : List Byte) : BodyRes :=
  if codec = 0 then (if body.length < xlen then .short body.length else .ok (body.take xlen) xlen)
  else
    let gs := f.groups xlen
    if codec = 2 ∧ f.isBlock then
      match body with
      | [] => .short 0
      | b :: t =>
        let ns := t.flatMap fun x => [x.toNat % 16, x.toNat / 16]
        match decodeExps (xlen / f.unitBytes - 1) b.toNat ns 0 with
        | none => .bad
        | some none => .short 0
        | some (some (l, u)) => decodeGroups f body gs (1 + (u + 1) / 2) (some (b.toNat :: l)) []
    else decodeGroups f body gs 0 none []

/-- The outcome of a stream (R123, R124): the expanded bytes, or the reason (7 PACK, 8 SHORT, 9 LONG) with the bytes
decoded. -/
inductive StreamRes where
  | ok (bs : List Byte)
  | err (reason decoded : Nat)
deriving Repr

/-- The bytes present of a pack's header break R120 (R123): each field is judged once all its bytes are there. `wasFull`: the
pack before had its full length, so that it need not have been the last. -/
def badHeader (c : Nat) (f : Fmt) (wasFull : Bool) (data : List Byte) : Bool :=
  let has := fun (n : Nat) => decide (n ≤ data.length)
  let codec := field data 0 1 % 16
  let xlen := field data 2 2
  (has 1 && (!wasFull || decide (c < codec) || field data 0 1 / 16 != f.code)) || (has 2 && field data 1 1 != 0)
    || (has 4 && (xlen == 0 || decide (f.fullPack < xlen) || xlen % f.unitBytes != 0))
    || (has 6 && codec == 0 && field data 4 2 != xlen)
    || ((data.drop 6).take 2).any (· != 0)

/-- The least and the greatest length that groups can bring a body to (R121, R123): the masks among the bytes present count as they are,
the others as anything from none to all of their elements. -/
def groupsRange (f : Fmt) (body : List Byte) (exps : Bool) : List GroupShape → Nat → Nat × Nat
  | [], pos => (pos, pos)
  | g :: t, pos =>
    let at0 := pos + (if g.head && !exps then 1 else 0) + (if g.head && f.blockHead == 2 then 1 else 0)
    if body.length < at0 + 2 then
      let r := groupsRange f body exps t (at0 + 2)
      (r.1, r.2 + presentBytes f.bits g.count)
    else groupsRange f body exps t (at0 + 2 + presentBytes f.bits (popCount (bytesToNat ((body.drop at0).take 2)) 16))

/-- The least and the greatest number of nibbles that `n` exponents of codec 2 can take, the first of them among those present. -/
def expsRange : Nat → List Nat → Nat × Nat
  | 0, _ => (0, 0)
  | n + 1, [] => let r := expsRange n []; (r.1 + 1, r.2 + 3)
  | n + 1, d :: t =>
    let k := if d = 8 then 3 else 1
    let r := expsRange n (t.drop (k - 1))
    (r.1 + k, r.2 + k)

/-- A body length that the bytes present do not contradict (R123): some masks and exponents in the part that the payload has cut off
imply it. -/
def lengthFits (codec : Nat) (f : Fmt) (xlen blen : Nat) (body : List Byte) : Bool :=
  if codec = 0 then true
  else
    let gs := f.groups xlen
    let r : Nat × Nat :=
      if codec = 2 ∧ f.isBlock then
        let e := expsRange (xlen / f.unitBytes - 1) ((body.drop 1).flatMap fun x => [x.toNat % 16, x.toNat / 16])
        if e.1 = e.2 then groupsRange f body true gs (1 + (e.1 + 1) / 2)
        else ((groupsRange f [] true gs (1 + (e.1 + 1) / 2)).1, (groupsRange f [] true gs (1 + (e.2 + 1) / 2)).2)
      else groupsRange f body false gs 0
    decide (r.1 ≤ blen) && decide (blen ≤ r.2) && (blen - r.1) % max 1 (f.bits / 8) == 0

/-- Decode the packs of a stream until `x` bytes are out (fuel: the number of packs there can be). `wasFull`: the pack before
had its full length. DEDUCED (log 52): of a pack that the payload cuts, R123 is judged on the bytes present, and the bytes
those decode to count towards X, so that X reached among them is LONG (8 else). -/
def decodePacks (c : Nat) (f : Fmt) (x : Nat) : Nat → List Byte → List Byte → Bool → StreamRes
  | 0, _, out, _ => .err 8 out.length
  | fuel + 1, data, out, wasFull =>
    if badHeader c f wasFull data then .err 7 out.length
    else if data.length < 8 then
      (if 6 ≤ data.length ∧ !lengthFits (field data 0 1 % 16) f (field data 2 2) (field data 4 2) [] then .err 7 out.length else .err 8 out.length)
    else
      let codec := field data 0 1 % 16
      let xlen := field data 2 2
      let blen := field data 4 2
      let avail := (data.drop 8).take blen
      match decodeBody codec f xlen avail with
      | .bad => .err 7 out.length
      | .short n =>
        if blen ≤ data.length - 8 ∨ !lengthFits codec f xlen blen avail then .err 7 out.length
        else if x ≤ out.length + n then .err 9 x
        else .err 8 (out.length + n)
      | .ok bs used =>
        if used ≠ blen then .err 7 out.length
        else
          let out1 := out ++ bs
          let rest := data.drop ((8 + blen + 47) / 48 * 48)
          if x < out1.length then .err 9 x
          else if out1.length = x then (if rest.isEmpty then .ok out1 else .err 9 x)
          else decodePacks c f x fuel rest out1 (xlen == f.fullPack)

/-- Decode a stream of codec `c` and format `f` with declared expanded length `x` (R120, R123, R124). -/
def decodeStream (c : Nat) (f : Fmt) (x : Nat) (data : List Byte) : StreamRes :=
  if c = 0 then
    (if data.length < x then .err 8 data.length else if x < data.length then .err 9 x else .ok data)
  else decodePacks c f x (data.length / 8 + 1) data [] true

end Sys2Proof.Machine
end

