-- ==== Sys2Proof/Machine/Place.lean ====
section
/-! DEFINITION. Places and scopes: cores, clusters, dies and quads (R2, R3, R5), home slices (R53, R54), accessors of
the state's tables, and completion counters and event counters (R140, R189). -/

namespace Sys2Proof.Machine

/-- The cluster of a global core number (R3). -/
def clusterOf (core : Nat) : Nat := core / 24

/-- The exposed index of a core in its cluster (R3). -/
def indexOf (core : Nat) : Nat := core % 24

/-- The die of a cluster: c = 25s + 5x + y lies on die x (R2). -/
def dieOf (cluster : Nat) : Nat := cluster % 25 / 5

/-- The quad of a core, numbered over the package (R3). -/
def quadOf (core : Nat) : Nat := clusterOf core * 6 + indexOf core / 4

/-- The cluster third of a core (R3). -/
def thirdOf (core : Nat) : Nat := indexOf core / 8

def Scope.code : Scope → Nat
  | .core => 0 | .quad => 1 | .cluster => 2 | .die => 3 | .package => 4 | .pod => 5 | .system => 6

/-- Scope codes 0–6 of R22. -/
def Scope.ofCode (n : Nat) : Scope :=
  match n with
  | 0 => .core | 1 => .quad | 2 => .cluster | 3 => .die | 4 => .package | 5 => .pod | _ => .system

/-- `a` is wider than `b` (R5). -/
def Scope.wider (a b : Scope) : Bool := decide (b.code < a.code)

/-- The wider of two scopes. -/
def Scope.max (a b : Scope) : Scope := if a.wider b then a else b

def Order.acquires : Order → Bool
  | .acq | .ar => true
  | .rlx | .rel => false

def Order.releases : Order → Bool
  | .rel | .ar => true
  | .rlx | .acq => false

def Order.code : Order → Nat
  | .rlx => 0 | .acq => 1 | .rel => 2 | .ar => 3

def Order.ofCode (n : Nat) : Order :=
  match n with
  | 0 => .rlx | 1 => .acq | 2 => .rel | _ => .ar

/-- Core `y` lies in the instance of the scope that contains core `x` (R5). -/
def Scope.covers (sc : Scope) (x y : Nat) : Bool :=
  match sc with
  | .core => x == y
  | .quad => quadOf x == quadOf y
  | .cluster => clusterOf x == clusterOf y
  | .die => dieOf (clusterOf x) == dieOf (clusterOf y)
  | .package | .pod | .system => true

/-- The smallest scope covering two cores of the package (R5). -/
def Scope.ofPair (x y : Nat) : Scope :=
  if x = y then .core
  else if quadOf x = quadOf y then .quad
  else if clusterOf x = clusterOf y then .cluster
  else if dieOf (clusterOf x) = dieOf (clusterOf y) then .die
  else .package

/-- The smallest scope covering a set of cores (R5). -/
def Scope.ofCores : List Nat → Scope
  | [] => .core
  | x :: t => t.foldl (fun sc y => sc.max (Scope.ofPair x y)) .core

/-! ## Physical map and home slices -/

/-- End of the framed range (R50). -/
def framedEnd : Nat := 0xC7FFFF8000

/-- End of backed memory (R50). -/
def backedEnd : Nat := 0xC7FFFFB000

def windowBase : Nat := 0x10000000000

def windowEnd : Nat := 0x10100000000

def hostBase : Nat := 0x8000000000000

def hostEnd : Nat := 0x10000000000000

/-- Line number of a physical address (R53). -/
def lineOf (pa : Nat) : Nat := pa / 192

/-- The channel of a line (R53). -/
def channelOf (pa : Nat) : Nat :=
  let l := pa / 192
  let q := l / 320
  (l % 320 + 97 * (q % 320) + q / 320) % 320

/-- The stack and the compute die of a channel (R53). -/
def stackOf (ch : Nat) : Nat := ch / 32

def dieOfStack (stack : Nat) : Nat := stack / 2

/-- The channel's number within its stack (R53). -/
def channelInStack (ch : Nat) : Nat := ch % 32

/-- The stripe slot of an address in its channel, and the byte's place in the channel (R53). -/
def slotOf (pa : Nat) : Nat := lineOf pa / 320

def channelOffset (pa : Nat) : Nat := slotOf pa * 192 + pa % 192

/-- The bucket of a flat line (R54). -/
def bucketOf (pa : Nat) : Nat :=
  let l := pa / 192
  (l % 50 + 7 * (l / 50)) % 50

/-- The bucket of tile `t` of tensor `id` (R54). -/
def tileBucket (id t : Nat) : Nat := (id * 37 % 50 + t) % 50

/-- The 3 MiB region of a physical address (R380). -/
def regionOf (pa : Nat) : Nat := pa / 3145728

/-! ## Tables of the state -/

def State.core (s : State) (n : Nat) : Core := tabGetD s.cores n Core.reset

def State.setCore (s : State) (n : Nat) (c : Core) : State := { s with cores := tabSet s.cores n c }

def Core.ctx (c : Core) (k : Nat) : Ctx := tabGetD c.ctxs k Ctx.reset

def Core.setCtx (c : Core) (k : Nat) (x : Ctx) : Core := { c with ctxs := tabSet c.ctxs k x }

def State.ctx (s : State) (n k : Nat) : Ctx := (s.core n).ctx k

def State.setCtx (s : State) (n k : Nat) (x : Ctx) : State := s.setCore n ((s.core n).setCtx k x)

def State.cluster (s : State) (c : Nat) : Cluster := tabGetD s.clusters c Cluster.reset

def State.setCluster (s : State) (c : Nat) (x : Cluster) : State := { s with clusters := tabSet s.clusters c x }

/-- The issuing context. -/
def State.me (s : State) : Ctx := s.ctx s.curCore s.curCtx

def State.setMe (s : State) (x : Ctx) : State := s.setCtx s.curCore s.curCtx x

def State.myCore (s : State) : Core := s.core s.curCore

def State.setMyCore (s : State) (c : Core) : State := s.setCore s.curCore c

def State.part (s : State) (p : Nat) : Part := tabGetD s.pack.parts p Part.reset

def State.setPart (s : State) (p : Nat) (x : Part) : State :=
  { s with pack := { s.pack with parts := tabSet s.pack.parts p x } }

/-- The partition that owns a core's cluster; 8 where none does. -/
def State.partOf (s : State) (core : Nat) : Nat := (s.cluster (clusterOf core)).owner.getD 8

def State.slice (s : State) (i : Nat) : Slice := (s.pack.slices[i]?).getD Slice.reset

def State.setSlice (s : State) (i : Nat) (x : Slice) : State :=
  { s with pack := { s.pack with slices := listSet s.pack.slices i x } }

def State.emit (s : State) (o : Out) : State := { s with out := s.out ++ [o] }

/-- The home slice of a bucket by a map (R54). -/
def homeSlice (map : List Nat) (bucket : Nat) : Nat := (map[bucket]?).getD 0

/-! ## Counters -/

def satInc (v : W32) (n : Nat) : W32 := if v.toNat + n < 2 ^ 32 then BitVec.ofNat 32 (v.toNat + n) else BitVec.allOnes 32

/-- Numbers of the event counters, CSR 0x20 + i (R162). -/
inductive Ev where
  | invalid | divzero | overflow | underflow | inexact | saturate | skip | nanblock | trunc | flush | contain | abort
  | early | moved | busy | spare
deriving DecidableEq, Repr

def Ev.num : Ev → Nat
  | .invalid => 0 | .divzero => 1 | .overflow => 2 | .underflow => 3 | .inexact => 4 | .saturate => 5 | .skip => 6
  | .nanblock => 7 | .trunc => 8 | .flush => 9 | .contain => 10 | .abort => 11 | .early => 12 | .moved => 13
  | .busy => 14 | .spare => 15

/-- Count `n` events; the counter saturates (R189). -/
def Core.count (c : Core) (e : Ev) (n : Nat) : Core :=
  { c with regs := { c.regs with ev := listSet c.regs.ev e.num (satInc ((c.regs.ev[e.num]?).getD 0) n) } }

def State.count (s : State) (core : Nat) (e : Ev) (n : Nat) : State :=
  if n = 0 then s else s.setCore core ((s.core core).count e n)

def Core.cc (c : Core) (n : Nat) : Counter := (c.regs.cc[n]?).getD Counter.reset

def Core.setCc (c : Core) (n : Nat) (x : Counter) : Core :=
  { c with regs := { c.regs with cc := listSet c.regs.cc n x } }

/-- One increment of a completion counter (R140): V + 1, E set on error, PS widened. -/
def Counter.bump (x : Counter) (err : Bool) (sc : Scope) : Counter := ⟨x.v + 1, x.e || err, x.ps.max sc⟩

def State.bumpCc (s : State) (core n : Nat) (err : Bool) (sc : Scope) : State :=
  s.setCore core ((s.core core).setCc n (((s.core core).cc n).bump err sc))

/-- ready(c, w) of R140: (V − w) mod 2^32 read as a signed value is at least 0. -/
def Counter.ready (x : Counter) (w : W32) : Bool := (x.v - w).msb == false

end Sys2Proof.Machine
end

