-- ==== Sys2Proof/Machine/Expander.lean ====
section
/-! DEFINITION. The expander and the compressed store of cluster memory (R116–R119, R122): which packs are expanded, and the
pack directory. Neither changes a value. -/

namespace Sys2Proof.Machine

def packBytes : Nat := 3072

/-- Sectors of the compressed store (R118). -/
def storeSectors : Nat := 349525

/-- The pack of a window offset (R116). -/
def packOf (off : Nat) : Nat := off / packBytes

/-- The pack that cluster memory keeps of 3,072 bytes: the format n8, i16 or i32 with the fewest sectors, the narrowest on a
tie (R120, R122). -/
def clusterPack (bs : List Byte) : List Byte :=
  shorter (shorter (bestPack 2 .n8 bs) (bestPack 2 .i16 bs)) (bestPack 2 .i32 bs)

/-- Sectors that stored packs occupy in the store (R118). -/
def Cluster.storeUsed (c : Cluster) : Nat := (c.packs.map fun p => if p.2.z || p.2.ovf then 0 else p.2.nsec).foldl (· + ·) 0

/-- Framed frames of HBM (R50). -/
def framedFrames : Nat := 17476266

/-- The overflow area of a cluster (R118): its first frame; it has 694, which follow each other (log 12). -/
def overflowArea (cl : Nat) : Nat := Config.overflowSeed % (framedFrames - 34700 + 1) + 694 * cl

/-- A frame of an overflow area: one of 34,700, which no partition receives (R118). -/
def overflowFrame (f : Nat) : Bool := (List.range 50).any fun cl => decide (overflowArea cl ≤ f) && decide (f < overflowArea cl + 694)

/-- The directory entry of a pack that leaves the expander (R118, R119). -/
def State.packEntry (s : State) (cl n : Nat) : PackEntry :=
  let k := cmKey cl (packBytes * n)
  let bs := s.bytesAt k packBytes
  let psn := s.poisonedAt k packBytes
  if bs.all (· == 0) && !psn then PackEntry.reset
  else
    let p := if psn then packWith 0 .n8 bs else clusterPack bs
    let nsec := p.length / 48
    let c := s.cluster cl
    let used := { c with packs := tabErase c.packs n }.storeUsed
    ⟨false, decide (storeSectors < used + nsec), field p 0 1 % 16, nsec, Config.packPlace n nsec % 2 ^ 21⟩

/-- Encode a victim into the store (R117). -/
def State.evictPack (s : State) (cl n : Nat) : State :=
  let e := s.packEntry cl n
  let c := s.cluster cl
  s.setCluster cl { c with packs := if e = PackEntry.reset then tabErase c.packs n else tabSet c.packs n e }

/-- An access to a pack brings it into the expander; the least recently used of 32 leaves (R117). -/
def State.expand (s : State) (cl n : Nat) : State :=
  let c := s.cluster cl
  let put := fun (s : State) (l : List Nat) => s.setCluster cl { s.cluster cl with expanded := n :: l }
  if c.expanded.contains n then put s (c.expanded.filter (· != n))
  else if c.expanded.length < 32 then put s c.expanded
  else
    match c.expanded.getLast? with
    | some v => put (s.evictPack cl v) c.expanded.dropLast
    | none => put s []

/-- An access at a key of a window passes the expander where the key is cluster memory (R117). -/
def State.expandKey (s : State) (k : Nat) : State :=
  if cmBase ≤ k ∧ k < accBase then s.expand ((k - cmBase) / 0x2000000) (packOf ((k - cmBase) % 0x2000000)) else s

/-- Every pack of a range of cluster memory passes the expander. -/
def State.expandRange (s : State) (k n : Nat) : State :=
  if cmBase ≤ k ∧ k < accBase then
    let o := (k - cmBase) % 0x2000000
    (List.range (packOf (o + n - 1) + 1 - packOf o)).foldl (fun s i => s.expand ((k - cmBase) / 0x2000000) (packOf o + i)) s
  else s

/-- Place the stored packs one behind the other from the store's first sector (R118). -/
def compact : Tab PackEntry → Nat → Tab PackEntry
  | [], _ => []
  | (n, e) :: t, at0 =>
    if e.z || e.ovf then (n, e) :: compact t at0 else (n, { e with loc := at0 }) :: compact t (at0 + e.nsec)

end Sys2Proof.Machine
end

