-- ==== Sys2Proof/Machine/Caches.lean ====
section
/-! DEFINITION. The caches: flat and tensor lines of the slices with their ways (R82–R85, R89), reaching a home slice (R60, R62), the
lines of a cluster's L1s with their directory (R109–R113), and the watches that writes trigger (R306). Caches hold copies and decide when
memory is updated; log 7 names what the manual leaves open. -/

namespace Sys2Proof.Machine

/-- Sectors that bytes [o, o + n) of a line touch. -/
def sectorsTouched (o n : Nat) : List Nat := (List.range 4).filter fun k => decide (o < 48 * k + 48) && decide (48 * k < o + n)

def sectorMask (o n : Nat) : BitVec 4 := (sectorsTouched o n).foldl (fun m k => m ||| (1#4 <<< k)) 0

/-- The bytes of a line with `bs` in their place from offset `o`. -/
def splice (d : List Byte) (o : Nat) (bs : List Byte) : List Byte :=
  (List.range 192).map fun i => if o ≤ i ∧ i < o + bs.length then (bs[i - o]?).getD 0 else (d[i]?).getD 0

/-- The element of a list with the oldest stamp, the first of several. -/
def oldestOf {α : Type} (used : α → Nat) : List α → Option α
  | [] => none
  | x :: t =>
    match oldestOf used t with
    | none => some x
    | some y => if used x ≤ used y then some x else some y

/-- Retention of a policy (R85): bits 1:0. -/
inductive Retain where
  | normal | noL1 | lru | none_
deriving DecidableEq, Repr

def retainOf (pol : Nat) : Retain :=
  match pol % 4 with
  | 0 => .normal | 1 => .noL1 | 2 => .lru | _ => .none_

/-! ## Reading partition registers -/

/-- The value of the register at a block offset (R377); none at a reserved offset. -/
def State.readReg (s : State) (p off : Nat) : Option Nat :=
  let x := s.part p
  match off with
  | 0x00 => some 0
  | 0x08 => some x.sqbase
  | 0x10 => some x.dropped
  | 0x18 => some x.bootstat.toNat
  | 0x20 => some x.doorbell.toNat
  | _ => none

/-- The partition and offset of a register-window address (R377). -/
def regPlace (pa : Nat) : Nat × Nat := ((pa - windowBase) / 0x1000000, (pa - windowBase) % 0x1000000)

/-- A register-window read by a core of partition `p` (R377). -/
def State.windowRead (s : State) (p pa n : Nat) : Option (List Byte) :=
  let (q, off) := regPlace pa
  if q ≠ p then none
  else (s.readReg q (off / 8 * 8)).map fun v => (natBytes (v / 256 ^ (off % 8)) n)

/-! ## Watches -/

/-- The byte of a physical address as the harts of a cluster see it (R111, R330): their L1s' copy, else the home's. -/
def State.clusterByte (s : State) (cl pa : Nat) : Byte :=
  match tabGet (s.cluster cl).l1 (lineOf pa) with
  | some e => if e.valid.getLsbD (pa % 192 / 48) then (e.data[pa % 192]?).getD 0 else s.byteAt pa
  | none => s.byteAt pa

def State.clusterBytes (s : State) (cl pa : Nat) : Nat → List Byte
  | 0 => []
  | n + 1 => s.clusterByte cl pa :: State.clusterBytes s cl (pa + 1) n

/-- The dword of a watch in its home, as its serving agent sees it (R306): memory, a window, or a partition register. A dword of the
host has no serving agent in the package, and is taken as unchanged (log 35). -/
def State.watchHome (s : State) (w : Watch) : Word :=
  if windowBase ≤ w.key ∧ w.key < windowEnd then
    match s.readReg (regPlace w.key).1 (regPlace w.key).2 with
    | some v => BitVec.ofNat 64 v
    | none => w.home
  else if hostBase ≤ w.key ∧ w.key < spBase then w.home
  else BitVec.ofNat 64 (s.natAt w.key 8)

/-- The byte of an address with what the cluster's L1s hold dirty over the home's (R112, R326). -/
def State.agentByte (s : State) (cl pa : Nat) : Byte :=
  match tabGet (s.cluster cl).l1 (lineOf pa) with
  | some e => if e.dirty.getLsbD (pa % 192) then (e.data[pa % 192]?).getD 0 else s.byteAt pa
  | none => s.byteAt pa

def State.agentBytes (s : State) (cl pa : Nat) : Nat → List Byte
  | 0 => []
  | n + 1 => s.agentByte cl pa :: State.agentBytes s cl (pa + 1) n

/-- The dword of a watch with the stores performed at the watching cluster's L1s, which its directory checks (R306). A clean copy there
says nothing of the home's value. -/
def State.watchValue (s : State) (cl : Nat) (w : Watch) : Word :=
  if w.flat && decide (w.key < backedEnd) then BitVec.ofNat 64 (bytesToNat (s.agentBytes cl w.key 8)) else s.watchHome w

/-- A write has left the dword of an armed watch different from its value, at the home or in the cluster's L1s (R306). -/
def State.watchFires (s : State) (cl : Nat) (w : Watch) : Bool := s.watchHome w != w.armed || s.watchValue cl w != w.armed

def State.watchCtx (s : State) (cl : Nat) (x : Ctx) : Ctx :=
  match x.watch with
  | some w =>
    if w.code ≠ 0 then x
    else if s.watchFires cl w then { x with watch := some { w with code := 1 } }
    else { x with watch := some { w with home := s.watchHome w } }
  | none => x

def Core.watching (c : Core) : Bool := c.ctxs.any fun p => p.2.watch.isSome

/-- After writes: every watch whose dword no longer holds the armed value is triggered with CHANGED (R306). -/
def State.wakeWatches (s : State) : State :=
  if s.cores.any (fun p => p.2.watching) then
    { s with cores := s.cores.map fun p =>
        (p.1, { p.2 with ctxs := p.2.ctxs.map fun q => (q.1, s.watchCtx (clusterOf p.1) q.2) }) }
  else s

/-! ## Home slices -/

/-! ## Scope records (R98, R99, R114) -/

/-- The window line of a window key, and its cluster (R114). -/
def winLineOfKey (k : Nat) : Nat × Nat :=
  if k < cmBase then
    let n := (k - spBase) / 0x80000
    (clusterOf n, 0xF0 * 2 ^ 40 + indexOf n * 4096 + (k - spBase) % 0x80000 / 192)
  else ((k - cmBase) / 0x2000000, 0xF2 * 2 ^ 40 + (k - cmBase) % 0x2000000 / 192)

/-- Put a record at the front; keep at most `cap` records for which `same` holds. -/
def touchRec (same : ScopeRec → Bool) (cap : Nat) (r : ScopeRec) (l : List ScopeRec) : List ScopeRec :=
  let rest := l.filter (fun x => x.line != r.line)
  let mine := rest.filter same
  r :: (if cap ≤ mine.length then
      (match mine.getLast? with
      | some v => rest.filter (fun x => x.line != v.line)
      | none => rest)
    else rest)

/-- The record of a line in a list. -/
def recAt (l : List ScopeRec) (line : Nat) : Option ScopeRec := (findIdx (fun (x : ScopeRec) => x.line == line) l).map (·.2)

/-- The release that the record of a line holds (R98). -/
def recOf (l : List ScopeRec) (line : Nat) : Option (Nat × Nat × Scope) := (recAt l line).bind (·.rel)

/-- The later of two records of a line; the first where neither is. -/
def ScopeRec.newest (a b : ScopeRec) : ScopeRec := if a.at_ < b.at_ then b else a

/-- The records that a change displaced. -/
def goneLines (old new : List ScopeRec) : List Nat :=
  (old.filter fun r => !new.any fun q => q.line == r.line).map (·.line)

/-- Trigger, with a code, the watches that satisfy a test (R306: INVALID 2, or LOST 3). -/
def State.hitWatches (s : State) (test : Nat → Watch → Bool) (code : Nat) : State :=
  if s.cores.any (fun p => p.2.watching) then
    { s with cores := s.cores.map fun p =>
        (p.1, { p.2 with ctxs := p.2.ctxs.map fun q =>
          (q.1, match q.2.watch with
            | some w => if w.code = 0 ∧ test p.1 w then { q.2 with watch := some { w with code := code } } else q.2
            | none => q.2) }) }
  else s

/-- A record stands at its line's home slice, which keeps 4,096 (R98); a watch whose line's record is displaced is lost (R306). -/
def State.homeRecord (s : State) (r : ScopeRec) : State :=
  let h := homeSlice s.pack.map (bucketOf (192 * r.line))
  let new := touchRec (fun x => homeSlice s.pack.map (bucketOf (192 * x.line)) == h) 4096 r s.pack.recs
  let gone := goneLines s.pack.recs new
  let s1 : State := { s with pack := { s.pack with recs := new } }
  if gone.isEmpty then s1 else s1.hitWatches (fun _ w => w.flat && gone.contains (lineOf w.key)) 3

/-- A flat line enters a cluster's L1s: its directory takes the line's record (R98). -/
def State.takeRecord (s : State) (cl line : Nat) : State :=
  match recAt s.pack.recs line with
  | some r => s.setCluster cl { s.cluster cl with flatRecs := touchRec (fun _ => false) 0 r (s.cluster cl).flatRecs }
  | none => s

/-- The bytes of a line go home from a cluster whose directory keeps its record: the home has the later of the two (R98, log 7). -/
def State.sendRecord (s : State) (cl line : Nat) : State :=
  match recAt (s.cluster cl).flatRecs line with
  | none => s
  | some r =>
    match recAt s.pack.recs line with
    | some q => if q.at_ < r.at_ then s.homeRecord r else s
    | none => s.homeRecord r

/-- A line leaves a cluster's L1s: its directory returns the record to the home slice (R98). -/
def State.returnRecord (s : State) (cl line : Nat) : State :=
  let s1 := s.sendRecord cl line
  s1.setCluster cl { s1.cluster cl with flatRecs := (s1.cluster cl).flatRecs.filter fun r => r.line != line }

/-- The last release on a line, wherever its record is kept (R98, R99, log 7). -/
def State.lastRecord (s : State) (line : Nat) : Option (Nat × Nat × Scope) :=
  let all := (recAt s.pack.recs line).toList ++ s.clusters.filterMap fun c => recAt c.2.flatRecs line
  (all.foldl (fun a r => ScopeRec.newest a r) ⟨line, none, 0⟩).rel

/-- Cluster `dst` is marked LIVE in the routing table of router `src` (R309); a message within a cluster crosses no router. -/
def State.routeLive (s : State) (src dst : Nat) : Bool := src == dst || (tabGetD s.pack.routes (50 * src + dst) 0).getLsbD 5

/-- Slice `h` serves a bucket (R60). -/
def State.serves (s : State) (h bucket : Nat) : Bool := homeSlice (s.slice h).map bucket == h && (s.slice h).state != .retired

/-- A request that enters at router `src` is served by slice `h`: any other is answered "moved" (R60, R309). -/
def State.servedFrom (s : State) (src h bucket : Nat) : Bool := s.routeLive src h && s.serves h bucket

/-- An access of a core reaches the home slice of a bucket by the cluster's copy of the map; a "moved" answer is counted
and the new map fetched (R60, R62, R309). -/
def State.reachHome (s : State) (core bucket : Nat) : State :=
  let cl := s.cluster (clusterOf core)
  let h := homeSlice cl.sliceMap bucket
  if s.servedFrom (clusterOf core) h bucket then s
  else
    let s1 := s.count core .moved 1
    let cl1 := s1.cluster (clusterOf core)
    s1.setCluster (clusterOf core) { cl1 with sliceMap := s.pack.map, sliceGen := s.pack.gen }

/-- The home slice of a flat line, and of a tensor line (R54). -/
def Package.flatHome (p : Package) (line : Nat) : Nat := homeSlice p.map (bucketOf (192 * line))

def Package.tileHome (p : Package) (id tile : Nat) : Nat := homeSlice p.map (tileBucket id tile)

/-- The sets of a flat line and of a tile in their slices (R83). -/
def flatSet (line : Nat) : Nat := line / 50 % 2048

def tileSet (id tile : Nat) : Nat := (tile / 50 + 61 * id) % 2048

/-- A tensor entry's generation is not its tensor's current one (R83, R89). -/
def Package.stale (p : Package) (l : TLine) : Bool :=
  match tabGet p.tensors l.id with
  | some t => t.gen != l.gen
  | none => true

/-- The flat and the tensor entries of a set of a slice. -/
def Package.flatWays (p : Package) (h set : Nat) : List (Nat × FLine) := p.flines.filter fun q => p.flatHome q.1 == h && flatSet q.1 == set

def Package.tileWays (p : Package) (h set : Nat) : List TLine := p.tlines.filter fun l => p.tileHome l.id l.tile == h && tileSet l.id l.tile == set

def TLine.named (l : TLine) (id gen tile : Nat) : Bool := l.id == id && l.gen == gen && l.tile == tile

/-- An entry of a slice that makes room (R83): the flat line of a number, or a tensor line. -/
inductive Victim where
  | flat (line : Nat)
  | tile (l : TLine)
deriving DecidableEq, Repr

/-- The way that a fill takes in a full set (R83): a stale tensor entry, else the least recently used that is not pinned. -/
def Package.victim (p : Package) (h set : Nat) : Option Victim :=
  let tiles := p.tileWays h set
  match tiles.find? p.stale with
  | some l => some (.tile l)
  | none =>
    match oldestOf (fun q => q.2.used) (p.flatWays h set), oldestOf TLine.used (tiles.filter fun l => !l.pin) with
    | some f, some l => if f.2.used ≤ l.used then some (.flat f.1) else some (.tile l)
    | some f, none => some (.flat f.1)
    | none, some l => some (.tile l)
    | none, none => none

def State.setTlines (s : State) (l : List TLine) : State := { s with pack := { s.pack with tlines := l } }

def State.setFlines (s : State) (l : Tab FLine) : State := { s with pack := { s.pack with flines := l } }

/-! ## HBM below the slices (R76, R82, R84) -/

/-- The parts of [a, a + n) that lie in one block of `size` bytes each. -/
def blockParts (size a n : Nat) : List (Nat × Nat) :=
  (List.range ((a + n - 1) / size + 1 - a / size)).map fun i =>
    let lo := max a (size * (a / size + i))
    (lo, min (a + n) (size * (a / size + i + 1)) - lo)

/-- The entry of the sector that holds an address, where its home slice holds the sector. -/
def State.sliceHolds (s : State) (pa : Nat) : Option FLine :=
  match tabGet s.pack.flines (lineOf pa) with
  | some e => if e.valid.getLsbD (pa % 192 / 48) then some e else none
  | none => none

/-- The byte of an address as the memory controller reads it (R76). -/
def State.hbmByte (s : State) (pa : Nat) : Byte :=
  match s.sliceHolds pa with
  | some e => (e.hbm[pa % 192]?).getD 0
  | none => s.byteAt pa

def State.hbmBytes (s : State) (pa : Nat) : Nat → List Byte
  | 0 => []
  | n + 1 => s.hbmByte pa :: State.hbmBytes s (pa + 1) n

/-- A poison mark of HBM itself in [pa, pa + n) (R57). -/
def State.hbmPoison (s : State) (pa n : Nat) : Bool :=
  (blockParts 48 pa n).any fun q => match s.sliceHolds q.1 with
    | some e => e.hpsn.getLsbD (q.1 % 192 / 48)
    | none => s.poisonedAt q.1 q.2

/-- Set or clear a sector's bit. -/
def bitTo (m : BitVec 4) (k : Nat) (b : Bool) : BitVec 4 := if b then m ||| (1#4 <<< k) else m &&& ~~~(1#4 <<< k)

/-- HBM's bytes and mark of a sector become what memory holds there now. -/
def State.hbmSector (s : State) (line k : Nat) (e : FLine) : FLine :=
  let a := 192 * line + 48 * k
  { e with hbm := splice e.hbm (48 * k) (s.bytesAt a 48), hpsn := bitTo e.hpsn k (s.poisonedAt a 48) }

/-- Sectors enter an entry (R84): HBM keeps below them what memory holds. -/
def State.fillFlat (s : State) (line : Nat) (m : BitVec 4) (e : FLine) : FLine :=
  let e1 := (List.range 4).foldl (fun e k => if m.getLsbD k && !e.valid.getLsbD k then s.hbmSector line k e else e) e
  { e1 with valid := e.valid ||| m }

/-- The dirty sectors of an entry are written back (R82, R83). -/
def State.cleanFlat (s : State) (line : Nat) (e : FLine) : FLine :=
  let e1 := (List.range 4).foldl (fun e k => if e.dirty.getLsbD k then s.hbmSector line k e else e) e
  { e1 with dirty := 0 }

/-- An entry leaves its slice, its dirty sectors written back (R83): below its clean ones HBM's own bytes are met again. -/
def State.dropFlat (s : State) (line : Nat) : State :=
  match tabGet s.pack.flines line with
  | none => s
  | some e =>
    let s1 := (List.range 4).foldl (fun s k =>
      let a := 192 * line + 48 * k
      let bs := (e.hbm.drop (48 * k)).take 48
      if !e.valid.getLsbD k || e.dirty.getLsbD k || (s.bytesAt a 48 == bs && s.poisonedAt a 48 == e.hpsn.getLsbD k) then s
      else
        let s1 := s.writeAt a bs
        if e.hpsn.getLsbD k then { s1 with poison := poisonMark s1.poison a } else s1) s
    s1.setFlines (tabErase s1.pack.flines line)

/-- Bytes written to HBM below the sectors that the slices hold; a sector written whole loses its mark (R57). -/
def State.hbmPut (s : State) (pa : Nat) (bs : List Byte) : State :=
  (blockParts 48 pa bs.length).foldl (fun s q =>
    match s.sliceHolds q.1 with
    | none => s
    | some e =>
      let k := q.1 % 192 / 48
      s.setFlines (tabSet s.pack.flines (lineOf q.1)
        { e with
          hbm := splice e.hbm (q.1 % 192) ((bs.drop (q.1 - pa)).take q.2)
          hpsn := if q.2 = 48 then bitTo e.hpsn k false else e.hpsn })) s

/-- A write at the memory controller (R76): HBM's bytes, which the slices' own copies hide where they hold the sector. -/
def State.controllerPut (s : State) (pa : Nat) (bs : List Byte) : State :=
  (blockParts 48 pa bs.length).foldl (fun s q =>
    let part := (bs.drop (q.1 - pa)).take q.2
    if (s.sliceHolds q.1).isSome then s.hbmPut q.1 part else s.writeAt q.1 part) s

/-- Write a line's dirty sectors to the address it was filled from, in HBM and in the flat copy that a slice may hold, poison with them
(R77, R96, R97). -/
def State.writeLine (s : State) (l : TLine) : State :=
  (List.range 4).foldl (fun s k =>
    if l.dirty.getLsbD k then
      let a := l.fill + 48 * k
      let bs := (l.data.drop (48 * k)).take 48
      let s1 := (s.writeAt a bs).hbmPut a bs
      if l.psn.getLsbD k then { s1 with poison := poisonMark s1.poison a } else s1
    else s) s

/-- Make room in a set of a slice for a new entry (R83): the victim's dirty sectors are written back, but not a stale entry's. -/
def State.makeRoom (s : State) (h set : Nat) : State :=
  let p := s.pack
  if (p.flatWays h set).length + (p.tileWays h set).length < 16 then s
  else
    match p.victim h set with
    | some (.flat n) => s.dropFlat n
    | some (.tile l) =>
      let s1 := if p.stale l then s else s.writeLine l
      s1.setTlines (p.tlines.filter fun x => !x.named l.id l.gen l.tile)
    | none => s

/-- The stamp of a use in a slice, and the state after it: at the LRU position a line has the oldest stamp (R85). A hit under pol2 or
pol6 moves the line there too, which is the model's choice: R85 speaks of allocation alone (DESIGN CHOICE, log 7). -/
def State.stamp (s : State) (r : Retain) : Nat × State :=
  let n := s.pack.tick + 1
  (if r = .lru then 0 else n, { s with pack := { s.pack with tick := n } })

/-- What an access at the home does to a flat entry (R84, R85): a read, a write that leaves it dirty, a write that also goes to
memory. -/
inductive SliceUse where
  | read | write | through
deriving DecidableEq, Repr

/-- An access to `n` bytes of one line at its home slice: its sectors are valid afterwards, and dirty after a write back; a flushing
slice writes through (R61, R84). -/
def State.touchFlat (s : State) (pa n : Nat) (u : SliceUse) (r : Retain) : State :=
  if backedEnd ≤ pa then s
  else
    let line := lineOf pa
    let m := sectorMask (pa % 192) n
    let h := s.pack.flatHome line
    let d := if u = .write ∧ (s.slice h).state ≠ .flushing then m else 0
    match tabGet s.pack.flines line with
    | some e =>
      let (k, s1) := s.stamp r
      let e1 := s1.fillFlat line m e
      s1.setFlines (tabSet s1.pack.flines line { e1 with dirty := e.dirty ||| d, used := k })
    | none =>
      if r = .none_ then s
      else
        let (k, s1) := (s.makeRoom h (flatSet line)).stamp r
        s1.setFlines (tabSet s1.pack.flines line { s1.fillFlat line m ⟨0, d, List.replicate 192 0, 0, k⟩ with used := k })

/-- The part of [pa, pa + n) that lies in each line it touches. -/
def lineParts (pa n : Nat) : List (Nat × Nat) := blockParts 192 pa n

def State.touchFlats (s : State) (pa n : Nat) (u : SliceUse) (r : Retain) : State :=
  (lineParts pa n).foldl (fun s q => s.touchFlat q.1 q.2 u r) s

/-- Bytes written at their home slices (R61, R84, R85): the sectors are there first, and what is written through goes to HBM too. -/
def State.slicePut (s : State) (pa : Nat) (bs : List Byte) (u : SliceUse) (r : Retain) : State :=
  let s1 := (s.touchFlats pa bs.length u r).writeAt pa bs
  if backedEnd ≤ pa then s1
  else
    (lineParts pa bs.length).foldl (fun s q =>
      if u = .through ∨ (s.slice (s.pack.flatHome (lineOf q.1))).state = .flushing then s.hbmPut q.1 ((bs.drop (q.1 - pa)).take q.2)
      else s) s1

/-! ## Tensor lines -/

def State.tline (s : State) (id gen tile : Nat) : Option TLine := (findIdx (fun l => TLine.named l id gen tile) s.pack.tlines).map (·.2)

/-- Fill the missing sectors of a line from its fill address, with their poison (R56, R84). A line has one address (R82): a sector that
is missing comes from it also where the tile's page is mapped elsewhere since without an invalidation (DESIGN CHOICE, log 7). -/
def State.fillLine (s : State) (l : TLine) (secs : List Nat) : TLine :=
  secs.foldl (fun l k =>
    if l.valid.getLsbD k then l
    else
      { l with
        data := splice l.data (48 * k) (s.bytesAt (l.fill + 48 * k) 48)
        valid := l.valid ||| (1#4 <<< k)
        psn := if s.poisonedAt (l.fill + 48 * k) 48 then l.psn ||| (1#4 <<< k) else l.psn }) l

/-- The line of a tile after a read has filled the sectors it needs (R83, R84). TLD, TFETCH and THALO carry no literal, and their fills
allocate as pol0 whatever the CPR says (DESIGN CHOICE, log 7). -/
def State.withLine (s : State) (id gen tile fill : Nat) (secs : List Nat) : TLine × State :=
  match s.tline id gen tile with
  | some l =>
    let (k, s1) := s.stamp .normal
    let l1 := { s.fillLine l secs with used := k }
    (l1, s1.setTlines (s.pack.tlines.map fun x => if x.named id gen tile then l1 else x))
  | none =>
    let (k, s1) := (s.makeRoom (s.pack.tileHome id tile) (tileSet id tile)).stamp .normal
    let l1 := { s1.fillLine ⟨id, gen, tile, fill, List.replicate 192 0, 0, 0, 0, false, 0⟩ secs with used := k }
    (l1, s1.setTlines (s1.pack.tlines ++ [l1]))

/-- Write back the lines that satisfy a test; drop them, or keep them clean (R77, R96). A stale entry is never written (R89). -/
def State.flushLines (s : State) (test : TLine → Bool) (drop : Bool) : State :=
  let s1 := (s.pack.tlines.filter fun l => test l && !s.pack.stale l).foldl (fun s l => s.writeLine l) s
  let keep := if drop then s.pack.tlines.filter fun l => !test l
    else s.pack.tlines.map fun l => if test l then { l with dirty := 0 } else l
  (s1.setTlines keep).wakeWatches

/-! ## The cluster's L1s -/

def L1Line.empty : L1Line := ⟨List.replicate 192 0, 0, 0, 0, false, [], false, 0⟩

/-- The byte at an offset of the line. -/
def L1Line.byte (e : L1Line) (o : Nat) : Byte := (e.data[o]?).getD 0

/-- The L1 where a line lives for a core of the cluster, and its set there (R110). -/
def Cluster.l1Place (c : Cluster) (idx line : Nat) : Nat × Nat := if c.fused then (line % 24, line / 24 % 64) else (idx, line % 64)

/-- The directory's entry of a line (R111): the L1s that hold it. -/
def Cluster.directory (c : Cluster) (line : Nat) : List Nat := ((tabGet c.l1 line).map (·.holders)).getD []

/-- Lines that an L1 holds in a set: at most 8 (R109, R110). -/
def Cluster.l1Ways (c : Cluster) (x set : Nat) : List (Nat × L1Line) :=
  c.l1.filter fun q => q.2.holders.contains x && (c.l1Place x q.1).2 == set

def State.setL1 (s : State) (cl : Nat) (t : Tab L1Line) : State := s.setCluster cl { s.cluster cl with l1 := t }

/-- Poison as the cluster's harts see it (R56, R57, R109): the mark of the L1s' copy of the sector, else the home's. The bytes lie in
one sector. -/
def State.clusterPoison (s : State) (cl pa n : Nat) : Bool :=
  match tabGet (s.cluster cl).l1 (lineOf pa) with
  | some e => if e.valid.getLsbD (pa % 192 / 48) then e.psn.getLsbD (pa % 192 / 48) else s.poisonedAt pa n
  | none => s.poisonedAt pa n

/-- A line that has been written back (R112). -/
def L1Line.clean (e : L1Line) : L1Line := { e with dirty := 0, ws := false, sync := false }

/-- The dirty bytes of a line as memory cells, rising. -/
def L1Line.dirtyCells (line : Nat) (e : L1Line) : List Host.Cell :=
  (List.range 192).filterMap fun o => if e.dirty.getLsbD o then some (192 * line + o, e.byte o) else none

/-- Write cells into memory. -/
def writeBackAll : List Host.Cell → List Host.Cell → List Host.Cell
  | m, [] => m
  | m, (a, b) :: t => writeBackAll (memSet m a b) t

/-- A line is written back by a flush of the lines that satisfy a test: what an atomic or a release left dirty goes with every write
back (R331). -/
def L1Line.leaves (p : Nat → Bool) (q : Nat × L1Line) : Bool := (q.2.dirty != 0 || q.2.ws) && (p q.1 || q.2.sync)

/-- The sectors of a line that hold a dirty byte. -/
def L1Line.dirtySectors (e : L1Line) : List Nat := (List.range 4).filter fun k => (e.dirty >>> (48 * k)).extractLsb' 0 48 != 0

/-- A line's dirty bytes reach its home slice (R84, R109): each sector that holds one is there first, filled where it was absent, and a
flushing slice writes them through (R61). -/
def State.putDirty (s : State) (line : Nat) (e : L1Line) : State :=
  let s1 := e.dirtySectors.foldl (fun s k => s.touchFlat (192 * line + 48 * k) 1 .write .normal) s
  let s2 : State := { s1 with mem := writeBackAll s1.mem (e.dirtyCells line) }
  if (s2.slice (s2.pack.flatHome line)).state = .flushing then (e.dirtyCells line).foldl (fun s c => s.hbmPut c.1 [c.2]) s2 else s2

/-- Write back the dirty bytes of the lines that satisfy a test, whose WS becomes SYSTEM (R112, R115). They stay valid, and a mark on
their sector stays (R57). A line's record goes home with its bytes (R98, log 7). -/
def State.flushPart (s : State) (cl : Nat) (p : Nat → Bool) : State :=
  let out := (s.cluster cl).l1.filter (L1Line.leaves p)
  if out.isEmpty then s
  else
    let s1 := s.setL1 cl ((s.cluster cl).l1.map fun q => if L1Line.leaves p q then (q.1, q.2.clean) else q)
    (out.foldl (fun s q => (s.putDirty q.1 q.2).sendRecord cl q.1) s1).wakeWatches

/-- Write back every dirty byte of a cluster's L1s (R112). -/
def State.flushL1 (s : State) (cl : Nat) : State := s.flushPart cl fun _ => true

/-- Lines leave the L1s of a cluster as they stand: the directory returns their records (R98). -/
def State.forgetL1 (s : State) (cl : Nat) (p : Nat → Bool) : State :=
  let gone := ((s.cluster cl).l1.map (·.1)).filter p
  gone.foldl (fun s line => s.returnRecord cl line) (s.setL1 cl ((s.cluster cl).l1.filter fun q => !p q.1))

/-- Write back and invalidate the lines that satisfy a test in every L1 of the cluster (R113, R115). -/
def State.purgeL1 (s : State) (cl : Nat) (p : Nat → Bool) : State := (s.flushPart cl p).forgetL1 cl p

/-- The release of R112 at a scope: beyond CLUSTER, every dirty byte is written back. -/
def State.syncL1 (s : State) (cl : Nat) (sc : Scope) : State := if sc.wider .cluster then s.flushL1 cl else s

/-- The acquire of R113 at a scope: beyond CLUSTER, every line is written back and invalidated. -/
def State.dropL1 (s : State) (cl : Nat) (sc : Scope) : State := if sc.wider .cluster then s.purgeL1 cl fun _ => true else s

/-- Make room in a set of an L1 for another line: the least recently used line leaves it, and is written back where no other L1
holds it (R109). -/
def State.l1Room (s : State) (cl x set line : Nat) : State :=
  let ways := ((s.cluster cl).l1Ways x set).filter fun q => q.1 != line
  if ways.length < 8 then s
  else
    match oldestOf (fun q => q.2.used) ways with
    | none => s
    | some (v, e) =>
      let rest := e.holders.filter (· != x)
      if rest.isEmpty then s.purgeL1 cl (· == v) else s.setL1 cl (tabSet (s.cluster cl).l1 v { e with holders := rest })

/-- Fill a sector of an L1 line from the home, with its mark (R56, R109). -/
def State.fillL1 (s : State) (line k : Nat) (e : L1Line) : L1Line :=
  if e.valid.getLsbD k then e
  else
    let a := 192 * line + 48 * k
    { e with
      data := splice e.data (48 * k) (s.bytesAt a 48)
      valid := e.valid ||| (1#4 <<< k)
      psn := if s.poisonedAt a 48 then e.psn ||| (1#4 <<< k) else e.psn &&& ~~~(1#4 <<< k) }

/-- The stamp of a use of an L1 line. -/
def State.l1Stamp (s : State) (cl : Nat) (r : Retain) : Nat × State :=
  let c := s.cluster cl
  (if r = .lru then 0 else c.l1Tick + 1, s.setCluster cl { c with l1Tick := c.l1Tick + 1 })

/-- Read the sector of an address at its home slice (R84). -/
def State.homeRead (s : State) (core pa : Nat) (r : Retain) : State :=
  (s.reachHome core (bucketOf pa)).touchFlat (pa - pa % 48) 48 .read r

/-- Bring the sector of an address into the core's L1 (R84, R109–R111); the directory takes a new line's scope record (R98). -/
def State.l1Bring (s : State) (core pa : Nat) (r : Retain) : State :=
  let cl := clusterOf core
  let line := lineOf pa
  let k := pa % 192 / 48
  let place := (s.cluster cl).l1Place (indexOf core) line
  let e := (tabGet (s.cluster cl).l1 line).getD L1Line.empty
  let s1 := if e.valid.getLsbD k then s else s.homeRead core pa r
  let e1 := s1.fillL1 line k e
  let s2 := if e.holders.contains place.1 then s1 else s1.l1Room cl place.1 place.2 line
  let (n, s3) := (if e.holders.isEmpty then s2.takeRecord cl line else s2).l1Stamp cl r
  s3.setL1 cl (tabSet (s3.cluster cl).l1 line
    { e1 with holders := if e.holders.contains place.1 then e.holders else place.1 :: e.holders, used := n })

/-- A flat load of a page that the L1s may hold: its sector is there afterwards, unless the policy does not allocate (R85, R109). -/
def State.l1Load (s : State) (core pa : Nat) (r : Retain) : State :=
  let cl := clusterOf core
  if r = .noL1 ∨ r = .none_ then
    match tabGet (s.cluster cl).l1 (lineOf pa) with
    | some e => if e.valid.getLsbD (pa % 192 / 48) then s else s.homeRead core pa r
    | none => s.homeRead core pa r
  else s.l1Bring core pa r

/-- Write bytes of one line into its L1 line: dirty, with write scope CLUSTER; the other L1s lose their copies (R111, R112). -/
def L1Line.write (e : L1Line) (o : Nat) (bs : List Byte) (x : Nat) (sync : Bool) : L1Line :=
  { e with
    data := splice e.data o bs
    dirty := (List.range bs.length).foldl (fun d i => d ||| (1#192 <<< (o + i))) e.dirty
    ws := true
    holders := [x]
    sync := e.sync || sync }

/-- A store held in the L1 (R112): the line is there, in the core's L1 alone, whatever the retention of its policy, which decides what
its fill leaves in the slice (R85). `sync`: an atomic or a release (R331). -/
def State.l1Store (s : State) (core pa : Nat) (bs : List Byte) (r : Retain) (sync : Bool) : State :=
  let cl := clusterOf core
  let line := lineOf pa
  let s1 := s.l1Bring core pa r
  let c := s1.cluster cl
  let e := (tabGet c.l1 line).getD L1Line.empty
  (s1.setL1 cl (tabSet c.l1 line (e.write (pa % 192) bs (c.l1Place (indexOf core) line).1 sync))).wakeWatches

/-- A byte that is written at the home, in the cluster's own copy of its line: it takes the value, and is not dirty (R112). -/
def l1Update (t : Tab L1Line) (a : Nat) (b : Byte) : Tab L1Line :=
  match tabGet t (lineOf a) with
  | some e =>
    if e.valid.getLsbD (a % 192 / 48) then
      tabSet t (lineOf a) { e with data := splice e.data (a % 192) [b], dirty := e.dirty &&& ~~~(1#192 <<< (a % 192)) }
    else t
  | none => t

def l1Updates : Tab L1Line → Nat → List Byte → Tab L1Line
  | t, _, [] => t
  | t, a, b :: r => l1Updates (l1Update t a b) (a + 1) r

/-- Marks of the cluster's copies of sectors that are written whole are cleared (R57). -/
def l1Clear (t : Tab L1Line) (pa n : Nat) : Tab L1Line :=
  t.map fun q => (q.1, { q.2 with psn := (List.range 4).foldl (fun m k =>
    if pa ≤ 192 * q.1 + 48 * k ∧ 192 * q.1 + 48 * k + 48 ≤ pa + n then m &&& ~~~(1#4 <<< k) else m) q.2.psn })

/-- Write at the home by an agent of a cluster: the cluster's own copies take the value (R112, R304). Write-back pages leave it dirty
in the slice, others and forced write-through do not (R76, R85); a write to an uncacheable page goes to the memory controller. -/
def State.homePut (s : State) (cl pa : Nat) (bs : List Byte) (mt : MemType) (pol : Nat) : State :=
  let s1 := s.setL1 cl (l1Clear (l1Updates (s.cluster cl).l1 pa bs) pa bs.length)
  match mt with
  | .writeBack => s1.slicePut pa bs (if pol / 4 % 2 = 0 then .write else .through) (retainOf pol)
  | .writeThrough => s1.slicePut pa bs .through (retainOf pol)
  | .uncacheable | .device => s1.controllerPut pa bs

def State.homeWrite (s : State) (cl pa : Nat) (bs : List Byte) : State := s.homePut cl pa bs .writeBack 0

/-- A flat store of a hart is held in the L1s (R112): MT 0, scope CLUSTER or narrower, no forced write-through. -/
def heldInL1 (mt : MemType) (pol : Nat) (sc : Scope) : Bool := mt == .writeBack && !(sc.wider .cluster) && pol / 4 % 2 == 0

/-- What an atomic or a release left dirty in the cluster is written back: it is performed before a later write of the cluster that
another cluster may see (R331). -/
def State.flushSync (s : State) (cl : Nat) : State := s.flushPart cl fun _ => false

/-- A store of a core invalidates the copies of its line in other L1s before it is performed (R111). -/
def State.l1Sole (s : State) (core line : Nat) : State :=
  let cl := clusterOf core
  match tabGet (s.cluster cl).l1 line with
  | none => s
  | some e =>
    let x := ((s.cluster cl).l1Place (indexOf core) line).1
    if e.holders.contains x then s.setL1 cl (tabSet (s.cluster cl).l1 line { e with holders := [x] }) else s.purgeL1 cl (· == line)

/-- A flat store by a hart (R112): held dirty in the L1s, or written to the home, ahead of which what an atomic or a release left dirty
is written back (R331) and the other L1s lose the line (R111). -/
def State.flatStore (s : State) (core pa : Nat) (bs : List Byte) (mt : MemType) (pol : Nat) (sc : Scope) (sync : Bool) : State :=
  if heldInL1 mt pol sc then s.l1Store core pa bs (retainOf pol) sync
  else (((s.flushSync (clusterOf core)).l1Sole core (lineOf pa)).reachHome core (bucketOf pa)).homePut (clusterOf core) pa bs mt pol

/-- The lines of a range leave the cluster's L1s, their dirty bytes outside it written back. -/
def State.purgeRange (s : State) (cl pa n : Nat) : State :=
  s.purgeL1 cl fun l => decide (lineOf pa ≤ l) && decide (l ≤ lineOf (pa + n - 1))

end Sys2Proof.Machine
end

