-- ==== Sys2Proof/Machine/Translate.lean ====
section
/-! DEFINITION. Generic pointers (R64, R65, R108), the four-level walk (R66–R71), TLBs (R72), the accessed and dirty bits
(R73) and discarded pages (R74). -/

namespace Sys2Proof.Machine

/-- The agent of an access: its core, the workspace that resolves 0xF1 pointers (R65), the policy of its accesses (R85), and the bytes
that an engine's command has read before they changed (R135). -/
structure Who where
  core : Nat
  wp : Nat
  psize : Nat
  pol : Nat
  took : List Host.Cell := []
deriving DecidableEq, Repr

def Ctx.who (x : Ctx) (core : Nat) : Who := ⟨core, x.wp.toNat, x.psize.toNat, (x.cpr.extractLsb' 0 3).toNat, []⟩

/-- The issuing context as an agent. -/
def State.who (s : State) : Who := s.me.who s.curCore

def tagOf (p : Word) : Nat := (p.extractLsb' 56 8).toNat

/-- Bits 55:0 of a pointer. -/
def lowOf (p : Word) : Nat := (p.extractLsb' 0 56).toNat

def mkPtr (tag low : Nat) : Word := BitVec.ofNat 64 (tag * 2 ^ 56 + low)

/-- The local virtual space is 3 × 2^50 bytes (R66). -/
def vaLimit : Nat := 3 * 2 ^ 50

/-- The private region's size in bytes (R152). -/
def Who.region (w : Who) : Nat := 512 * w.psize

/-- Where a pointer that passes R64 leads: the local space, another package's space, or a window byte with its key and
its normalised pointer (R133). -/
inductive Place where
  | flat (va : Nat)
  | remote (pkg : Nat) (va : Nat)
  | window (key : Nat) (norm : Word)
deriving DecidableEq, Repr

/-- Check a pointer by R64 and the window limits of R105 and R116 for an access of `n` bytes, and resolve it. -/
def State.place (s : State) (w : Who) (p : Word) (n : Nat) : Option Place :=
  let tag := tagOf p
  let low := lowOf p
  if tag = 0 then (if low < vaLimit then some (.flat low) else none)
  else if tag ≤ 0xC0 then
    if vaLimit ≤ low then none
    else if tag - 1 = s.pack.pkg then some (.flat low)
    else if s.pack.inPod && Config.podMember (tag - 1) then some (.remote (tag - 1) low)
    else none
  else if tag = 0xF0 then
    let k := low / 0x80000
    let o := low % 0x80000
    if k < 24 ∧ o + n ≤ 0x80000 then some (.window (spKey (24 * clusterOf w.core + k) o) p) else none
  else if tag = 0xF1 then
    if low < w.region ∧ low + n ≤ w.region then
      let o := w.wp + 512 + low
      some (.window (spKey w.core o) (mkPtr 0xF0 (indexOf w.core * 0x80000 + o)))
    else none
  else if tag = 0xF2 then
    if low + n ≤ 33552384 then some (.window (cmKey (clusterOf w.core) low) p) else none
  else none

/-- The pointer check alone, for one byte (R64). -/
def State.ptrOk (s : State) (w : Who) (p : Word) : Bool := (s.place w p 1).isSome

/-! ## Page-table entries -/

/-- Kinds of access as the walk judges them (R70). -/
inductive Acc where
  | read | write | atomic | monitor | fetch | leg | noCheck
deriving DecidableEq, Repr

/-- ARG of a page fault (R359). -/
def Acc.arg : Acc → Nat
  | .read | .leg | .noCheck => 1 | .write => 2 | .fetch => 3 | .atomic | .monitor => 4

def Acc.writes : Acc → Bool
  | .write | .atomic => true
  | _ => false

def eV (e : Word) : Bool := e.getLsbD 0
def eLeaf (e : Word) : Bool := e.getLsbD 1
def eR (e : Word) : Bool := e.getLsbD 2
def eW (e : Word) : Bool := e.getLsbD 3
def eX (e : Word) : Bool := e.getLsbD 4
def eLegx (e : Word) : Bool := e.getLsbD 5
def eG (e : Word) : Bool := e.getLsbD 6
def eA (e : Word) : Bool := e.getLsbD 7
def eD (e : Word) : Bool := e.getLsbD 8
def eDsc (e : Word) : Bool := e.getLsbD 9
def eS (e : Word) : Bool := e.getLsbD 10
def eMt (e : Word) : Nat := (e.extractLsb' 52 2).toNat
def eFrame (e : Word) : Nat := (e.extractLsb' 14 38).toNat * 2 ^ 14
def eNext (e : Word) : Nat := (e.extractLsb' 9 43).toNat * 2 ^ 9

def mtOf (n : Nat) : MemType :=
  match n with
  | 0 => .writeBack | 1 => .writeThrough | 2 => .uncacheable | _ => .device

/-- A table entry is well formed for a next table of `size` bytes (R66, R68): reserved bits zero, the next table
aligned and in framed memory. -/
def tableOk (e : Word) (size : Nat) : Bool :=
  e.extractLsb' 52 8 == 0 && e.extractLsb' 2 7 == 0 && eNext e % size == 0 && decide (eNext e + size ≤ framedEnd)

/-- A leaf entry is well formed for a page of `size` bytes (R69, R70). -/
def leafOk (e : Word) (size : Nat) : Bool :=
  e.extractLsb' 54 6 == 0 && e.extractLsb' 11 3 == 0 && eFrame e % size == 0 && !(eW e && !eR e)
    && !(eMt e == 3 && (eX e || eLegx e))

def page0 : Nat := 49152
def page1 : Nat := 3145728
def page2 : Nat := 201326592

/-- A leaf found by a walk: the entry, where it stands, and the page size. -/
structure Leaf where
  entry : Word
  pa : Nat
  size : Nat
deriving DecidableEq, Repr

/-- A page-table entry as its bytes are, poisoned or not (R66, log 50). -/
def State.entryAt (s : State) (pa : Nat) : Word := BitVec.ofNat 64 (s.natAt pa 8)

/-- The last level of the walk: the PT0 table at `t` (R66). -/
def State.walk0 (s : State) (t va : Nat) : Except Nat Leaf :=
  let a := t + 8 * (va / page0 % 64)
  let e := s.entryAt a
  if !eV e then .error 1
  else if !eLeaf e || !leafOk e page0 then .error 7
  else .ok ⟨e, a, page0⟩

/-- A table that a walk passes (R66): the bytes of virtual space it maps, its address, and the place of the entry that named it. -/
structure Passed where
  size : Nat
  next : Nat
  entry : Nat
deriving DecidableEq, Repr

/-- The walk from a PT1 table: the leaf and the tables it passes, or the page fault code 1 or 7 (R66, R68–R70). -/
def State.walk1 (s : State) (t va : Nat) : Except Nat (Leaf × List Passed) :=
  let a := t + 8 * (va / page0 / 64 % 64)
  let e := s.entryAt a
  if !eV e then .error 1
  else if eLeaf e then (if leafOk e page1 then .ok (⟨e, a, page1⟩, []) else .error 7)
  else if !tableOk e 512 then .error 7
  else
    match s.walk0 (eNext e) va with
    | .error c => .error c
    | .ok l => .ok (l, [⟨page1, eNext e, a⟩])

/-- The walk from a PT2 table. -/
def State.walk2 (s : State) (t va : Nat) : Except Nat (Leaf × List Passed) :=
  let a := t + 8 * (va / page0 / 4096 % 4096)
  let e := s.entryAt a
  if !eV e then .error 1
  else if eLeaf e then (if leafOk e page2 then .ok (⟨e, a, page2⟩, []) else .error 7)
  else if !tableOk e 512 then .error 7
  else
    match s.walk1 (eNext e) va with
    | .error c => .error c
    | .ok (l, p) => .ok (l, ⟨page2, eNext e, a⟩ :: p)

/-- Bytes that a PT3 entry covers (R66). -/
def page3 : Nat := 4096 * page2

/-- The walk from the PT3 table at `root`. -/
def State.walkFrom (s : State) (root va : Nat) : Except Nat (Leaf × List Passed) :=
  if framedEnd < root + 0x8000 then .error 7
  else
    let a := root + 8 * (va / page0 / 16777216)
    let e := s.entryAt a
    if !eV e then .error 1
    else if eLeaf e || !tableOk e 0x8000 then .error 7
    else
      match s.walk2 (eNext e) va with
      | .error c => .error c
      | .ok (l, p) => .ok (l, ⟨page3, eNext e, a⟩ :: p)

/-- ASCR fields (R67). -/
def ascrRoot (a : Word) : Nat := (a.extractLsb' 15 37).toNat * 2 ^ 15
def ascrAsid (a : Word) : BitVec 15 := a.extractLsb' 0 15
def ascrSec (a : Word) : Bool := a.getLsbD 61
def ascrTc (a : Word) : Bool := a.getLsbD 62

/-- Why a translation fails (R51, R70, R71). -/
inductive TFault where
  | page (code : Nat)
  | world
  | unbacked (pa : Nat)
deriving DecidableEq, Repr

/-- What a translation gives: the physical address, the memory type, whether the page is discarded, the G bit, the page's size. -/
structure Trans where
  pa : Nat
  mt : MemType
  disc : Bool
  glob : Bool
  size : Nat
deriving DecidableEq, Repr

/-- The permission and discard checks of R70 and R74 on a leaf. -/
def permCode (e : Word) (acc : Acc) : Option Nat :=
  match acc with
  | .read => if eR e then none else some 2
  | .monitor => if !eR e then some 2 else if eDsc e then some 6 else none
  | .write => if !eW e then some 3 else if eDsc e then some 6 else none
  | .atomic => if !eR e then some 2 else if !eW e then some 3 else if eDsc e then some 6 else none
  | .fetch => if !eX e then some 4 else if eDsc e then some 6 else none
  | .leg => if !eLegx e then some 5 else if eDsc e then some 6 else none
  | .noCheck => none

/-- Physical addresses that a translated access reaches (R50, R51): framed HBM whose whole page is framed, the register
window, and the host window at SYSTEM scope. -/
def reachable (pa frame size : Nat) (sc : Scope) : Bool :=
  decide (frame + size ≤ framedEnd) || (decide (windowBase ≤ pa) && decide (pa < windowEnd))
    || (decide (hostBase ≤ pa) && decide (pa < hostEnd) && sc == .system)

/-- The secure bit of the 3 MiB region of a physical address (R380). -/
def State.regionSecure (s : State) (pa : Nat) : Bool := !(s.pack.regionNs.contains (regionOf pa))

/-- The checks on a leaf for an access (R70, R71, R51), in their order. -/
def State.judgeLeaf (s : State) (sec : Bool) (e : Word) (size va : Nat) (acc : Acc) (sc : Scope) : Except TFault Trans :=
  match permCode e acc with
  | some c => .error (.page c)
  | none =>
    let pa := eFrame e + va % size
    let t : Trans := ⟨pa, mtOf (eMt e), eDsc e, eG e, size⟩
    if acc == .noCheck then .ok t
    else if (eS e && !sec) || (decide (pa < backedEnd) && eS e != s.regionSecure pa) then .error .world
    else if !reachable pa (eFrame e) size sc then .error (.unbacked pa)
    else .ok t

/-- The leaf of `va` without the TLBs, judged for an access; nothing is updated. -/
def State.probe (s : State) (root : Nat) (sec : Bool) (va : Nat) (acc : Acc) (sc : Scope) : Except TFault Trans :=
  match s.walkFrom root va with
  | .error c => .error (.page c)
  | .ok (l, _) => s.judgeLeaf sec l.entry l.size va acc sc

/-- Set A, and D for a write, in the leaf's place in memory (R73). -/
def State.setAD (s : State) (l : Leaf) (wr : Bool) : State × Word :=
  let e := l.entry ||| 0x80 ||| (if wr then 0x100 else 0)
  if e = l.entry then (s, e) else (s.slicePut l.pa (natBytes e.toNat 8) .write .normal, e)

def TlbEntry.hits (t : TlbEntry) (part : Nat) (asid : BitVec 15) (va : Nat) : Bool :=
  decide (t.base ≤ va) && decide (va < t.base + t.size) && t.part == part && (t.glob || t.asid == asid)

/-- The TLB entry that serves an access: the core's TLB first, then the cluster's (R72). -/
def State.tlbFind (s : State) (core va : Nat) (fetch : Bool) : Option TlbEntry :=
  let c := s.core core
  let part := s.partOf core
  let asid := ascrAsid c.regs.ascr
  match findIdx (fun t => t.hits part asid va) (if fetch then c.itlb else c.dtlb) with
  | some (_, t) => some t
  | none => (findIdx (fun t => t.hits part asid va) (s.cluster (clusterOf core)).l2tlb).map (·.2)

/-- Keep the first `n` elements of a list that satisfy a test, and every other. -/
def capWays {α : Type} (p : α → Bool) : Nat → List α → List α
  | _, [] => []
  | 0, x :: t => if p x then capWays p 0 t else x :: capWays p 0 t
  | n + 1, x :: t => if p x then x :: capWays p n t else x :: capWays p (n + 1) t

/-- The set of an entry in the second-level TLB (R72). -/
def TlbEntry.set (t : TlbEntry) : Nat := t.base / t.size % 256

/-- Put an entry into the core's TLB and the cluster's second-level TLB, of 8 ways a set, and the tables of its walk into the walk
cache; the oldest entry leaves where there is no room (R72, log 5). -/
def State.tlbFill (s : State) (core : Nat) (fetch : Bool) (t : TlbEntry) (walk : List WalkEntry) : State :=
  let c := s.core core
  let put := fun (l : List TlbEntry) => t :: l.filter (fun x => x.leafPa != t.leafPa)
  let c' := if fetch then { c with itlb := (put c.itlb).take 16 } else { c with dtlb := (put c.dtlb).take 32 }
  let cl := s.cluster (clusterOf core)
  let ws := (walk ++ cl.walks.filter fun x => !walk.contains x).take 64
  (s.setCore core c').setCluster (clusterOf core)
    { cl with l2tlb := capWays (fun x => x.set == t.set) 8 (put cl.l2tlb), walks := ws }

/-- The walk-cache entry that maps an address by a table of a level (R72). -/
def State.walkHit (s : State) (core va size : Nat) : Option WalkEntry :=
  let part := s.partOf core
  let asid := ascrAsid (s.core core).regs.ascr
  (s.cluster (clusterOf core)).walks.find? fun w =>
    w.size == size && w.part == part && w.asid == asid && decide (w.base ≤ va) && decide (va < w.base + w.size)

/-- The leaf of an address by the walk cache or the walk (R66, R72), with the tables that the walk passed. -/
def State.walkLeaf (s : State) (core va : Nat) : Except Nat (Leaf × List Passed) :=
  match s.walkHit core va page1 with
  | some w => (s.walk0 w.next va).map fun l => (l, [])
  | none =>
    match s.walkHit core va page2 with
    | some w => s.walk1 w.next va
    | none =>
      match s.walkHit core va page3 with
      | some w => s.walk2 w.next va
      | none => s.walkFrom (ascrRoot (s.core core).regs.ascr) va

/-- The walker reads entries as flat data through the slices (R66). -/
def State.touchEntries (s : State) (l : List Nat) : State := l.foldl (fun s a => s.touchFlat a 8 .read .normal) s

/-- Translate a local address for a core (R66–R74): TLB, else walk; A and D set when the access passes; the TLB filled. -/
def State.translate (s : State) (core va : Nat) (acc : Acc) (sc : Scope) : Except TFault (Trans × State) :=
  let a := (s.core core).regs.ascr
  let fetch := acc == .fetch
  let hit := s.tlbFind core va fetch
  let use : Option Word := match hit with
    | some t => if acc.writes && !eD t.leaf && !eDsc t.leaf then none else some t.leaf
    | none => none
  match use, hit with
  | some e, some t =>
    (match s.judgeLeaf (ascrSec a) e t.size va acc sc with
    | .error f => .error f
    | .ok r => .ok (r, s))
  | _, _ =>
    match s.walkLeaf core va with
    | .error c => .error (.page c)
    | .ok (l, path) =>
      match s.judgeLeaf (ascrSec a) l.entry l.size va acc sc with
      | .error f => .error f
      | .ok r =>
        let (s1, e) := (s.touchEntries (path.map (·.entry) ++ [l.pa])).setAD l acc.writes
        let t : TlbEntry := ⟨va / l.size * l.size, l.size, s.partOf core, ascrAsid a, eG e, e, l.pa⟩
        .ok (r, s1.tlbFill core fetch t (path.map fun q => ⟨va / q.size * q.size, q.size, s.partOf core, ascrAsid a, q.next⟩))

end Sys2Proof.Machine
end

