-- ==== Sys2Proof/Machine/Access.lean ====
section
/-! DEFINITION. Accesses to bytes: partition registers (R377, R378, R406), scope records (R98, R99, R114), watches that are lost or
invalidated (R306), and the range scoreboard (R134). -/

namespace Sys2Proof.Machine

/-! ## Partition registers -/

/-- Queue a launch of a partition's starter (R338). -/
def State.queueLaunch (s : State) (p : Nat) (l : Launch) : State :=
  let id := s.pack.nextLaunch
  let s1 := { s with pack := { s.pack with launches := tabSet s.pack.launches id l, nextLaunch := id + 1 } }
  s1.setPart p { s1.part p with starts := (s1.part p).starts ++ [id] }

/-- A START store (R378): ignored and counted while the entry is busy, otherwise a launch of the entry is queued. -/
def State.startStore (s : State) (p i : Nat) : State :=
  let x := s.part p
  if x.busy.contains i then s.setPart p { x with dropped := min (x.dropped + 1) (2 ^ 32 - 1) }
  else
    let s1 := s.setPart p { x with busy := i :: x.busy }
    s1.queueLaunch p (Launch.mk p [] (x.sqbase + 128 * i + 88) 0 (some i) none 0 .system [] 0)

/-- A DOORBELL write: each bit written as 1 is set (R406). -/
def State.ringDoorbell (s : State) (p : Nat) (v : Word) : State :=
  let x := s.part p
  s.setPart p { x with doorbell := x.doorbell ||| v.extractLsb' 0 16 }

/-- Write a register of the block (R377); read-only registers ignore it; none at a reserved offset. -/
def State.writeReg (s : State) (p off : Nat) (v : Word) : Option State :=
  match off with
  | 0x00 => some (s.startStore p (v.extractLsb' 0 6).toNat)
  | 0x08 | 0x10 | 0x18 => some s
  | 0x20 => some (s.ringDoorbell p v)
  | _ => none

/-- A register-window write by a core of partition `p` (R377). -/
def State.windowWrite (s : State) (p pa : Nat) (bs : List Byte) : Option State :=
  let (q, off) := regPlace pa
  if q ≠ p then none
  else s.writeReg q (off / 8 * 8) (BitVec.ofNat 64 (bytesToNat bs * 256 ^ (off % 8)))

/-! ## Scope records -/

/-- The key of a window line (R114): space, core index and offset div 192. -/
def winLine (norm : Word) : Nat :=
  let low := lowOf norm
  if tagOf norm = 0xF0 then 0xF0 * 2 ^ 40 + low / 0x80000 * 4096 + low % 0x80000 / 192 else 0xF2 * 2 ^ 40 + low / 192

/-- Where an access is performed: a physical address with its memory type, or a window byte. -/
inductive Spot where
  | flat (pa : Nat) (mt : MemType)
  | window (key : Nat) (norm : Word)
deriving DecidableEq, Repr

/-- A flat atomic at this spot is performed at the home slice, not in the cluster's L1 (R304). -/
def Spot.atHome (sp : Spot) (pol : Nat) (sc : Scope) : Bool :=
  match sp with
  | .flat _ mt => !heldInL1 mt pol sc
  | .window _ _ => true

def Spot.key : Spot → Nat
  | .flat pa _ => pa
  | .window k _ => k

/-- The cluster's L1s hold a flat line, so its directory keeps the line's record (R98). -/
def State.directoryKeeps (s : State) (cl line : Nat) : Bool := !((s.cluster cl).directory line).isEmpty

/-- The last release on a spot's line that an acquire at a scope meets (R98, R99, R114): the directory's record where the cluster holds
the line, else the home's; an acquire wider than CLUSTER is performed at the home, and meets the last release wherever its record is
kept (log 7). -/
def State.record (s : State) (cl : Nat) (sp : Spot) (sa : Scope) : Option (Nat × Nat × Scope) :=
  match sp with
  | .flat pa _ =>
    if sa.wider .cluster then s.lastRecord (lineOf pa)
    else if s.directoryKeeps cl (lineOf pa) then recOf (s.cluster cl).flatRecs (lineOf pa)
    else recOf s.pack.recs (lineOf pa)
  | .window _ n => recOf (s.cluster cl).winRecs (winLine n)

/-- What a list's record of a line becomes: the new release, or what it was (R98). -/
def recNext (l : List ScopeRec) (line : Nat) (rel : Option (Nat × Nat × Scope)) (n : Nat) : ScopeRec :=
  match rel with
  | some _ => ⟨line, rel, n⟩
  | none => (recAt l line).getD ⟨line, none, 0⟩

/-- The scope check of R99: the releaser and the recorded scope where the acquire mismatches. -/
def State.mismatch (s : State) (core : Nat) (sp : Spot) (sa : Scope) : Option (Nat × Nat × Scope) :=
  match s.record (clusterOf core) sp sa with
  | none => none
  | some (pkg, y, sr) =>
    let ok :=
      if pkg = s.pack.pkg then sa.covers core y && sr.covers y core
      else decide (5 ≤ sa.code) && decide (5 ≤ sr.code)
    if ok then none else some (pkg, y, sr)

/-- The home of a line is retiring, and carries a queue or a scope record of the line (R104). -/
def State.lineCarried (s : State) (line : Nat) : Bool :=
  (s.slice (s.pack.flatHome line)).state == .flushing
    && ((recAt s.pack.recs line).isSome || s.pack.queues.any fun q => lineOf q.pa == line)

/-- The scope check of an acquire is made at a home slice that carries the line's record (R104). -/
def State.checkCarried (s : State) (cl : Nat) (sp : Spot) (sa : Scope) : Option Nat :=
  match sp with
  | .flat pa _ =>
    if (sa.wider .cluster || !s.directoryKeeps cl (lineOf pa)) && s.lineCarried (lineOf pa) && (recAt s.pack.recs (lineOf pa)).isSome then
      some (lineOf pa)
    else none
  | .window _ _ => none

/-- The releaser word of trap code 7 (R359). -/
def releaserWord (r : Nat × Nat × Scope) : Word :=
  BitVec.ofNat 64 (r.1 * 2 ^ 15 + clusterOf r.2.1 * 2 ^ 9 + indexOf r.2.1 * 2 ^ 4 + r.2.2.code * 2 ^ 24)

/-! ## Watches -/

/-- The spot's line becomes a synchronisation line, a release records itself, and a watch whose line's record is displaced is lost (R98,
R114, R306). `atHome`: the access is performed at the home slice, whose record it changes; the directory's record changes while the
cluster holds the line. -/
def State.touchLine (s : State) (core : Nat) (sp : Spot) (rel : Option Scope) (atHome : Bool) : State :=
  let cl := clusterOf core
  let n := s.pack.relNo + 1
  let new := rel.map fun sc => (s.pack.pkg, core, sc)
  let s1 : State := { s with pack := { s.pack with relNo := n } }
  match sp with
  | .flat pa _ =>
    let line := lineOf pa
    let held := s1.directoryKeeps cl line
    let dir := (s1.cluster cl).flatRecs
    let s2 := if held then s1.setCluster cl { s1.cluster cl with flatRecs := touchRec (fun _ => false) 0 (recNext dir line new n) dir } else s1
    if atHome || !held then s2.homeRecord (recNext s2.pack.recs line new n) else s2
  | .window _ p =>
    let old := (s1.cluster cl).winRecs
    let now := touchRec (fun _ => true) 256 (recNext old (winLine p) new n) old
    let s2 := s1.setCluster cl { s1.cluster cl with winRecs := now }
    let gone := goneLines old now
    if gone.isEmpty then s2
    else s2.hitWatches (fun _ w => !w.flat && (winLineOfKey w.key).1 == cl && gone.contains (winLineOfKey w.key).2) 3

/-! ## The range scoreboard -/

def Range.overlaps (a b : Range) : Bool :=
  a.tag == b.tag && decide (a.lo < b.lo + b.len) && decide (b.lo < a.lo + a.len)

/-- The normalised range of `n` bytes at a normalised pointer (R133). -/
def rangeOf (norm : Word) (n : Nat) : Range := ⟨tagOf norm, lowOf norm, n⟩

/-- An entry of the core's scoreboard overlaps the range (R134). -/
def State.scoreHit (s : State) (core : Nat) (r : Range) : Bool :=
  (s.core core).eng.xq.any fun c => match c.range with
    | some q => c.status != .halted && q.overlaps r
    | none => false

/-- The physical places of a range of the local space, page by page; none where a page does not translate. -/
def State.physPartsOf (s : State) (core : Nat) (acc : Acc) (q : Range) : List (Nat × Nat) :=
  let a := (s.core core).regs.ascr
  let first := q.lo / page0
  if q.tag ≠ 0 ∨ q.len = 0 then []
  else
    (List.range ((q.lo + q.len - 1) / page0 + 1 - first)).filterMap fun i =>
      let lo := max q.lo (page0 * (first + i))
      match s.probe (ascrRoot a) (ascrSec a) lo acc .package with
      | .ok t => some (t.pa, min (q.lo + q.len) (page0 * (first + i + 1)) - lo)
      | .error _ => none

/-- The physical places of a destination range. -/
def State.physParts (s : State) (core : Nat) (q : Range) : List (Nat × Nat) := s.physPartsOf core .write q

/-- The places of a normalised range's bytes: physical addresses, or window keys (R216). -/
def State.rangeKeys (s : State) (core : Nat) (acc : Acc) (r : Range) : List (Nat × Nat) :=
  if r.tag = 0 then s.physPartsOf core acc r
  else match s.place ⟨core, 0, 0, 0, []⟩ (mkPtr r.tag r.lo) 1 with
    | some (.window k _) => [(k, r.len)]
    | _ => []

/-- Bytes that a core's access reaches through an alias of a destination range, before the completion of its command is observed: they
are undefined (R133, R134). -/
def State.aliasHit (s : State) (core va pa n : Nat) : Bool :=
  let c := s.core core
  let open_ := c.eng.xq.filterMap fun x => if x.status = .halted then none else x.range
  (open_ ++ c.eng.unseen.map (·.2)).any fun q =>
    !q.overlaps ⟨0, va, n⟩ && (s.physParts core q).any fun r => decide (r.1 < pa + n) && decide (pa < r.1 + r.2)

/-- A line of the core is held until a resent request is performed (R62). -/
def State.lineHeld (s : State) (core pa : Nat) : Bool :=
  (s.core core).moved.any fun m => lineOf m.pa == lineOf pa

end Sys2Proof.Machine
end

