-- ==== Sys2Proof/Machine/Stores.lean ====
section
/-! DEFINITION. The store buffer: how a store leaves it and is performed (R112, R294, R296), and how it faults (R297,
R298). -/

namespace Sys2Proof.Machine

/-- The low bytes of a store's data (R293). -/
def StoreEntry.bytes (e : StoreEntry) : List Byte := natBytes e.data.toNat e.size

/-- The key of a normalised window pointer (R105, R116). -/
def windowKey (cl : Nat) (norm : Word) : Nat :=
  if tagOf norm = 0xF0 then spKey (24 * cl + lowOf norm / 0x80000) (lowOf norm % 0x80000) else cmKey cl (lowOf norm)

/-- The bytes of a live context's workspace that its register set holds, as offsets from the workspace with their lengths (R157): slots 0–55
and 64–71, of the latter only 65–67 while a handler runs (R361). -/
def Ctx.heldSlots (x : Ctx) : List (Nat × Nat) :=
  if !x.live then [] else if x.ih then [(0, 448), (520, 24)] else [(0, 448), (512, 64)]

/-- A write of `n` bytes at a scratchpad key: those that fall into an active slot are undefined until the next write-back (R157). -/
def State.scrambleActive (s : State) (k n : Nat) : State :=
  if k < spBase ∨ cmBase ≤ k then s
  else
    let core := (k - spBase) / 0x80000
    (s.core core).ctxs.foldl (fun s q => q.2.heldSlots.foldl (fun s r =>
      let lo := max k (spKey core (q.2.wp.toNat + r.1))
      let hi := min (k + n) (spKey core (q.2.wp.toNat + r.1 + r.2))
      if lo < hi then s.scramble lo (hi - lo) else s) s) s

/-- Write bytes into a window, by the expander where it is cluster memory (R105, R117, R157). -/
def State.putWindow (s : State) (k : Nat) (bs : List Byte) : State :=
  ((s.expandRange k bs.length).writeAt k bs).scrambleActive k bs.length

/-- Perform a flat write of a hart at a physical address (R50, R112, R296): register window, host window or memory; a release first
writes back the cluster's dirty bytes, wherever it goes (R327), and then records itself; what an atomic or a release left dirty goes
ahead of a write that leaves the cluster (R331). None: the address is a reserved register
offset. -/
def State.putFlat (s : State) (core pa n : Nat) (data : Word) (mt : MemType) (pol : Nat) (sc : Scope) (rel : Bool) : Option State :=
  let bs := natBytes data.toNat n
  let s1 := if rel then s.syncL1 (clusterOf core) sc else s
  let put : Option State :=
    if windowBase ≤ pa ∧ pa < windowEnd then (s1.flushSync (clusterOf core)).windowWrite (s1.partOf core) pa bs
    else if hostBase ≤ pa then some ((s1.flushSync (clusterOf core)).emit (.hostWrite (s1.partOf core) (pa - hostBase) n data))
    else some (s1.flatStore core pa bs mt pol sc rel)
  put.map fun s2 => if rel then s2.touchLine core (.flat pa mt) (some sc) (!heldInL1 mt pol sc) else s2

/-- A buffered store is performed at a physical address. -/
def State.performFlat (s : State) (core pa : Nat) (e : StoreEntry) (mt : MemType) : Option State :=
  s.putFlat core pa e.size e.data mt e.pol e.scope e.order.releases

/-! ## What the photo-finish units see of writes (R355, R356) -/

/-- The number of the 48-byte sector of a key, in its space. -/
def sectorOf (k : Nat) : Nat :=
  if k < spBase then k / 48
  else if k < cmBase then 2 ^ 60 + (k - spBase) / 0x80000 * 16384 + (k - spBase) % 0x80000 / 48
  else 2 ^ 61 + (k - cmBase) / 0x2000000 * 2 ^ 20 + (k - cmBase) % 0x2000000 / 48

/-- Order of keys (R353): timestamps, then enqueue numbers compared modulo 2^32. -/
def PfuTask.before (a b : PfuTask) : Bool :=
  decide (a.ts.toNat < b.ts.toNat) || (a.ts == b.ts && a.seq != b.seq && decide ((b.seq + 2 ^ 32 - a.seq) % 2 ^ 32 < 2 ^ 31))

/-- A task, running or finished and not yet committed, that a write to a sector condemns: the writer is an older task of its
unit, or no task of the unit and the task is not the oldest (R356, log 17). One that has been irrevocable is never aborted. -/
def PfuTask.condemned (t : PfuTask) (unit : List PfuTask) (writer : Option PfuTask) (sec : Nat) : Bool :=
  (t.state == .running || t.state == .finished) && !t.fixed && t.reads.contains sec &&
    (match writer with
    | some w => w.before t
    | none => unit.any fun u => u.before t)

def addAll (l m : List Nat) : List Nat := m.foldl (fun l x => if l.contains x then l else l ++ [x]) l

/-- Something may race with the command (R135, R150, R216): a transfer or vector command that runs, a transform since its issue. -/
def Cmd.racing (c : Cmd) : Bool :=
  !(c.race.src.isEmpty && c.race.dst.isEmpty) &&
    (if c.op = 0x33 then c.status != .halted || c.reason == 3 else c.status == .running || c.status == .parked)

def Core.racing (c : Core) : Bool := (c.eng.xq ++ c.eng.vq ++ c.eng.cq).any Cmd.racing

/-- Places hold a byte. -/
def holdsKey (l : List (Nat × Nat)) (a : Nat) : Bool := l.any fun r => decide (r.1 ≤ a) && decide (a < r.1 + r.2)

/-- A command meets a write of bytes from `k` that now hold `old`: of a source byte the engine has or has not read the old value, as a free
bit says; a byte that it writes too will hold either value (R135, R150, R216). -/
def Cmd.meet (c : Cmd) (src dst : List (Nat × Nat)) (k : Nat) (old : List Byte) (free : Nat) : Cmd :=
  let at_ := (List.range old.length).map (k + ·)
  { c with race := { c.race with
    changed := c.race.changed || at_.any (holdsKey src)
    hit := addAll c.race.hit (at_.filter (holdsKey dst))
    took := (List.range old.length).foldl (fun t i =>
      if holdsKey src (k + i) && (tabGet t (k + i)).isNone && (Config.freeByte free i).getLsbD 0 then tabSet t (k + i) ((old[i]?).getD 0)
      else t) c.race.took } }

/-- The places that ranges reach. -/
def State.placesOf (s : State) (acc : Acc) (l : List (Nat × Range)) : List (Nat × Nat) := l.flatMap fun q => s.rangeKeys q.1 acc q.2

/-- The commands of a queue meet a write of `n` bytes at a key; `f` counts the free values. -/
def State.meetQueue (s : State) (core k n : Nat) : List Cmd → Nat → List Cmd × Nat
  | [], f => ([], f)
  | c :: t, f =>
    let r := State.meetQueue s core k n t (f + 1)
    let old := if k < spBase then s.agentBytes (clusterOf core) k n else s.bytesAt k n
    ((if c.racing then c.meet (s.placesOf .read c.race.src) (s.placesOf .write c.race.dst) k old f else c) :: r.1, r.2)

def State.meetCores (s : State) (k n : Nat) : Tab Core → Nat → Tab Core × Nat
  | [], f => ([], f)
  | (i, c) :: t, f =>
    let x := s.meetQueue i k n c.eng.xq f
    let v := s.meetQueue i k n c.eng.vq x.2
    let q := s.meetQueue i k n c.eng.cq v.2
    let r := State.meetCores s k n t q.2
    ((i, { c with eng := { c.eng with xq := x.1, vq := v.1, cq := q.1 } }) :: r.1, r.2)

/-- The commands that run meet a write of `n` bytes at a key, before it is performed. -/
def State.meetRaces (s : State) (k n : Nat) : State :=
  if s.cores.any fun p => p.2.racing then
    let r := s.meetCores k n s.cores s.free
    { s with cores := r.1, free := r.2 }
  else s

/-- What has been written to the destination of a transform is undefined until its increment (R150). -/
def State.blur (s : State) (cl k n : Nat) : State :=
  if s.cores.any fun p => p.2.racing then
    let dst := s.cores.flatMap fun p => (p.2.eng.cq.filter Cmd.racing).flatMap fun c => s.placesOf .write c.race.dst
    (List.range n).foldl (fun s i => if holdsKey dst (k + i) ∧ (k + i < backedEnd ∨ spBase ≤ k + i) then (s.purgeRange cl (k + i) 1).scramble (k + i) 1 else s) s
  else s

/-- The units see a write of `n` bytes at a key, by a task of the unit of a cluster or by another agent (R356). -/
def State.unitsSee (s : State) (k n : Nat) (writer : Option (Nat × PfuTask)) : State :=
  if s.clusters.any (fun p => !p.2.pfu.isEmpty) then
    let hit := fun (cl : Nat) (unit : List PfuTask) (t : PfuTask) =>
      let w := match writer with | some (c, w) => if c = cl then some w else none | none => none
      t.condemned unit w (sectorOf k) || t.condemned unit w (sectorOf (k + n - 1))
    { s with clusters := s.clusters.map fun p =>
      (p.1, { p.2 with pfu := p.2.pfu.map fun t => if hit p.1 p.2.pfu t then { t with doomed := true } else t }) }
  else s

/-- A write of `n` bytes at a key that is about to be performed: the commands that run meet it, and the units see it (R135, R356). -/
def State.seen (s : State) (k n : Nat) (writer : Option (Nat × PfuTask)) : State := (s.meetRaces k n).unitsSee k n writer

/-- The task that a context of a core runs, with its unit's cluster (R353). -/
def State.taskOf (s : State) (core k : Nat) : Option (Nat × PfuTask) :=
  match (s.ctx core k).pfu with
  | none => none
  | some q => (findIdx (fun (t : PfuTask) => t.seq == q) (s.cluster (clusterOf core)).pfu).map fun t => (clusterOf core, t.2)

/-- Check and perform a store (R294): the state after it, or the REASON of R298. None: its line is held until a moved request is
performed (R62). -/
def State.performStore (s : State) (core : Nat) (e : StoreEntry) : Option (Except Nat State) :=
  if 0xF0 ≤ tagOf e.norm then
    let cl := clusterOf core
    let k := windowKey cl e.norm
    let s0 := (if e.order.releases then s.syncL1 cl e.scope else s).flushSync cl
    let s1 := ((s0.seen k e.size (s.taskOf core e.ctx)).putWindow k e.bytes).blur cl k e.size
    some (.ok (if e.order.releases then s1.touchLine core (.window k e.norm) (some e.scope) true else s1))
  else
    match s.translate core (lowOf e.norm) .write e.scope with
    | .error (.page c) => some (.error c)
    | .error .world => some (.error 8)
    | .error (.unbacked _) => some (.error 9)
    | .ok (t, s1) =>
      if s1.lineHeld core t.pa then none
      else
        match (s1.seen t.pa e.size (s.taskOf core e.ctx)).performFlat core t.pa e t.mt with
        | some s2 => some (.ok (s2.blur (clusterOf core) t.pa e.size))
        | none => some (.error 9)

/-- The 32-byte store-fault record (R298). -/
def storeRecord (e : StoreEntry) (reason : Nat) : List Byte :=
  natBytes e.va.toNat 8 ++ natBytes e.data.toNat 8 ++ natBytes e.pc.toNat 8 ++ natBytes e.size 1 ++ natBytes e.ctx 1
    ++ natBytes e.group.toNat 2 ++ natBytes reason 1 ++ natBytes (e.scope.code + 8 * e.order.code) 1 ++ natBytes e.pol 1
    ++ natBytes 1 1

def freeSlot (l : List (Option FaultSlot)) : Option Nat := (findIdx (fun o => o.isNone) l).map (·.1)

/-- The store unit freezes the younger stores of a context behind a slot (R297). -/
def freezeBehind (buf : List StoreEntry) (ctx slot : Nat) : List StoreEntry :=
  buf.map fun e => if e.ctx = ctx ∧ e.phase = .ready then { e with phase := .frozen slot } else e

/-- The scratchpad offset of a slot's record (R298). -/
def slotOffset (eebase : W32) (i : Nat) : Nat := (eebase.toNat + 256 + 32 * i) % 524288

/-- Bytes that a core writes into its own scratchpad as a CLUSTER-scope store, offsets modulo its size (R298): the units and the watches
see them (R306, R356). -/
def State.writeScratch (s : State) (core off : Nat) (bs : List Byte) : State :=
  ((s.seen (spKey core off) bs.length none).writeAt (spKey core off) bs).wakeWatches

/-- The pending trap of a store fault (R297, R359). -/
def storeTrap (e : StoreEntry) (reason slot : Nat) (argPtr : Word) : PendTrap :=
  { rank := slot, code := 11, reason := reason, idx := slot, addr := e.va, pcx := e.pc, arg := argPtr }

/-- A store fails its checks (R297): record, freeze, pending trap. `rest` is the buffer without the store. None: no slot
is free. For a sequencer the trap ends it at its next boundary (R349). -/
def State.storeFault (s : State) (core : Nat) (e : StoreEntry) (rest : List StoreEntry) (reason : Nat) : Option State :=
  let c := s.core core
  match freeSlot c.su.slots with
  | none => none
  | some i =>
    let off := slotOffset c.regs.eebase i
    let x := c.ctx e.ctx
    let p := storeTrap e reason i (mkPtr 0xF0 (indexOf core * 0x80000 + off))
    let c1 := { c with su := { c.su with buf := freezeBehind rest e.ctx i, slots := listSet c.su.slots i (some ⟨{ e with phase := .ready }, off, false⟩) } }
    let c2 := c1.setCtx e.ctx { x with pend := x.pend ++ [p] }
    some ((s.setCore core c2).writeScratch core off (storeRecord e reason))

/-- The store is not frozen behind a recorded fault (R294, R297). -/
def StorePhase.out : StorePhase → Bool
  | .ready | .blocked _ => true
  | .frozen _ => false

/-- An entry is the oldest of its context that may leave (R294). -/
def leavable (buf : List StoreEntry) (i : Nat) : Bool :=
  match buf[i]? with
  | none => false
  | some e => e.phase.out && !((buf.take i).any fun x => x.ctx == e.ctx && x.phase.out)

/-- A store that has failed its checks takes a slot, or stays frozen at the head of its context's order until one is free (R297). -/
def State.failStore (s : State) (core i : Nat) (e : StoreEntry) (reason : Nat) : State :=
  let c := s.core core
  match s.storeFault core e (listDrop c.su.buf i) reason with
  | some s1 => s1
  | none => s.setCore core { c with su := { c.su with buf := listSet c.su.buf i { e with phase := .blocked reason } } }

/-- Nothing of the context's bundles up to one is left that the store unit has still to perform. -/
def StoreUnit.past (u : StoreUnit) (ctx bundle : Nat) : Bool :=
  !(u.buf.any fun e => e.ctx == ctx && decide (e.bundle ≤ bundle))
    && !u.slots.any fun o => match o with
      | some f => f.entry.ctx == ctx && decide (f.entry.bundle ≤ bundle)
      | none => false

/-- A word enters an inbound FIFO (R160). -/
def State.enterFifo (s : State) (core f : Nat) (v : Word) : State :=
  let c := s.core core
  s.setCore core { c with regs := { c.regs with fifos := listSet c.regs.fifos f (((c.regs.fifos[f]?).getD []) ++ [v]) } }

def State.performReleased (s : State) (r : Released) : State :=
  match r with
  | .word _ n f w => s.enterFifo n f w
  | .slots k bs => (s.writeAt k bs).wakeWatches

/-- The releases of a context whose earlier stores are performed now come about, in order (R160, R167); `all` performs the write-backs that
still wait and drops the words (R365). -/
def State.releaseBehind (s : State) (core ctx : Nat) (all : Bool) : State :=
  let u := (s.core core).su
  if u.behind.isEmpty then s
  else
    let due := fun (q : Behind) => q.ctx == ctx && (all || u.past ctx q.bundle)
    let c := s.core core
    let s1 := s.setCore core { c with su := { u with behind := u.behind.filter fun q => !due q } }
    (u.behind.filter due).foldl (fun s q =>
      match q.what with
      | .word _ _ _ _ => if u.past ctx q.bundle then s.performReleased q.what else s
      | .slots _ _ => s.performReleased q.what) s1

/-- Entry `i` leaves the store buffer (R294, R297): performed, or faulting into its record. None: it may not leave. -/
def State.storeLeaves (s : State) (core i : Nat) : Option State :=
  let c := s.core core
  if !leavable c.su.buf i then none
  else
    match c.su.buf[i]? with
    | none => none
    | some e =>
      match e.phase with
      | .blocked r => s.storeFault core e (listDrop c.su.buf i) r
      | _ =>
        match s.performStore core e with
        | some (.ok s1) =>
          let c1 := s1.core core
          some (((s1.setCore core { c1 with su := { c1.su with buf := listDrop c1.su.buf i } }).wakeWatches).releaseBehind core e.ctx false)
        | some (.error r) => some (s.failStore core i e r)
        | none => none

/-- Perform every ready store of a context, oldest first (fuel: the buffer's length). A store that fails, or has failed and waits for a
slot, is dropped with what follows it in its context (R365); one whose line is held stays with what follows it. -/
def State.drainCtx (s : State) (core ctx : Nat) : Nat → State
  | 0 => s
  | fuel + 1 =>
    match findIdx (fun (e : StoreEntry) => e.ctx == ctx && e.phase.out) (s.core core).su.buf with
    | none => s
    | some (i, e) =>
      match if e.phase = .ready then s.performStore core e else some (.error 0) with
      | some (.ok s1) =>
        let c1 := s1.core core
        State.drainCtx ((s1.setCore core { c1 with su := { c1.su with buf := listDrop c1.su.buf i } }).wakeWatches.releaseBehind core ctx false)
          core ctx fuel
      | some (.error _) =>
        let c := s.core core
        s.setCore core { c with su := { c.su with buf := c.su.buf.filter fun x => x.ctx != ctx } }
      | none => s

/-- The store of a pending store-fault trap was issued by the context's handler, which never takes the trap itself (R297, R299). -/
def StoreUnit.ofHandler (u : StoreUnit) (p : PendTrap) : Bool :=
  match u.slots[p.idx]? with
  | some (some f) => f.entry.ih
  | _ => false

/-- A store fault of the context has its record and still waits for its trap; a handler does not meet those of its own stores
(R297, R299). -/
def Core.storeTrapPending (c : Core) (ctx : Nat) : Bool :=
  let x := c.ctx ctx
  x.pend.any fun p => p.code == 11 && !(x.ih && c.su.ofHandler p)

/-- The stores of a context in the buffer, oldest first, each with whether it is set aside (R297): frozen behind a fault whose trap has been
delivered, and, while a handler runs, a store of the handler's own that has failed and what follows it. -/
def StoreUnit.marked (u : StoreUnit) (ctx : Nat) (ih : Bool) : Bool → List StoreEntry → List (StoreEntry × Bool)
  | _, [] => []
  | behind, e :: t =>
    if e.ctx ≠ ctx then StoreUnit.marked u ctx ih behind t
    else
      let stuck := behind || (ih && e.ih && (match e.phase with | .blocked _ => true | _ => false))
      let aside := stuck || (match e.phase with
        | .frozen i => (match u.slots[i]? with | some (some f) => f.delivered || (ih && f.entry.ih) | _ => false)
        | _ => false)
      (e, aside) :: StoreUnit.marked u ctx ih stuck t

/-- The stores of the context that its waits count and that are still in the buffer (R297, R299, R301). -/
def Core.countedStores (c : Core) (ctx : Nat) : List StoreEntry :=
  ((c.su.marked ctx (c.ctx ctx).ih false c.su.buf).filter fun q => !q.2 && q.1.phase.out).map (·.1)

/-- A store that the context's waits count is still in the buffer. -/
def Core.storesOut (c : Core) (ctx : Nat) : Bool := !(c.countedStores ctx).isEmpty

/-- The context may go past a wait for its earlier stores: none is left, and no store fault waits (R299). -/
def State.storesDone (s : State) (core ctx : Nat) : Bool :=
  !(s.core core).storesOut ctx && !(s.core core).storeTrapPending ctx

/-- Bundles between the context's oldest unperformed store and the next bundle (R299's skid bound of 32). -/
def State.skidOk (s : State) (core ctx : Nat) : Bool :=
  match (s.core core).countedStores ctx with
  | [] => true
  | e :: _ => decide ((s.ctx core ctx).bundles < e.bundle + 32)

end Sys2Proof.Machine
end

