-- ==== Sys2Proof/Machine/Workspace.lean ====
section
/-! DEFINITION. Workspaces: loading a register set from its image and writing it back (R152–R156). -/

namespace Sys2Proof.Machine

/-- A workspace word within the limits of R152; one with a reserved bit set is outside them (log 51). -/
def workspaceOk (w : Word) : Bool :=
  let ps := (w.extractLsb' 32 8).toNat
  let wp := (w.extractLsb' 0 19).toNat
  w.extractLsb' 40 24 == 0 && w.extractLsb' 19 13 == 0 && decide (1 ≤ ps) && decide (ps ≤ 128) && wp % 512 == 0
    && decide (wp + 512 + 512 * ps ≤ 524288)

/-- CSR WP: the workspace word of a context (R152, R162). -/
def Ctx.workspaceWord (x : Ctx) : Word := BitVec.ofNat 64 (x.psize.toNat * 2 ^ 32 + x.wp.toNat)

def slotKey (core wp n : Nat) : Nat := spKey core (wp + 8 * n)

def State.slotWord (s : State) (core wp n : Nat) : Word := BitVec.ofNat 64 (s.natAt (slotKey core wp n) 8)

/-- Slot 65 (R154): g7 as 1, g6–g0, the poison bits. -/
def Ctx.slot65 (x : Ctx) : Word := (1#1 ++ x.regs.g ++ x.regs.psn : BitVec 64)

/-- Registers w0–w55 of a workspace image (R153). -/
def State.loadRegs (s : State) (core wp : Nat) : Vector Word 56 := Vector.ofFn fun i : Fin 56 => s.slotWord core wp i.val

/-- Poison bits of a workspace image: slot 65, and words with an uncorrectable error (R156). -/
def State.loadPoison (s : State) (core wp : Nat) : BitVec 56 :=
  let p := (s.slotWord core wp 65).extractLsb' 0 56
  if s.poison.isEmpty then p
  else BitVec.ofFnLE fun i : Fin 56 => p.getLsbD i.val || s.poisonedAt (slotKey core wp i.val) 8

/-- The fields of the cause word (R360); bits 63:30 read as zero (R11). -/
def causeMask : Word := 0x3FFFFFFF

/-- Load the register set of a workspace into a context (R156): every register full, g7 forced to 1. -/
def State.loadSet (s : State) (core wp psize : Nat) (x : Ctx) : Ctx :=
  { x with
    wp := BitVec.ofNat 19 wp
    psize := BitVec.ofNat 8 psize
    regs := ⟨s.loadRegs core wp, BitVec.allOnes 56, s.loadPoison core wp, (s.slotWord core wp 65).extractLsb' 56 7, 0⟩
    fpcr := s.slotWord core wp 66 &&& fpcrMask
    cpr := s.slotWord core wp 67 &&& 7
    cause := s.slotWord core wp 68 &&& causeMask
    taddr := s.slotWord core wp 69
    pcx := s.slotWord core wp 70
    targ := s.slotWord core wp 71 }
where
  fpcrMask : Word := 0x1F07

/-- Bytes of slots 0–55. -/
def Ctx.regBytes (x : Ctx) : List Byte := x.regs.w.toList.flatMap fun w => natBytes w.toNat 8

/-- Write slots 64–71 back, with `pc` as the saved program counter (R156). -/
def State.writeBackTop (s : State) (core : Nat) (x : Ctx) (pc : Word) : State :=
  s.writeAt (slotKey core x.wp.toNat 64)
    (natBytes pc.toNat 8 ++ natBytes x.slot65.toNat 8 ++ natBytes x.fpcr.toNat 8 ++ natBytes x.cpr.toNat 8
      ++ natBytes (x.cause &&& causeMask).toNat 8 ++ natBytes x.taddr.toNat 8 ++ natBytes x.pcx.toNat 8 ++ natBytes x.targ.toNat 8)

/-- Write slots 65–67 back: while IH = 1, slots 64 and 68–71 are memory and not held (R361). -/
def State.writeBackMid (s : State) (core : Nat) (x : Ctx) : State :=
  s.writeAt (slotKey core x.wp.toNat 65) (natBytes x.slot65.toNat 8 ++ natBytes x.fpcr.toNat 8 ++ natBytes x.cpr.toNat 8)

/-- Write the whole set back (R156). -/
def State.writeBack (s : State) (core : Nat) (x : Ctx) (pc : Word) : State :=
  let s1 := s.writeAt (slotKey core x.wp.toNat 0) x.regBytes
  if x.ih then s1.writeBackMid core x else s1.writeBackTop core x pc

/-- Live helpers and the lowest free one (R341, R347). -/
def Core.freeHelper (c : Core) : Option Nat := (List.range 10).map (· + 1) |>.find? fun h => !(c.ctx h).live

end Sys2Proof.Machine
end

