-- ==== Sys2Proof/Machine/Engine.lean ====
section
/-! DEFINITION. What ends early: event entries (R373), pending traps (R359), engine commands that fail, are resumed or are
dropped (R144–R147, R217, R235, R245), the relay's abandonment (R286), contexts that end (R357) and task groups that are
terminated (R365). -/

namespace Sys2Proof.Machine

/-! ## Contexts of a core -/

/-- Apply a function to every context of a core. -/
def Core.mapCtxs (c : Core) (f : Nat → Ctx → Ctx) : Core := { c with ctxs := c.ctxs.map fun p => (p.1, f p.1 p.2) }

/-- Apply a function to every context of the package. -/
def State.mapCtxs (s : State) (f : Nat → Nat → Ctx → Ctx) : State :=
  { s with cores := s.cores.map fun p => (p.1, p.2.mapCtxs (f p.1)) }

/-- Grant the wait of a context that satisfies a test; an event of the table then ends the wait. -/
def Ctx.grantIf (x : Ctx) (test : Wait → Bool) (g : Grant) : Ctx :=
  match x.wait with
  | some w => if test w then { x with grant := some g } else x
  | none => x

/-! ## Event entries -/

/-- Contexts that wait on a queue are granted: an entry has been pushed, or the queue is gone (R102). -/
def State.grantQueue (s : State) (pa : Nat) : State :=
  s.mapCtxs fun _ _ x => x.grantIf (fun w => w == .queue pa) .done

/-- Push a value into the queue whose line stands at `pa` (R101): the state after, or none when absent or full. -/
def State.push (s : State) (pa : Nat) (v : Word) : Option State :=
  match findIdx (fun (q : SliceQueue) => q.pa == pa) s.pack.queues with
  | none => none
  | some (i, q) =>
    if (q.tail + 8192 - q.head) % 8192 = q.cap then none
    else
      let s1 := s.slicePut (pa + 192 + 8 * (q.tail % q.cap)) (natBytes v.toNat 8) .write .normal
      let q1 := { q with tail := (q.tail + 1) % 8192 }
      some (State.grantQueue { s1 with pack := { s1.pack with queues := listSet s1.pack.queues i q1 } } pa)

/-- The steward posts an event entry to a partition (R373): dropped and counted when the queue is full or absent; MSI-X
vector 1 follows a push (R375). -/
def State.pushEvent (s : State) (p : Nat) (entry : Nat) : State :=
  let x := s.part p
  let dropped := if x.live then s.setPart p { x with droppedEvents := x.droppedEvents + 1 } else s
  match x.eventq with
  | none => dropped
  | some pa =>
    match s.push pa (BitVec.ofNat 64 entry) with
    | none => dropped
    | some s1 => s1.emit (.msix p 1)

/-- An event entry is posted, or waits while the steward cores are in reset (R373, R381). -/
def State.postEvent (s : State) (p type a b : Nat) : State :=
  let e := type + a * 2 ^ 8 + b * 2 ^ 32
  if s.pack.steward.up then s.pushEvent p e
  else { s with pack := { s.pack with steward := { s.pack.steward with journal := s.pack.steward.journal ++ [.event p e] } } }

/-- A core as events name it: cluster in [5:0], core in [12:8] (R373). -/
def coreName (core : Nat) : Nat := clusterOf core + indexOf core * 2 ^ 8

/-- A message whose capability is not the target's key is diverted (R319): the containment record, the event to the owner of
the target, and ev.contain. -/
def State.contain (s : State) (core : Nat) (cap : BitVec 16) : State :=
  let s1 := s.count core .contain 1
  let st := s1.pack.steward
  let s2 := { s1 with pack := { s1.pack with steward := { st with containment := st.containment ++ [(core, s.partOf core, cap)] } } }
  match (s.cluster (clusterOf core)).owner with
  | some p => s2.postEvent p 6 (coreName core) cap.toNat
  | none => s2

/-- The pod address-space number of the issuing core's address space (R79, R80). -/
def State.pasOf (s : State) (core : Nat) : Option Nat :=
  let a := (s.core core).regs.ascr
  let p := s.partOf core
  (findIdx (fun (q : Nat × PodSpace) => q.2.part == p && q.2.asid == ascrAsid a && (ascrRoot q.2.root == ascrRoot a)) s.pack.podSpaces).map
    fun q => q.2.1

def State.capOf (s : State) (core : Nat) : BitVec 16 := (s.part (s.partOf core)).pkey

/-- A launch's count of tasks that are away changes. -/
def State.addAway (s : State) (l : Option Nat) (f : Nat → Nat) : State :=
  match l with
  | none => s
  | some id =>
    match tabGet s.pack.launches id with
    | none => s
    | some x => { s with pack := { s.pack with launches := tabSet s.pack.launches id { x with away := f x.away } } }

/-- A message to a core carries its partition's key (R319). -/
def State.capOk (s : State) (core : Nat) (cap : BitVec 16) : Bool :=
  match (s.cluster (clusterOf core)).owner with
  | some p => (s.part p).pkey == cap
  | none => false

/-- A message that enters at router `src` reaches a core: its destination is live and the capability is its owner's key (R309, R319).
One that does not is a containment fault. -/
def State.accepts (s : State) (src core : Nat) (cap : BitVec 16) : Bool := s.routeLive src (clusterOf core) && s.capOk core cap

/-- The router by which messages of other packages enter, a hub-linked one (R308): every table gives a destination the same LIVE. -/
def hubRouter : Nat := 0

/-- Event TYPE 7: an unhandled trap or a double fault (R373). -/
def State.postUnhandled (s : State) (core ctx : Nat) (group : BitVec 16) (code : Nat) : State :=
  s.postEvent (s.partOf core) 7 (coreName core + ctx * 2 ^ 16) (group.toNat + code * 2 ^ 16)

/-! ## Engine queues -/

/-- The engines in the coding of R144. -/
inductive Eng where
  | matrix | vector | transfer | copro
deriving DecidableEq, Repr

def Eng.code : Eng → Nat
  | .matrix => 0 | .vector => 1 | .transfer => 2 | .copro => 3

def Core.queue (c : Core) : Eng → List Cmd
  | .matrix => c.eng.mq | .vector => c.eng.vq | .transfer => c.eng.xq | .copro => c.eng.cq

def Core.setQueue (c : Core) (e : Eng) (q : List Cmd) : Core :=
  match e with
  | .matrix => { c with eng := { c.eng with mq := q } }
  | .vector => { c with eng := { c.eng with vq := q } }
  | .transfer => { c with eng := { c.eng with xq := q } }
  | .copro => { c with eng := { c.eng with cq := q } }

def Core.halted (c : Core) : Eng → Bool
  | .matrix => c.eng.mhalt | .vector => c.eng.vhalt | .transfer => c.eng.xhalt | .copro => c.eng.cphalt

def Core.setHalt (c : Core) (e : Eng) (b : Bool) : Core :=
  match e with
  | .matrix => { c with eng := { c.eng with mhalt := b } }
  | .vector => { c with eng := { c.eng with vhalt := b } }
  | .transfer => { c with eng := { c.eng with xhalt := b } }
  | .copro => { c with eng := { c.eng with cphalt := b } }

/-- The SCOPE of a command's record, by the record's layout (R129, R136, R149, R208, R236, R257, R269, R316); MZERO has
none and completes at CLUSTER (R239). -/
def Cmd.scope (c : Cmd) : Scope :=
  let o : Option Nat :=
    if c.op = 0x33 then some 2
    else if 0x28 ≤ c.op ∧ c.op ≤ 0x2C then some 41
    else if 0x2D ≤ c.op ∧ c.op ≤ 0x2F then some 33
    else if c.op = 0x44 then none
    else if 0x42 ≤ c.op ∧ c.op ≤ 0x47 then some 49
    else if 0x50 ≤ c.op ∧ c.op ≤ 0x5F then some 50
    else if c.op = 0x60 then some 19
    else if c.op = 0x66 then some 72
    else some 21
  match o with
  | some k => Scope.ofCode (field c.record k 1)
  | none => .cluster

/-- The policy of a command's accesses (R85, R129, R136, R149, R208, R236, R257, R269, R316): POL of its record, where 8 names the CPR
that its context held at issue. -/
def Cmd.policy (c : Cmd) : Nat :=
  let o :=
    if c.op = 0x33 then 1
    else if 0x28 ≤ c.op ∧ c.op ≤ 0x2C then 40
    else if 0x2D ≤ c.op ∧ c.op ≤ 0x2F then 34
    else if 0x42 ≤ c.op ∧ c.op ≤ 0x47 then 48
    else if 0x50 ≤ c.op ∧ c.op ≤ 0x5F then 49
    else if c.op = 0x60 then 18
    else if c.op = 0x66 then 71
    else 22
  let v := field c.record o 1
  if c.op = 0x44 ∨ v = 8 then c.pol else v

/-- The handle through which a matrix command names its band (R235): BAND of the record, or MZERO's a register. -/
def Cmd.handle (c : Cmd) : BitVec 16 :=
  if c.op = 0x44 then c.arg.extractLsb' 0 16 else BitVec.ofNat 16 (field c.record 24 2)

/-- The serial number and first row of a band handle (R235). -/
def handleSerial (h : BitVec 16) : Nat := (h.extractLsb' 9 7).toNat

def handleFirst (h : BitVec 16) : Nat := (h.extractLsb' 0 9).toNat

def Band.named (b : Band) (h : BitVec 16) : Bool := b.first == handleFirst h && b.serial == handleSerial h

/-- Apply a function to the band that a handle names. -/
def Core.onBand (c : Core) (h : BitVec 16) (f : Band → Band) : Core :=
  { c with mat := { c.mat with bands := c.mat.bands.map fun b => if b.named h then f b else b } }

/-- A context has seen the last command of bands that satisfy a test complete (R253). -/
def Core.sawBands (c : Core) (k : Nat) (p : Band → Bool) : Core :=
  if c.mat.bands.any p then
    { c with mat := { c.mat with bands := c.mat.bands.map fun b => if p b then { b with seen := k :: b.seen } else b } }
  else c

/-- A command leaves its band's pending count (R235). -/
def Core.leaveBand (c : Core) (cmd : Cmd) : Core :=
  if cmd.counted then c.onBand cmd.handle fun b => { b with pending := b.pending - 1 } else c

/-- A register of a context becomes full with a value, or poisoned (R158, R159). -/
def Regs.fill (r : Regs) (n : Nat) (v : Option Word) : Regs :=
  if h : n < 56 then
    match v with
    | some x => { r with w := r.w.set n x h, full := r.full ||| (1#56 <<< n), psn := r.psn &&& ~~~(1#56 <<< n) }
    | none => { r with full := r.full ||| (1#56 <<< n), psn := r.psn ||| (1#56 <<< n) }
  else r

/-- The register of a GETX in register form that ends without a result is poisoned (R159). -/
def Core.poisonReg (c : Core) (cmd : Cmd) : Core :=
  match cmd.reg with
  | some n => if cmd.exited then c else c.setCtx cmd.ctx { c.ctx cmd.ctx with regs := (c.ctx cmd.ctx).regs.fill n none }
  | none => c

/-- A ticket's state at the coprocessor (R151). -/
def Core.setTicket (c : Core) (seq st : Nat) : Core :=
  { c with eng := { c.eng with tickets := c.eng.tickets.map fun t => if t.seq = seq then { t with state := st } else t } }

/-- A command is dropped or discarded (R146, R365): its counter increments with the error flag, its register is poisoned,
its band's count falls, and its ticket reads 5. A command already counted when it failed (a halted command whose reason
cannot be restarted) changes nothing more. -/
def Core.discardCmd (c : Core) (e : Eng) (cmd : Cmd) : Core :=
  if cmd.status = .halted ∧ cmd.reason ≠ 3 then c
  else
    let c1 := match cmd.counter with
      | some n => c.setCc n ((c.cc n).bump true cmd.scope)
      | none => c
    let c2 := (c1.poisonReg cmd).leaveBand cmd
    if e = .copro then c2.setTicket cmd.seq 5 else c2

/-- Discard every command of a queue that satisfies a test. -/
def Core.discardIf (c : Core) (e : Eng) (p : Cmd → Bool) : Core :=
  let out := (c.queue e).filter p
  let c1 := c.setQueue e ((c.queue e).filter fun x => !p x)
  out.foldl (fun c x => c.discardCmd e x) c1

/-- DISC of R146: the halted command, and every queued and parked command, are dropped; the queue leaves its halt. -/
def Core.disc (c : Core) (e : Eng) : Core := (c.discardIf e fun x => x.status != .running).setHalt e false

/-- In a stream's `sent`: its words are delivered, and only RESULT is left (R258). -/
def streamSent : Nat := 2

/-- In FOENC's `sent`: its words have left for another package. -/
def streamAway : Nat := 4

/-- A command as it stands before its beginning (R146): nothing asked, answered or produced. A leg keeps its data (R279), a transform the
source it was issued with (R150), a collective the contributions that others have made (R317), a vector command the words that a
port has given it (R210). What has gone out to a port or a stream does not go out twice: only the rest is left (R258). -/
def Cmd.fresh (x : Cmd) : Cmd :=
  let y := { x with status := .queued, reason := 0 }
  if x.leg.isSome ∨ x.op = 0x33 ∨ 0x6B ≤ x.op ∨ x.sent.contains streamSent then y
  else if 0x50 ≤ x.op ∧ x.op ≤ 0x5F then (if x.got = [] then { y with payload := [] } else { y with status := .running })
  else { y with got := [], sent := [], stores := [], payload := [] }

/-- RES of R146: a PAGE command restarts from its beginning; a command that failed otherwise is passed over. -/
def Core.res (c : Core) (e : Eng) : Core :=
  if !c.halted e then c
  else
    let q := (c.queue e).filter fun x => x.status != .halted || x.reason == 3
    (c.setQueue e (q.map fun x => if x.status = .halted then x.fresh else x)).setHalt e false

/-! ## Pending traps -/

/-- An asynchronous trap is posted to a context, to the control context if it has ended, or, if that has ended too, to
the event queue; then a halted queue of code 12 leaves its halt as DISC would (R146, R357). -/
def State.sendTrap (s : State) (core ctx : Nat) (group : BitVec 16) (p : PendTrap) : State :=
  let c := s.core core
  let k := if (c.ctx ctx).live then ctx else 0
  if (c.ctx k).live then s.setCtx core k { c.ctx k with pend := (c.ctx k).pend ++ [p] }
  else
    let s1 := s.postUnhandled core ctx group p.code
    if p.code = 12 then
      let e : Eng := match p.idx with | 0 => .matrix | 1 => .vector | 2 => .transfer | _ => .copro
      s1.setCore core ((s1.core core).disc e)
    else s1

/-- Where an engine's error record stands in its core's scratchpad (R144). -/
def errorOffset (eebase : W32) (e : Eng) : Nat := (eebase.toNat + 64 * e.code) % 524288

/-- The error record (R144). -/
def errorRecord (e : Eng) (cmd : Cmd) (reason : Nat) (again : Bool) (addr : Word) (progress detail : Nat) : List Byte :=
  natBytes e.code 1 ++ natBytes reason 1 ++ natBytes (1 + if again then 2 else 0) 2 ++ natBytes cmd.seq 4
    ++ natBytes cmd.pc.toNat 8 ++ natBytes cmd.ctx 1 ++ natBytes cmd.op 1 ++ natBytes (cmd.counter.getD 0) 1 ++ natBytes 0 1
    ++ natBytes cmd.group.toNat 2 ++ natBytes 0 2 ++ natBytes addr.toNat 8 ++ natBytes progress 4 ++ natBytes detail 4
    ++ natBytes cmd.addr.toNat 8 ++ natBytes 0 16

/-- What an engine reports about a failure (R145): reason, ADDR, PROGRESS, DETAIL. -/
structure EngErr where
  reason : Nat
  addr : Word
  progress : Nat
  detail : Nat
deriving DecidableEq, Repr

/-- Replace the command with a sequence number in a queue. -/
def replaceCmd (q : List Cmd) (c : Cmd) : List Cmd := q.map fun x => if x.seq = c.seq then c else x

/-- The record is written and the engine-error trap is posted (R144, R146). -/
def State.reportError (s : State) (core : Nat) (e : Eng) (cmd : Cmd) (x : EngErr) (again : Bool) : State :=
  let off := errorOffset (s.core core).regs.eebase e
  let s2 := s.writeScratch core off (errorRecord e cmd x.reason again x.addr x.progress x.detail)
  let p : PendTrap :=
    { rank := 16 + e.code, code := 12, reason := x.reason, idx := e.code, addr := x.addr, pcx := cmd.pc,
      arg := mkPtr 0xF0 (indexOf core * 0x80000 + off) }
  s2.sendTrap core (if cmd.exited then 0 else cmd.ctx) cmd.group p

/-! ## Legs at their targets (R279, R285) -/

/-- Change the entry of a leg command. -/
def Relay.mark (r : Relay) (no core : Nat) (f : LegTarget → LegTarget) : Relay :=
  { r with targets := r.targets.map fun t => if t.no = no ∧ t.core = core then f t else t }

/-- The relay still waits for this leg command. -/
def Relay.awaits (r : Relay) (no core : Nat) : Bool := r.targets.any fun t => t.no == no && t.core == core

/-- The target of the lowest number that met an error. -/
def firstError (l : List LegTarget) : Option LegTarget :=
  (l.filter fun t => t.error.isSome).foldl (fun a t =>
    match a with
    | some b => if t.core < b.core then some t else some b
    | none => some t) none

/-- The record of a TARGET fault at the owner's EEBASE + 0 (R285). -/
def targetRecord (x : Ctx) (k : Nat) (pc : Word) (t : LegTarget) (e : Nat × Word × Nat × Nat) : List Byte :=
  natBytes 0 1 ++ natBytes e.1 1 ++ natBytes (1 + if e.1 = 3 then 2 else 0) 2 ++ natBytes t.seq.toNat 4 ++ natBytes pc.toNat 8
    ++ natBytes k 1 ++ natBytes 0x68 1 ++ natBytes 0 2 ++ natBytes x.group.toNat 2 ++ natBytes 0 2 ++ natBytes e.2.1.toNat 8
    ++ natBytes e.2.2.1 4 ++ natBytes e.2.2.2 4 ++ natBytes t.leg.toNat 8 ++ natBytes 0 16

/-- A leg fault (R285): the relay is FAULTED, and its owner has the trap pending. -/
def State.legFault (s : State) (core reason : Nat) (leg : Word) : State :=
  let c := s.core core
  let r := c.relay
  let s1 := s.setCore core { c with relay := { r with state := 4, reason := reason, resumed := false, faulted := none, held := if r.accepted.isEmpty then none else r.held } }
  s1.sendTrap core r.owner (c.ctx r.owner).group ⟨32, 13, reason, 0, leg, r.pc, 0⟩

/-- The restarted commands of the leg of a TARGET fault have completed: the continuation was successful (R284). -/
def Relay.recovered (r : Relay) (no : Nat) : Relay :=
  if r.resumed && r.reason == 20 && r.faulted == some no then { r with reason := 0, resumed := false, faulted := none } else r

/-- A leg whose command every target has accepted, and has completed or halted, is settled (R285): without an error it is
forgotten; with one, the relay delivers a single leg fault. While another leg's fault is being handled it is not settled: its own follows
the continuation. -/
def State.settleLeg (s : State) (core no : Nat) : State :=
  let c := s.core core
  let r := c.relay
  let l := r.targets.filter fun t => t.no == no
  if (r.no = no ∧ r.accepted ≠ []) ∨ l.any (fun t => !t.finished && t.error.isNone) then s
  else
    match firstError l with
    | none => s.setCore core { c with relay := Relay.recovered { r with targets := r.targets.filter fun t => t.no != no } no }
    | some t =>
      if r.state = 4 then s
      else
        let s1 := match t.error with
          | some e => s.writeScratch core (errorOffset c.regs.eebase .matrix) (targetRecord (c.ctx r.owner) r.owner r.pc t e)
          | none => s
        let s2 := s1.legFault core 20 t.leg
        let c2 := s2.core core
        s2.setCore core { c2 with relay := { c2.relay with faulted := some no } }

/-- Command `cmd` of an engine meets an error (R146): the record is written, the queue halts, the counter and the band's
count change for a reason that cannot be restarted, and the engine-error trap is posted. A leg's command reports to its
relay instead (R285), and is discarded where the relay has been abandoned (R286). -/
def State.engineError (s : State) (core : Nat) (e : Eng) (cmd : Cmd) (x : EngErr) : State :=
  let c := s.core core
  let halted := { cmd with status := .halted, reason := x.reason }
  let c1 := (c.setQueue e (replaceCmd (c.queue e) halted)).setHalt e true
  let c2 := if x.reason = 3 then c1
    else
      let c' := match cmd.counter with
        | some n => c1.setCc n ((c1.cc n).bump true cmd.scope)
        | none => c1
      (c'.poisonReg cmd).leaveBand cmd
  let c3 := if e = .copro ∧ x.reason ≠ 3 then c2.setTicket cmd.seq 4 else c2
  let s1 := s.setCore core c3
  match cmd.leg with
  | some o =>
    let r := (s1.core o).relay
    if r.awaits cmd.instNo core then
      (s1.setCore o { s1.core o with relay := r.mark cmd.instNo core fun t => { t with error := some (x.reason, x.addr, x.progress, x.detail) } }).settleLeg
        o cmd.instNo
    else s1.setCore core ((c3.discardIf e fun y => y.seq == cmd.seq).setHalt e false)
  | none => s1.reportError core e cmd x (x.reason == 3)

/-! ## Abandoning, ending, terminating -/

/-- The relay of a core is abandoned (R286): halted leg commands are discarded, the rest run on, the state is IDLE; RSTAT still reports the
last leg and fault (R284). -/
def State.abandonRelay (s : State) (core : Nat) : State :=
  let ts := (s.core core).relay.targets
  let s1 := ts.foldl (fun s t =>
    let c := s.core t.core
    let mine := fun (x : Cmd) => x.leg == some core
    let c1 := c.discardIf .matrix fun x => mine x && x.status == .halted
    let c2 := if (c.queue .matrix).any fun x => mine x && x.status == .halted then c1.setHalt .matrix false else c1
    s.setCore t.core c2) s
  let c := s1.core core
  let r := c.relay
  s1.setCore core { c with relay := { Relay.reset with no := r.no, cur := r.cur, curSeq := r.curSeq, reason := r.reason, count := r.count } }

/-- The context owns the core's relay (R274). -/
def Core.ownsRelay (c : Core) (k : Nat) : Bool :=
  c.relay.state != 0 && c.relay.owner == k && c.relay.ownerWp == (c.ctx k).wp

/-- A relay whose owner takes a trap or is pre-empted between legs is suspended (R286). -/
def Core.suspendRelay (c : Core) (k : Nat) : Core :=
  if c.ownsRelay k && c.relay.state == 1 then { c with relay := { c.relay with state := 3 } } else c

/-- A context no longer stands in FOSTEP or FORUN: what it had begun is suspended (R266). -/
def Judge.leave (j : Judge) (k : Nat) : Judge :=
  { j with active := if j.active = some k then none else j.active, ousted := j.ousted.filter fun o => o.1 != k }

/-- Everything on the core that names the context as its issuer forgets it (R146, R348). -/
def Core.forgetCtx (c : Core) (k : Nat) : Core :=
  let mark := fun (q : List Cmd) => q.map fun x => if x.ctx = k then { x with exited := true } else x
  { c with
    eng := { c.eng with xq := mark c.eng.xq, vq := mark c.eng.vq, mq := mark c.eng.mq, cq := mark c.eng.cq },
    mat := { c.mat with
      drains := c.mat.drains.map (fun d =>
        if d.cmd.ctx = k then { d with cmd := { d.cmd with exited := true } } else d),
      bands := c.mat.bands.map fun b => { b with seen := b.seen.filter fun j => j != k } },
    seqs := c.seqs.map (fun q => if q.forker = k then { q with forker := 0 } else q),
    judge := c.judge.leave k,
    owed := c.owed.filter fun o => o.ctx != k }

/-- A context ends (R357): its set is written back with `pc` in slot 64 (but not after a sequencer's trap, R156), its watch
is dropped, its relay abandoned, its pending traps pass to the control context. -/
def State.endCtx (s : State) (core k : Nat) (pc : Word) (wb : Bool) : State :=
  let x := s.ctx core k
  let s1 := if (s.core core).ownsRelay k then s.abandonRelay core else s
  let s2 := if wb then s1.writeBack core x pc else s1
  let c := (s2.core core).forgetCtx k
  let dead := { Ctx.reset with wp := x.wp, psize := x.psize, group := x.group }
  let s3 := s2.setCore core (c.setCtx k dead)
  x.pend.foldl (fun s p => if p.code = 11 ∨ p.code = 13 then s else s.sendTrap core k x.group p) s3

/-- Tasks of a unit with their children, theirs in turn (fuel: the number of tasks). -/
def familyOf (l : List PfuTask) : Nat → List Nat → List Nat
  | 0, gone => gone
  | fuel + 1, gone =>
    let kids := (l.filter fun t => (match t.parent with | some p => gone.contains p | none => false) && !gone.contains t.seq).map (·.seq)
    if kids.isEmpty then gone else familyOf l fuel (gone ++ kids)

/-- The helper of a task that is aborted stops (R356, R365): its stores through 0xF1 stay, and it is free. -/
def State.stopHelper (s : State) (t : PfuTask) : State :=
  if (t.state = .running ∨ t.state = .irrevocable) ∧ (s.ctx t.core t.ctx).pfu = some t.seq then
    let s1 := (s.drainCtx t.core t.ctx (s.core t.core).su.buf.length).releaseBehind t.core t.ctx true
    let x := s1.ctx t.core t.ctx
    let c := (s1.core t.core).forgetCtx t.ctx
    s1.setCore t.core (c.setCtx t.ctx { Ctx.reset with wp := x.wp, psize := x.psize, group := x.group })
  else s

/-- Tasks of the unit of a cluster are aborted and discarded with their children (R356, R365): their helpers stop wherever they run, and
each that had begun counts in ev.abort of its core. -/
def State.dropPfu (s : State) (cl : Nat) (gone : List Nat) : State :=
  let l := (s.cluster cl).pfu
  let all := familyOf l l.length gone
  let dead := l.filter fun t => all.contains t.seq
  let s1 := dead.foldl (fun s t => s.stopHelper t) s
  let s2 := (dead.filter fun t => t.state != .pending).foldl (fun s t => s.count t.core .abort 1) s1
  let c := s2.cluster cl
  s2.setCluster cl { c with pfu := c.pfu.filter fun t => !all.contains t.seq }

/-- Hurdle arrivals of a context are withdrawn from open episodes (R321); an episode that no arrival is left in ends. -/
def State.withdraw (s : State) (core k : Nat) : State :=
  let es := s.pack.episodes.map fun e =>
    if e.complete then e else { e with arrived := e.arrived.filter fun a => a != (core, k) }
  { s with pack := { s.pack with episodes := es.filter fun e => e.complete || !e.arrived.isEmpty || e.remote != 0 } }

/-- A buffer that a terminated handler holds: it is freed, its row is lost, and the drain's command has failed (R249). -/
def RowBuf.lostTo (held : Word → Bool) (b : Option RowBuf) : Bool :=
  match b with
  | some r => held r.token && !r.released
  | none => false

def Drain.freeBuffers (d : Drain) (held : Word → Bool) : Drain :=
  let gone := (d.bufs.filter (RowBuf.lostTo held)).filterMap fun b => b.map (·.row)
  { d with
    bufs := d.bufs.map (fun b => if RowBuf.lostTo held b then none else b),
    lost := d.lost ++ gone,
    failed := d.failed || !gone.isEmpty }

/-- The stores of the ending context (R365): frozen stores and fault slots are discarded; the rest are performed, and what was released
behind them, but no word that a discarded store came before (R160). -/
def State.finishStores (s : State) (core k : Nat) : State :=
  let c := s.core core
  let su : StoreUnit :=
    { c.su with
      buf := c.su.buf.filter (fun e => e.ctx != k || e.phase.out),
      slots := c.su.slots.map (fun o => match o with
        | some f => if f.entry.ctx = k then none else o
        | none => none) }
  ((s.setCore core { c with su := su }).drainCtx core k su.buf.length).releaseBehind core k true

/-- The end of a task that migrated here goes to the package it came from, a release at POD (R370). -/
def State.noticeEnd (s : State) (core : Nat) (x : Ctx) : State :=
  match x.origin with
  | some o => (s.syncL1 (clusterOf core) .pod).emit (.notice o.pkg o.tag (.ended o.launch))
  | none => s

/-- One live context is terminated (R365), and counts as exited where it came from (R370). -/
def State.terminateCtx (s : State) (core k : Nat) : State :=
  let x := s.ctx core k
  let s1 := ((s.finishStores core k).withdraw core k)
  let s2 := s1.setCtx core k { s1.ctx core k with pend := [] }
  let s3 := (s2.endCtx core k x.pc true).noticeEnd core x
  if 11 ≤ k then
    let c := s3.core core
    s3.setCore core { c with seqs := listSet c.seqs (k - 11) { (c.seqs[k - 11]?).getD Seq.reset with mailbox := .fault } }
  else s3

/-- Row buffers of terminated handler tasks (R248, R249). -/
def State.freeRows (s : State) (core : Nat) (tokens : List Word) : State :=
  let c := s.core core
  s.setCore core { c with mat := { c.mat with drains := c.mat.drains.map fun d => d.freeBuffers tokens.contains } }

/-- Task group `g` is terminated on one core (R365). -/
def State.terminateOn (s : State) (core : Nat) (g : BitVec 16) : State :=
  let c := s.core core
  let live := (c.ctxs.filter fun p => p.2.live && p.2.group == g).map (·.1)
  let queued := c.runq.filter fun r => r.task.group == g
  let c1 := { c with runq := c.runq.filter fun r => r.task.group != g }
  let mine := fun (x : Cmd) => x.group == g && x.leg.isNone && x.status != .running
  let c2 := (((c1.discardIf .matrix mine).discardIf .vector mine).discardIf .transfer mine).discardIf .copro mine
  let wake := fun (c : Core) (e : Eng) =>
    if c.halted e && !(c.queue e).any (fun x => x.status == .halted) then c.setHalt e false else c
  let c3 := wake (wake (wake (wake c2 .matrix) .vector) .transfer) .copro
  let tokens := queued.filterMap (·.token) ++ live.filterMap fun k => (c.ctx k).token
  let s1 := ((s.setCore core c3).freeRows core tokens)
  let s2 := live.foldl (fun s k => s.terminateCtx core k) s1
  let cl := s2.cluster (clusterOf core)
  let gone := (cl.pfu.filter fun t => t.task.group == g && (t.srcCore == core || t.core == core)).map (·.seq)
  if gone.isEmpty then s2 else s2.dropPfu (clusterOf core) gone

/-- Task group `g` is terminated on a set of cores. -/
def State.terminate (s : State) (cores : List Nat) (g : BitVec 16) : State :=
  cores.foldl (fun s n => s.terminateOn n g) s

end Sys2Proof.Machine
end

