-- ==== Sys2Proof/Machine/Operands.lean ====
section
/-! DEFINITION. Operand forms: guards (R23), register sources and destinations (R24–R26), ports (R160), literals (R21, R22)
and what an instruction waits for and traps on before it takes effect (R16, R158). -/

namespace Sys2Proof.Machine

/-! ## Predicates and the guard -/

/-- A predicate's value; g7 reads as 1 (R25). -/
def Regs.pred (r : Regs) (n : Nat) : Bool := if n = 7 then true else r.g.getLsbD n

/-- Write a predicate; a write to g7 is ignored (R25). -/
def Regs.setPred (r : Regs) (n : Nat) (b : Bool) : Regs :=
  if n = 7 then r else { r with g := if b then r.g ||| (1#7 <<< n) else r.g &&& ~~~(1#7 <<< n) }

/-- The guard of R23: g[n] XOR negate. -/
def Regs.guard (r : Regs) (g : BitVec 4) : Bool := r.pred (g.extractLsb' 0 3).toNat != g.getLsbD 3

def lowPred (f : BitVec 6) : Nat := (f.extractLsb' 0 3).toNat

def highPred (f : BitVec 6) : Nat := (f.extractLsb' 3 3).toNat

/-- The counter named by a field's low 4 bits (R24). -/
def lowCc (f : BitVec 6) : Nat := (f.extractLsb' 0 4).toNat

/-- The set that a bundle's instructions read: the one before the bundle (R16 step 4). -/
def State.viewCtx (s : State) : Ctx := s.view.getD s.me

/-! ## Sources and destinations -/

/-- A register source: its number, and whether its flag makes an empty register trap (R26). -/
structure Src where
  reg : Nat
  trapEmpty : Bool
deriving DecidableEq, Repr

/-- The register sources of an instruction's fields, in the order ports are read: a, b, d (R17). -/
structure Srcs where
  a : Option Src
  b : Option Src
  d : Option Src
deriving DecidableEq, Repr

/-- Instructions whose destination d is a source too (R26, R42, R166, R199, R201). -/
def readsDest (i : Instr) : Bool :=
  match i with
  | .lih _ | .aadd _ | .aand _ | .aor _ | .axor _ | .amin _ | .amax _ | .aminn _ | .amaxn _ | .aswp _ | .acas _ | .afadd _
  | .bfi _ | .fma _ | .fms _ => true
  | _ => false

def isSrcUse : FieldUse → Bool
  | .src | .srcGen => true
  | _ => false

def isDstUse : FieldUse → Bool
  | .dst | .gen | .acas => true
  | _ => false

def srcIf (b : Bool) (n : BitVec 6) (t : Bool) : Option Src := if b then some ⟨n.toNat, t⟩ else none

/-- The sources of an instruction (R24, R26). -/
def srcsOf (i : Instr) : Srcs :=
  match i.rule, i.fields with
  | .cr r, .cr o =>
    ⟨srcIf (isSrcUse r.a) o.a (o.fa == 1), srcIf (isSrcUse r.b && o.lit.isNone) o.b (o.fb == 1), srcIf (isSrcUse r.d || (readsDest i)) o.d false⟩
  | .ci r, .ci o => ⟨srcIf (isSrcUse r.a) o.a (o.fa == 1), none, srcIf (isSrcUse r.d || (readsDest i)) o.d false⟩
  | .cl, .cl o => ⟨none, none, srcIf (readsDest i) o.d false⟩
  | .cx r, .cx o => ⟨srcIf (isSrcUse r.a) o.a false, none, srcIf (isSrcUse r.d) o.d false⟩
  | .a r, .a o => ⟨srcIf (isSrcUse r.a) o.a false, srcIf (isSrcUse r.b) o.b false, srcIf (readsDest i) o.d false⟩
  | _, _ => ⟨none, none, none⟩

/-- The sources as a list, with ACAS's second register (R302), in the order in which they take words of ports: R17 orders a and b, and a
source in the d field comes after them (log 51). -/
def srcListOf (i : Instr) : List Src :=
  let s := srcsOf i
  s.a.toList ++ s.b.toList ++ s.d.toList ++
    (match i with
    | .acas o => [⟨o.d.toNat + 1, false⟩]
    | _ => [])

/-- The registers and outbound ports that an instruction's fields name as destinations, with w55 for the linking branches (R18, R345). -/
def namedDests (i : Instr) : List Nat :=
  (match i.rule, i.fields with
  | .cr r, .cr o => (if isDstUse r.d then [o.d.toNat] else []) ++ (if isDstUse r.b then [o.b.toNat] else [])
  | .ci r, .ci o => if isDstUse r.d then [o.d.toNat] else []
  | .cl, .cl o => [o.d.toNat]
  | .cx r, .cx o => if isDstUse r.d then [o.d.toNat] else []
  | .a r, .a o => if isDstUse r.d then [o.d.toNat] else []
  | _, _ => []) ++
    (match i with
    | .call _ | .jmprLink _ => [55]
    | _ => [])

/-- The registers and outbound ports an instruction writes: the named ones, and the parked registers that TRET brings back (R364), which
no field of it names. -/
def destsOf (i : Instr) : List Nat :=
  namedDests i ++
    (match i with
    | .tret _ | .tretTerm _ | .tretTermall _ => [54, 55]
    | _ => [])

def usePreds (u : FieldUse) (f : BitVec 6) : List Nat :=
  match u with
  | .pred | .predSrc => [lowPred f]
  | .pq => [lowPred f, highPred f]
  | _ => []

/-- The predicates an instruction names besides its guard (R101). -/
def predsOf (i : Instr) : List Nat :=
  match i.rule, i.fields with
  | .cr r, .cr o => usePreds r.d o.d ++ usePreds r.b o.b
  | .a r, .a o => usePreds r.d o.d ++ usePreds r.a o.a ++ usePreds r.b o.b ++
      (match i with
      | .sel _ => [o.t.toNat]
      | _ => [])
  | _, _ => []

/-- The predicates that an instruction writes (R18, R25). -/
def predDestsOf (i : Instr) : List Nat :=
  match i.rule, i.fields with
  | .cr r, .cr o =>
    (match r.d with | .pred => [lowPred o.d] | .pq => [lowPred o.d, highPred o.d] | _ => []) ++
      (match r.b with | .pred => [lowPred o.b] | _ => []) ++
      (match i with | .xform _ => [(o.g.extractLsb' 0 3).toNat] | _ => [])
  | .a r, .a o => match r.d with | .pq => [lowPred o.d, highPred o.d] | _ => []
  | _, _ => []

/-! ## Reading -/

/-- How often a port is read before, in the order of R17. -/
def reads (before : List Nat) (n : Nat) : Nat := (before.filter (· == n)).length

/-- The value of a source register or inbound port, after the reads in `before` (R17, R24). -/
def Core.srcVal (c : Core) (x : Ctx) (before : List Nat) (n : Nat) : Word :=
  if h : n < 56 then x.regs.w[n] else (((c.regs.fifos[n - 56]?).getD [])[reads before n]?).getD 0

/-- The words dequeued when the instruction takes effect (R17). -/
def State.dequeue (s : State) (srcs : List Nat) : State :=
  if srcs.all (· < 56) then s
  else
    let c := s.myCore
    let fs := (List.range 4).map fun i => ((c.regs.fifos[i]?).getD []).drop (reads srcs (56 + i))
    s.setMyCore { c with regs := { c.regs with fifos := fs } }

/-- The values of an instruction's operand fields; a field that is no source reads as 0. -/
structure Vals where
  a : Word
  b : Word
  d : Word
deriving DecidableEq, Repr

def valsOf (i : Instr) (s : State) : Vals :=
  let q := srcsOf i
  let c := s.myCore
  let x := s.viewCtx
  let val := fun (before : List Nat) (o : Option Src) => match o with
    | some r => c.srcVal x before r.reg
    | none => 0
  let na := q.a.toList.map (·.reg)
  let nb := na ++ q.b.toList.map (·.reg)
  ⟨val [] q.a, val na q.b, val nb q.d⟩

/-! ## Waiting and source traps (R16, R26, R158) -/

/-- A source is full: an inbound port holds the word to be read. -/
def Core.srcFull (c : Core) (x : Ctx) (before : List Nat) (n : Nat) : Bool :=
  if n < 56 then x.regs.full.getLsbD n
  else decide (reads before n < ((c.regs.fifos[n - 56]?).getD []).length)

/-- The first source, in order, that satisfies a test, given the sources read before it. -/
def firstSrc (test : List Nat → Src → Bool) : List Nat → List Src → Option Src
  | _, [] => none
  | before, r :: t => if test before r then some r else firstSrc test (before ++ [r.reg]) t

/-- The FIFO that an outbound port (60–63) is bound to: global core and FIFO (R160). -/
def State.portTarget (s : State) (port : Nat) : Option (Nat × Nat) :=
  match s.myCore.regs.binds[port - 60]? with
  | some (some b) => some (24 * clusterOf s.curCore + b.core, b.fifo)
  | _ => none

/-- Words of the core's contexts that are still behind stores, as they lead to a FIFO or leave by a port (R160). -/
def StoreUnit.wordsBehind (u : StoreUnit) (test : Nat → Nat → Nat → Bool) : Nat :=
  (u.behind.filter fun q => match q.what with | .word p n f _ => test p n f | .slots _ _ => false).length

/-- Words in an inbound FIFO, with those that have been written to it and wait for stores (R160). -/
def State.fifoLen (s : State) (core f : Nat) : Nat :=
  s.cores.foldl (fun k p => k + p.2.su.wordsBehind fun _ n g => n == core && g == f) (((s.core core).regs.fifos[f]?).getD []).length

/-- An outbound port may be written (R16, R160): it has room for the word, after the writes in `before`, and, since enqueuing is a
release, the context's earlier stores are performed; the word follows those of its own bundle into the FIFO. An unbound port traps
instead. -/
def State.portRoom (s : State) (before : List Nat) (port : Nat) : Bool :=
  match s.portTarget port with
  | some (n, f) =>
    decide (s.fifoLen n f + (before.filter fun q => s.portTarget q == some (n, f)).length < 16)
      && (s.view.isSome || s.storesDone s.curCore s.curCtx)
  | none => true

/-- A destination may be written now: a register is full (R158), a port has room. -/
def State.destReady (s : State) (before : List Nat) (n : Nat) : Bool :=
  if n < 56 then s.viewCtx.regs.full.getLsbD n else s.portRoom before n

def State.destsReady (s : State) : List Nat → List Nat → Bool
  | _, [] => true
  | before, n :: t => s.destReady before n && s.destsReady (before ++ [n]) t

/-- A predicate that a QPOP still owes (R101). -/
def Regs.predPending (r : Regs) (n : Nat) : Bool := if n = 7 then false else r.pend.getLsbD n

/-- The instruction (or the bundle's two) must wait: a blocking source is empty, a destination is empty or full up, a
predicate is pending (R16 step 2, R101, R158). -/
def State.blocked (s : State) (srcs : List Src) (dests preds : List Nat) : Bool :=
  (firstSrc (fun before r => !r.trapEmpty && !s.myCore.srcFull s.viewCtx before r.reg) [] srcs).isSome
    || !s.destsReady [] dests || preds.any s.viewCtx.regs.predPending

def guardPred (g : BitVec 4) : Nat := (g.extractLsb' 0 3).toNat

/-- The instruction's guard is true in the set that the bundle reads (R16 step 1). -/
def State.guarded (s : State) (i : Instr) : Bool := s.viewCtx.regs.guard i.fields.guard

/-- A FOSTEP that goes on with a consumption already begun, or that a FOCLOSE has ended, ignores its operand (R265). -/
def State.goesOn (s : State) : Bool :=
  let j := s.myCore.judge
  (j.ousted.any fun o => o.1 == s.curCtx) || (j.susp.isSome && (j.active.isNone || j.active == some s.curCtx))

/-- The sources that the instruction reads in this state. -/
def State.sources (s : State) (i : Instr) : List Src :=
  match i with
  | .fostep _ => if s.goesOn then [] else srcListOf i
  | _ => srcListOf i

/-- The instruction waits for one of its operands. -/
def State.stalled (s : State) (i : Instr) : Bool := s.blocked (s.sources i) (destsOf i) (predsOf i)

/-! ## Literals and immediates -/

/-- What a memory instruction's word or literal says of its access (R22). -/
structure MemOpts where
  pol : Nat
  scope : Scope
  order : Order
  disp : Int
deriving DecidableEq, Repr

/-- The policy, scope, order and displacement of a CI memory instruction (R22); the short form's displacement is imm7 times
the size. -/
def memOpts (o : CIOps) (cpr : Word) (size : Nat) : MemOpts :=
  match o.lit with
  | some l => ⟨(l.extractLsb' 29 3).toNat, Scope.ofCode (litScope l), Order.ofCode (litOrder l), (l.extractLsb' 0 24).toInt⟩
  | none => ⟨(cpr.extractLsb' 0 3).toNat, .cluster, .rlx, o.imm.toInt * size⟩

/-- The immediate of a CI instruction: imm7, or the literal, sign-extended (R21, R363). -/
def ciImm (o : CIOps) : Int :=
  match o.lit with
  | some l => l.toInt
  | none => o.imm.toInt

/-- The low 32 bits of the b operand, or the literal in its place (R21). -/
def crB32 (o : CROps) (v : Vals) : W32 :=
  match o.lit with
  | some l => l
  | none => v.b.extractLsb' 0 32

/-- A displacement added to a pointer (R287): the sum is formed on bits 55:0, bits 63:56 come from the pointer; none where
a carry leaves bit 55 or a borrow enters it. -/
def addPtr (p : Word) (d : Int) : Option Word :=
  let n : Int := (lowOf p : Int) + d
  if 0 ≤ n ∧ n < 2 ^ 56 then some (mkPtr (tagOf p) n.toNat) else none

end Sys2Proof.Machine
end

