-- ==== Sys2Proof/Machine/Ops.lean ====
section
/-! DEFINITION. The operations that every meaning shares: results of a meaning, writing registers and predicates, issuing
an instruction (R16), taking a trap (R359–R362) and returning from one (R300, R364). -/

namespace Sys2Proof.Machine

/-- The outcome of a step. -/
abbrev Result := Host.Outcome State Fault Refusal

/-- What a meaning raises: code, reason and the words of R359; `reg` is REG of R360; `after` saves the next bundle's
address (TRAP, R363). -/
structure Trap where
  code : Nat
  reason : Nat := 0
  addr : Word := 0
  arg : Word := 0
  reg : Nat := 0
  after : Bool := false
deriving DecidableEq, Repr

/-- The illegal-instruction trap with a reason judged on values (R47). -/
def Trap.illegal (r : Nat) : Trap := { code := 1, reason := r }

/-- The address and alignment trap (R359). -/
def Trap.address (a : Word) : Trap := { code := 5, addr := a }

/-- The result of a meaning's body: it took effect, it waits (the state holds what the wait keeps), or it traps with no
effect but `keep`, where a rule keeps one (R266). -/
inductive Res (α : Type) where
  | ok (a : α) (s : State)
  | wait (s : State)
  | trap (t : Trap) (keep : Option State)
deriving Repr

def Res.bind {α β : Type} (r : Res α) (f : α → State → Res β) : Res β :=
  match r with
  | .ok a s => f a s
  | .wait s => .wait s
  | .trap t k => .trap t k

/-! ## Writing registers and predicates -/

/-- Events of an operation are counted on a core (R188, R189). -/
def State.countEv (s : State) (core : Nat) (e : FEv) : State :=
  ((((((((((s.count core .invalid e.iv).count core .divzero e.dz).count core .overflow e.of).count core .underflow e.uf).count
    core .inexact e.ix).count core .saturate e.sat).count core .skip e.skip).count core .nanblock e.nanblock).count core
    .trunc e.trunc).count core .flush e.flush)

/-- The events of an addition by number and count (R188): what an answer carries to the requester (R138). -/
def FEv.list (e : FEv) : List (Nat × Nat) :=
  [(Ev.invalid.num, e.iv), (Ev.divzero.num, e.dz), (Ev.overflow.num, e.of), (Ev.underflow.num, e.uf), (Ev.inexact.num, e.ix),
    (Ev.saturate.num, e.sat), (Ev.skip.num, e.skip), (Ev.nanblock.num, e.nanblock), (Ev.trunc.num, e.trunc),
    (Ev.flush.num, e.flush)].filter fun p => p.2 != 0

/-- Count events that an answer carries (R138, R189). -/
def State.countNo (s : State) (core n k : Nat) : State :=
  let c := s.core core
  s.setCore core { c with regs := { c.regs with ev := listSet c.regs.ev n (satInc ((c.regs.ev[n]?).getD 0) k) } }

/-- Set a register of a context: it becomes full and unpoisoned (R159). -/
def Ctx.setW (x : Ctx) (n : Nat) (v : Word) : Ctx := { x with regs := x.regs.fill n (some v) }

/-- Enqueue a word on an outbound port (R160): the A slot's word follows a store of the C slot of its bundle, as the pair stands for the
two in sequence (R32). -/
def State.portPush (s : State) (port : Nat) (v : Word) : State :=
  match s.portTarget port with
  | none => s
  | some (n, f) =>
    if s.view.isSome && !s.storesDone s.curCore s.curCtx then
      let c := s.myCore
      s.setMyCore { c with su := { c.su with behind := c.su.behind ++ [⟨s.curCtx, s.me.bundles, .word port n f v⟩] } }
    else s.enterFifo n f v

/-- Write a destination field: a register, or a word on an outbound port (R24). -/
def State.setReg (s : State) (n : Nat) (v : Word) : State :=
  if n < 56 then s.setMe (s.me.setW n v) else s.portPush n v

/-- Write a predicate (R25). -/
def State.setPred (s : State) (n : Nat) (b : Bool) : State := s.setMe { s.me with regs := s.me.regs.setPred n b }

/-- Write a predicate pair: p := b and q := not b (R25). -/
def State.setPair (s : State) (d : BitVec 6) (b : Bool) : State :=
  s.setMe { s.me with regs := (s.me.regs.setPred (lowPred d) b).setPred (highPred d) (!b) }

/-- A register is marked empty (R158). -/
def Regs.clear (r : Regs) (n : Nat) : Regs := { r with full := r.full &&& ~~~(1#56 <<< n) }

/-- What a producer does besides its result (R189, R192, R193): its unit, its events, its sticky flags. -/
structure Aside where
  unit? : Option Nat := none
  ev : FEv := {}
  sticky : Word := 0
deriving DecidableEq, Repr

/-- A long-latency producer owes a result to its destination (R158): a register is marked empty until PRODUCER_RESULT; a
word bound for an outbound port is enqueued when the bundle completes, and poison bound for one traps (R158, R159). -/
def State.oweWith (s : State) (n : Nat) (v : Option Word) (pred : Option (Nat × Bool)) (e : Aside) : Res Unit :=
  if n < 56 then
    let c := s.myCore
    let x := c.ctx s.curCtx
    let r := x.regs.clear n
    let r1 := match pred with
      | some (p, _) => if p = 7 then r else { r with pend := r.pend ||| (1#7 <<< p) }
      | none => r
    .ok () (s.setMyCore { c.setCtx s.curCtx { x with regs := r1 } with
      owed := c.owed ++ [⟨s.curCtx, n, v, pred, e.unit?, e.ev, e.sticky⟩] })
  else
    match v with
    | some w =>
      let s1 := (s.portPush n w).countEv s.curCore e.ev
      let s2 := s1.setMe { s1.me with fpcr := s1.me.fpcr ||| e.sticky }
      .ok () (match pred with
        | some (p, b) => s2.setPred p b
        | none => s2)
    | none => .trap { code := 4, reg := n } none

/-- A producer that only returns a value owes it. -/
def State.owe (s : State) (n : Nat) (v : Option Word) (pred : Option (Nat × Bool)) : Res Unit := s.oweWith n v pred {}

/-- An owed result returns (R158, R101, R193): the register is full, with its value or poison, a QPOP's predicate is
written with it, and sticky flags are set. -/
def Ctx.receive (x : Ctx) (o : Owed) : Ctx :=
  let r := x.regs.fill o.reg o.value
  let r1 := match o.pred with
    | some (p, b) =>
      let r1 := r.setPred p b
      if p = 7 then r1 else { r1 with pend := r1.pend &&& ~~~(1#7 <<< p) }
    | none => r
  { x with regs := r1, fpcr := x.fpcr ||| o.sticky }

/-- Owed results of a context return, each with its counts (R158, R189). -/
def State.receiveAll (s : State) (core k : Nat) (l : List Owed) : State :=
  let c := s.core core
  l.foldl (fun s o => s.countEv core o.ev) (s.setCore core (c.setCtx k (l.foldl Ctx.receive (c.ctx k))))

/-- The unit that an A-slot producer needs (R192). -/
def unitOf (i : Instr) : Option Nat :=
  match i with
  | .div _ | .rem _ => some 0
  | .fdiv _ | .fsqrt _ => some 1
  | .frcp _ | .frsq _ | .fexp2 _ | .flog2 _ | .fsin _ | .fcos _ | .ftanh _ => some 2
  | _ => none

/-- The instruction waits until its unit is free (R192). -/
def State.unitBusy (s : State) (i : Instr) : Bool :=
  match unitOf i with
  | some u => s.myCore.owed.any fun o => o.unit? == some u
  | none => false

/-! ## Taking a trap -/

/-- The fields of the cause word and of slots 69–71 (R359, R360). -/
structure Cause where
  code : Nat
  reason : Nat
  reg : Nat
  idx : Nat
  slotA : Bool
  async : Bool
  addr : Word
  pcx : Word
  arg : Word
deriving DecidableEq, Repr

def bit (b : Bool) : Nat := if b then 1 else 0

/-- Slot 68 (R360). -/
def Cause.word (c : Cause) (p54 p55 : Bool) : Word :=
  BitVec.ofNat 64 (c.code % 256 + c.reason % 256 * 2 ^ 8 + bit c.slotA * 2 ^ 16 + bit c.async * 2 ^ 17 + bit p54 * 2 ^ 18
    + bit p55 * 2 ^ 19 + c.reg % 64 * 2 ^ 20 + c.idx % 16 * 2 ^ 26)

/-- The owed results of w54 and w55 return: a delivery waits for them (R361). -/
def State.settle (s : State) (core k : Nat) : State :=
  let c := s.core core
  let mine := fun (o : Owed) => o.ctx == k && (o.reg == 54 || o.reg == 55)
  (s.setCore core { c with owed := c.owed.filter fun o => !mine o }).receiveAll core k (c.owed.filter mine)

/-- A trap that cannot be delivered ends the context's group on its core, with event TYPE 7 (R361, R362, R373). -/
def State.unhandled (s : State) (core k : Nat) (code : Nat) : State :=
  let g := (s.ctx core k).group
  (s.postUnhandled core k g code).terminateOn core g

/-- The set after a delivery (R361). -/
def Ctx.enterHandler (x : Ctx) (cause : Word) (vector : Word) : Ctx :=
  let x1 := (x.setW 54 0xF100000000000000).setW 55 cause
  { x1 with ih := true, pc := vector, npc := vector, wait := none, grant := none, discarded := none }

/-- Delivery of a trap to a live context below the sequencers (R361). None: w54 or w55 is still empty, and the delivery
waits. -/
def State.deliver (s : State) (core k : Nat) (c : Cause) (saved : Word) : Option State :=
  match (s.part (s.partOf core)).vector with
  | none => some (s.unhandled core k c.code)
  | some v =>
    let s1 := s.settle core k
    let x := s1.ctx core k
    if x.regs.full.getLsbD 54 && x.regs.full.getLsbD 55 then
      let w := c.word (x.regs.psn.getLsbD 54) (x.regs.psn.getLsbD 55)
      let y := { x with cause := w, taddr := c.addr, pcx := c.pcx, targ := c.arg }
      let s2 := (s1.writeBackTop core y saved).writeAt (slotKey core x.wp.toNat 72)
        (natBytes x.regs.w[54].toNat 8 ++ natBytes x.regs.w[55].toNat 8)
      let c1 := (s2.core core).suspendRelay k
      some (s2.setCore core { c1.setCtx k (y.enterHandler w v) with judge := c1.judge.leave k })
    else none

/-- A trap or a store fault ends a sequencer (R349): its older stores are performed, its mailbox reads FAULT, and code 16
goes to the context that forked it (R359). -/
def State.seqEnd (s : State) (core k code : Nat) (addr saved : Word) : State :=
  let x := s.ctx core k
  let e := k - 11
  let s1 := s.finishStores core k
  let s2 := s1.setCtx core k { s1.ctx core k with pend := [] }
  let s3 := s2.endCtx core k saved false
  let c := s3.core core
  let q := (c.seqs[e]?).getD Seq.reset
  let s4 := s3.setCore core { c with seqs := listSet c.seqs e { q with mailbox := .fault } }
  s4.sendTrap core q.forker x.group
    { rank := 48 + e, code := 16, reason := code, idx := e, addr := addr, pcx := q.forkPc, arg := saved }

/-- A precise trap that has been latched until w54 and w55 are full is delivered (R361); otherwise it waits on. -/
def State.redeliver (s : State) (l : Latched) : State :=
  let c : Cause :=
    { code := l.code, reason := l.reason, reg := l.reg, idx := 0, slotA := l.slotA, async := false, addr := l.addr, pcx := l.pcx, arg := l.arg }
  match s.deliver s.curCore s.curCtx c l.saved with
  | some s1 => { s1 with issue := .trapped }
  | none => { s with issue := .waiting }

/-- TAKING A TRAP precisely (R16 step 3, R359–R362) by the issuing context: the state before the bundle, changed as the
delivery says. `word` is the offending slot word (ARG of code 1). -/
def State.takeTrap (s : State) (t : Trap) (slotA : Bool) (word : W32) : State :=
  let x := s.me
  let saved := if t.after then x.pc + 8 else x.pc
  if 11 ≤ s.curCtx then { s.seqEnd s.curCore s.curCtx t.code t.addr saved with issue := .trapped }
  else if x.ih then { s.unhandled s.curCore s.curCtx t.code with issue := .trapped }
  else
    let l : Latched :=
      { code := t.code, reason := t.reason, reg := t.reg, slotA := slotA, addr := t.addr, pcx := x.pc,
        arg := if t.code = 1 then word.setWidth 64 else t.arg, saved := saved }
    let s1 := s.redeliver l
    if s1.issue = .trapped then s1 else { s.setMe { x with grant := some (.trapping l) } with issue := .waiting }

/-- The cause of a pending asynchronous trap (R359, R360). -/
def PendTrap.cause (p : PendTrap) : Cause :=
  { code := p.code, reason := p.reason, reg := 0, idx := p.idx, slotA := false, async := true, addr := p.addr,
    pcx := p.pcx, arg := p.arg }

/-- The pending trap that is delivered first (R362). -/
def firstPend : List PendTrap → Option PendTrap
  | [] => none
  | p :: t =>
    match firstPend t with
    | some q => if q.rank < p.rank then some q else some p
    | none => some p

/-- The context stands in MWAIT or IDLE, which completes before a pending trap is taken at the next boundary (R307, R368), or in an
access whose migration was refused or a bundle whose precise trap waits: a precise trap comes first (R362, R370). -/
def Ctx.completesFirst (x : Ctx) : Bool :=
  (match x.wait with | some (.watch _) => true | some .idle => true | _ => false)
    || (match x.grant with | some (.code _) | some .refused | some (.trapping _) => true | _ => false)

/-- The trap of a record slot is delivered: its store and those frozen behind it are set aside (R297). -/
def StoreUnit.deliver (u : StoreUnit) (i : Nat) : StoreUnit :=
  match u.slots[i]? with
  | some (some f) => { u with slots := listSet u.slots i (some { f with delivered := true }) }
  | _ => u

/-- Delivery of the first pending asynchronous trap of a context at a bundle boundary (R299, R361, R362); the saved
program counter is the next bundle's, or the waiting bundle's. None: nothing can be delivered now. -/
def State.deliverPending (s : State) (core k : Nat) : Option State :=
  let x := s.ctx core k
  match firstPend x.pend with
  | none => none
  | some p =>
    if !x.live || x.ih || 11 ≤ k || x.completesFirst || x.wait == some .away then none
    else
      let c := s.core core
      let c1 := c.setCtx k { x with pend := x.pend.erase p }
      let c2 := if p.code = 11 then { c1 with su := c1.su.deliver p.idx } else c1
      (s.setCore core c2).deliver core k p.cause x.pc

/-! ## Returning from a trap -/

/-- Ready stores of a context leave the buffer, oldest first, until one fails or none is left (R300). -/
def State.sendOut (s : State) (core k : Nat) : Nat → State
  | 0 => s
  | fuel + 1 =>
    match findIdx (fun (e : StoreEntry) => e.ctx == k && e.phase == .ready) (s.core core).su.buf with
    | none => s
    | some (i, _) =>
      match s.storeLeaves core i with
      | some s1 => State.sendOut s1 core k fuel
      | none => s

/-- The core clears VALID in a record (R298, R300), a write that the watches see (R306). -/
def State.clearValid (s : State) (core off : Nat) : State :=
  s.writeScratch core (off + 31) [s.byteAt (spKey core (off + 31)) &&& 0xFE]

/-- The store of a record as the handler has left it: VA and DATA are read again (R300). -/
def FaultSlot.resent (f : FaultSlot) (s : State) (core : Nat) : StoreEntry :=
  { f.entry with va := s.entryAt (spKey core f.offset), data := s.entryAt (spKey core (f.offset + 8)) }

/-- Resumption of the set-aside stores of a context at TRET (R300): the store of its delivered record is sent out again,
or dropped where SKIP is set, and the frozen stores follow. One resent to another package fails again (log 50). -/
def State.resumeStores (s : State) (core k : Nat) : State :=
  let c := s.core core
  match findIdx (fun (o : Option FaultSlot) => match o with | some f => f.entry.ctx == k && f.delivered | none => false) c.su.slots with
  | some (i, some f) =>
    let skip := (s.byteAt (spKey core (f.offset + 31))).getLsbD 1
    let e := f.resent s core
    let thaw := c.su.buf.map fun x => if x.ctx = k ∧ x.phase = .frozen i then { x with phase := .ready } else x
    let slots := listSet c.su.slots i none
    let s1 := s.clearValid core f.offset
    let put := fun (b : List StoreEntry) => s1.setCore core { s1.core core with su := { (s1.core core).su with buf := b, slots := slots } }
    if skip then ((put thaw).releaseBehind core k false).sendOut core k (thaw.length + 1)
    else
      let w := (s.ctx core k).who core
      let bad := put thaw
      match s.place w e.va e.size with
      | some (.flat _) =>
        if e.va.toNat % e.size = 0 then (put ({ e with norm := mkPtr 0 (lowOf e.va) } :: thaw)).sendOut core k (thaw.length + 1)
        else (bad.storeFault core e thaw 10).getD bad
      | some (.window _ n) =>
        if e.va.toNat % e.size = 0 then (put ({ e with norm := n } :: thaw)).sendOut core k (thaw.length + 1)
        else (bad.storeFault core e thaw 10).getD bad
      | _ => (bad.storeFault core e thaw 10).getD bad
  | _ => s

/-- RETURNING FROM A TRAP (R364, MODE 0, or the return of a handler that has terminated another group): w54 and w55 come
back from slots 72 and 73, the program counter from slot 64, and slots 68–71 into the set; then R300, R217 or R245. -/
def State.trapReturn (s : State) (core k : Nat) : State :=
  let x := s.ctx core k
  let slot := fun n => s.slotWord core x.wp.toNat n
  let cause := slot 68 &&& causeMask
  let x1 := (x.setW 54 (slot 72)).setW 55 (slot 73)
  let p := (if cause.getLsbD 18 then 1#56 <<< 54 else 0) ||| (if cause.getLsbD 19 then 1#56 <<< 55 else 0)
  let x2 := { x1 with regs := { x1.regs with psn := x1.regs.psn ||| p } }
  let s1 := s.setCtx core k x2
  if (slot 64).toNat % 8 ≠ 0 then s1.unhandled core k 5
  else
    let x3 : Ctx :=
      { x2 with pc := slot 64, npc := slot 64, cause := cause, taddr := slot 69, pcx := slot 70, targ := slot 71, ih := false }
    let s2 := s1.setCtx core k x3
    let code := (cause.extractLsb' 0 8).toNat
    let idx := (cause.extractLsb' 26 4).toNat
    if code = 11 then s2.resumeStores core k
    else if code = 12 ∧ idx = 0 then s2.setCore core ((s2.core core).res .matrix)
    else if code = 12 ∧ idx = 1 then s2.setCore core ((s2.core core).res .vector)
    else s2

/-! ## Photo-finish tasks -/

def State.pfuTask (s : State) (cl seq : Nat) : Option PfuTask := (findIdx (fun (t : PfuTask) => t.seq == seq) (s.cluster cl).pfu).map (·.2)

/-- No uncommitted task of the unit has a smaller key (R353). -/
def State.pfuOldest (s : State) (cl : Nat) (t : PfuTask) : Bool := !(s.cluster cl).pfu.any fun u => u.before t

def State.setPfu (s : State) (cl : Nat) (t : PfuTask) : State :=
  let c := s.cluster cl
  s.setCluster cl { c with pfu := c.pfu.map fun u => if u.seq = t.seq then t else u }

/-- A held write is performed for a core as the store it is (R112, R117, R296, R353, R355). -/
def State.performHeld (s : State) (core : Nat) (h : HeldWrite) : State :=
  let rel := h.order.releases
  match h.mt with
  | some mt => ((s.putFlat core h.key h.size h.data mt h.pol h.scope rel).getD s).blur (clusterOf core) h.key h.size
  | none =>
    let s1 := ((s.flushSync (clusterOf core)).putWindow h.key (natBytes h.data.toNat h.size)).blur (clusterOf core) h.key h.size
    if rel then s1.touchLine core (.window h.key h.norm) (some h.scope) true else s1

/-- A task's held writes are performed in program order (R353, R355). -/
def State.performHelds (s : State) (cl : Nat) (t : PfuTask) : State :=
  (t.held.foldl (fun s h => (s.seen h.key h.size (some (cl, t))).performHeld t.core h) s).wakeWatches

/-- A held write of the task waits: its core holds the line until a moved request is performed (R62). -/
def State.heldsWait (s : State) (t : PfuTask) : Bool := t.held.any fun h => h.mt.isSome && s.lineHeld t.core h.key

/-- The issuing context is not a speculative task, or becomes irrevocable now: its held writes are performed first (R355).
None: it waits until it is oldest, or is to be aborted (R356), or until the line of a held write is free (R62). -/
def State.irrevocable (s : State) : Option State :=
  match s.me.pfu with
  | none => some s
  | some q =>
    let cl := clusterOf s.curCore
    match s.pfuTask cl q with
    | none => some s
    | some t =>
      if t.state = .irrevocable then some s
      else if !t.doomed && s.pfuOldest cl t && !s.heldsWait t then
        some ((s.performHelds cl t).setPfu cl { t with state := .irrevocable, held := [], fixed := true })
      else none

/-- Instructions that a speculative task performs only as the oldest (R355); accesses and SEND judge themselves. -/
def needsOldest (i : Instr) : Bool :=
  match i.fields with
  | .cr _ | .ci _ =>
    let n := i.opcode
    (0x28 ≤ n && n ≤ 0x2F) || n == 0x33 || n == 0x3C || n == 0x3D || (0x40 ≤ n && n ≤ 0x4B) || (0x50 ≤ n && n ≤ 0x6F)
      || n == 0x79 || n == 0x7A
  | _ => false

/-! ## Issuing one instruction -/

/-- Instructions that a sequencer executes (R349), with those by which it arrives at a hurdle (R320) and the C-slot NOP that stands
beside an A-slot instruction (log 15). -/
def seqAllowed (k : Nat) (i : Instr) : Bool :=
  match i.fields with
  | .a _ => true
  | .cx _ | .event => false
  | _ =>
    let n := i.opcode
    n ≤ 0x0F || n == 0x1E || (0x22 ≤ n && n ≤ 0x24) || (0x30 ≤ n && n ≤ 0x32) || (0x70 ≤ n && n ≤ 0x73) || n == 0x7B
      || n == 0x6E || n == 0x6F || (k == 11 && 0x40 ≤ n && n ≤ 0x4B)
      || (k == 12 && ((0x50 ≤ n && n ≤ 0x60) || n == 0x66))
      || (k == 13 && ((0x28 ≤ n && n ≤ 0x2F) || (0x6B ≤ n && n ≤ 0x6D)))

/-- The trap that an operand raises (R16 step 3, R26, R160): an empty source whose flag is set, a poisoned source, an
unbound outbound port. -/
def State.operandTrap (s : State) (i : Instr) : Option Trap :=
  let x := s.viewCtx
  let bad := fun (before : List Nat) (r : Src) =>
    !s.myCore.srcFull x before r.reg || (decide (r.reg < 56) && x.regs.psn.getLsbD r.reg)
  match firstSrc bad [] (s.sources i) with
  | some r => if r.reg < 56 ∧ x.regs.full.getLsbD r.reg then some { code := 4, reg := r.reg } else some { code := 3, reg := r.reg }
  | none => if (destsOf i).any (fun n => 60 ≤ n && (s.portTarget n).isNone) then some (Trap.address 0) else none

/-- A handler meets the fault of a store of its program at a write to an outbound port, which is a release (R160, R299). -/
def State.portTrap (s : State) (i : Instr) : Option Trap :=
  if s.me.ih && s.myCore.storeTrapPending s.curCtx && (destsOf i).any (fun n => decide (60 ≤ n) && (s.portTarget n).isSome) then
    some { code := 11 }
  else none

/-- The slot word of an instruction. -/
def wordOf (i : Instr) : W32 := (encode i).headD 0

/-- Issue one instruction of the issuing context (R16): guard, sequencer's set (R349), waits, operand traps, the unit's
wait (R355), then its own effect, after which the port words it read are dequeued (R17). -/
def runInstr (i : Instr) (s : State) (body : Vals → State → Res Unit) : Result :=
  if !s.me.live then .fault .notLive
  else if s.viewCtx.regs.predPending (guardPred i.fields.guard) then .next { s with issue := .waiting }
  else if !s.guarded i then .next { s with issue := .done }
  else if 11 ≤ s.curCtx ∧ seqAllowed s.curCtx i = false then .next (s.takeTrap (Trap.illegal 6) i.isA (wordOf i))
  else if (s.portTrap i).isNone && (s.stalled i || s.unitBusy i) then .next { s with issue := .waiting }
  else
    match (s.portTrap i).orElse fun _ => s.operandTrap i with
    | some t => .next (s.takeTrap t i.isA (wordOf i))
    | none =>
      match if needsOldest i then s.irrevocable else some s with
      | none => .next { s with issue := .waiting }
      | some s0 =>
        match body (valsOf i s0) s0 with
        | .ok _ s1 => .next { s1.dequeue ((s0.sources i).map (·.reg)) with issue := .done }
        | .wait s1 => .next { s1 with issue := .waiting }
        | .trap t k => .next ((k.getD s0).takeTrap t i.isA (wordOf i))

/-- The sticky flags of an A-slot instruction (R176, R177, R193). -/
def State.stick (s : State) (e : FEv) (ivFlag : Bool) : State :=
  let f := e.sticky ivFlag
  if f = 0 then s else s.setMe { s.me with fpcr := s.me.fpcr ||| f }

/-- The context is not ready until an event of the table ends this wait (R342). -/
def State.waitFor (s : State) (w : Wait) : State := s.setMe { s.me with wait := some w, grant := none }

/-- The wait is over: the reissued bundle completes. -/
def State.endWait (s : State) : State := s.setMe { s.me with wait := none, grant := none }

/-- An event ends the wait of a context that satisfies a test; its bundle issues again. -/
def State.endWaitOf (s : State) (name : String) (core k : Nat) (test : Wait → Bool) (g : Option Grant) : Result :=
  let x := s.ctx core k
  match x.wait with
  | some w => if x.live && test w then .next (s.setCtx core k { x with wait := none, grant := g }) else .fault (.notEnabled name)
  | none => .fault (.notEnabled name)

/-- The event happens where the condition holds. -/
def happens (name : String) (o : Option State) : Result :=
  match o with
  | some s => .next s
  | none => .fault (.notEnabled name)

/-- Give every store of the context to the rule that waits for them (R296, R299, R301): the meaning goes on when none is
left and no store fault waits to be delivered; otherwise the bundle waits, and the trap is delivered at this boundary. A handler meets
the fault of a store of its program precisely here, as a double fault (R299, R362). -/
def afterStores (s : State) (k : State → Res Unit) : Res Unit :=
  if s.storesDone s.curCore s.curCtx then k s
  else if s.me.ih && s.myCore.storeTrapPending s.curCtx then .trap { code := 11 } none
  else .wait s

/-- Earlier loads and atomics of the context have completed: nothing is owed to it (R158). -/
def State.nothingOwed (s : State) : Bool := !s.myCore.owed.any fun o => o.ctx == s.curCtx

def afterLoads (s : State) (k : State → Res Unit) : Res Unit := if s.nothingOwed then k s else .wait s

end Sys2Proof.Machine
end

