-- ==== Sys2Proof/Machine/LoadStore.lean ====
section
/-! DEFINITION. Accesses of a context by address: forming and checking the address (R287, R288), migration of a plain access
to another package (R79, R369, R370), loads (R290–R292, R295), stores at issue (R293), and the accesses of a speculative
task (R355). -/

namespace Sys2Proof.Machine

/-! ## The address -/

/-- The sum of R287 where a carry or borrow spoils it: what the trap reports. -/
def wrapPtr (p : Word) (d : Int) : Word := mkPtr (tagOf p) (((lowOf p : Int) + d) % 2 ^ 56).toNat

/-- An access's own address: the generic address, the pointer normalised as in R133, and where it leads. -/
structure Target where
  va : Word
  norm : Word
  place : Place
deriving DecidableEq, Repr

def Place.norm : Place → Word
  | .flat va => mkPtr 0 va
  | .remote pkg va => mkPtr (pkg + 1) va
  | .window _ n => n

/-- Form the address from a base and a displacement, check it under R64, R105, R116 and its alignment (R287, R288). -/
def State.target (s : State) (base : Word) (disp : Int) (size : Nat) : Except Trap Target :=
  match addPtr base disp with
  | none => .error (Trap.address (wrapPtr base disp))
  | some va =>
    if va.toNat % size ≠ 0 then .error (Trap.address va)
    else
      match s.place s.who va size with
      | none => .error (Trap.address va)
      | some p => .ok ⟨va, p.norm, p⟩

/-- The trap of a translation that fails (R51, R70, R71, R359). -/
def TFault.trap (f : TFault) (va : Word) (acc : Acc) : Trap :=
  match f with
  | .page c => { code := 6, reason := c, addr := va, arg := BitVec.ofNat 64 acc.arg }
  | .world => { code := 10, addr := va }
  | .unbacked pa => { code := 9, addr := va, arg := BitVec.ofNat 64 pa }

/-! ## Migration -/

/-- Why a context does not migrate (R369). -/
def State.stays (s : State) : Option Nat :=
  let x := s.me
  if s.curCtx = 0 ∨ 11 ≤ s.curCtx then some 1
  else if x.pfu.isSome then some 2
  else if 8 < x.psize.toNat ∨ x.ih ∨ s.myCore.ownsRelay s.curCtx then some 3
  else if x.grant = some .refused then some 4
  else none

/-- A plain access to another package's memory (R79, R369, R370): the task is shipped there once its earlier accesses are
complete, with its launch, and the helper waits for the notice. A task that came from another package takes its first origin along (log
41). A speculative task first becomes irrevocable (R355). -/
def State.migrate (s : State) (va : Word) (pkg : Nat) : Res Unit :=
  match s.irrevocable with
  | none => .wait s
  | some s =>
  match s.stays with
  | some r => .trap { code := 14, reason := r, addr := va } (some s)
  | none =>
    afterLoads s fun s => afterStores s fun s =>
      let x := s.me
      let s1 := (s.syncL1 (clusterOf s.curCore) .pod).writeBack s.curCore x x.pc
      let bytes := s1.bytesAt (spKey s.curCore x.wp.toNat) (512 + 512 * x.psize.toNat)
      let cap := (s.cluster (clusterOf s.curCore)).pkey
      let s2 := s1.setMe { x with watch := none }
      .wait ((s2.emit (.migrate pkg (clusterOf s.curCore) s.curCore s.curCtx x.psize.toNat bytes x.prio x.group cap x.launch
        x.origin)).waitFor .away)

/-! ## Speculative tasks -/

/-- The issuing context's task while it may still be aborted (R353, R355). -/
def State.spec (s : State) : Option PfuTask :=
  match s.taskOf s.curCore s.curCtx with
  | some (_, t) => if t.state = .irrevocable then none else some t
  | none => none

/-- The sectors of an access. -/
def sectorsOf (k n : Nat) : List Nat := if sectorOf k = sectorOf (k + n - 1) then [sectorOf k] else [sectorOf k, sectorOf (k + n - 1)]

/-- An access that a speculative task performs under tracking (R355): scope CLUSTER or narrower, MT 0 or 1, or a window
other than 0xF1. -/
def tracked (tag : Nat) (sc : Scope) (mt : Option MemType) : Bool :=
  !(sc.wider .cluster) && tag != 0xF1 &&
    (match mt with
    | some m => m == .writeBack || m == .writeThrough
    | none => true)

/-- Accesses through 0xF1 are neither tracked nor held back (R355). -/
def untracked (tag : Nat) : Bool := tag == 0xF1

/-- A load of a sector in the write set of an older uncommitted task waits (R355). -/
def State.olderWrites (s : State) (t : PfuTask) (secs : List Nat) : Bool :=
  (s.cluster (clusterOf s.curCore)).pfu.any fun u => u.before t && secs.any u.writes.contains

/-- The task's own held bytes over the bytes of memory (R355). -/
def PfuTask.overlay (t : PfuTask) (k : Nat) (bs : List Byte) : List Byte :=
  (List.range bs.length).map fun i =>
    t.held.foldl (fun b h =>
      if h.key ≤ k + i ∧ k + i < h.key + h.size then BitVec.ofNat 8 (h.data.toNat / 256 ^ (k + i - h.key)) else b) ((bs[i]?).getD 0)

/-- The task holds every byte of a range. -/
def PfuTask.covers (t : PfuTask) (k n : Nat) : Bool :=
  (List.range n).all fun i => t.held.any fun h => decide (h.key ≤ k + i) && decide (k + i < h.key + h.size)

/-- The bytes of a held write that a younger direct write leaves. -/
def HeldWrite.without (k n : Nat) (h : HeldWrite) : List HeldWrite :=
  if h.key + h.size ≤ k ∨ k + n ≤ h.key then [h]
  else
    (List.range h.size).filterMap fun i =>
      if k ≤ h.key + i ∧ h.key + i < k + n then none
      else some { h with key := h.key + i, size := 1, data := h.data >>> (8 * i) }

/-- Whether an access of the issuing context is speculative, may go on untracked, or must wait (R355). -/
inductive SpecMode where
  | direct (s : State)
  | spec (t : PfuTask)
  | wait
deriving Repr

/-- Which sets an access adds to: an atomic to both (R355). -/
inductive SpecUse where
  | read | write | both
deriving DecidableEq, Repr

/-- The mode of an access whose sectors and memory type are known. -/
def State.specMode (s : State) (tag : Nat) (sc : Scope) (mt : Option MemType) (k n : Nat) (u : SpecUse) : SpecMode :=
  match s.spec with
  | none => .direct s
  | some t =>
    if untracked tag then .direct s
    else
      let secs := sectorsOf k n
      let full := (u != .read && decide (64 < (addAll t.writes secs).length)) || (u != .write && decide (64 < (addAll t.reads secs).length))
      if tracked tag sc mt && !full then (if u != .write && s.olderWrites t secs then .wait else .spec t)
      else
        match s.irrevocable with
        | some s1 => .direct s1
        | none => .wait

/-! ## Loads -/

/-- The store of the context that a load reads from the buffer, or the load must wait (R295): `some (some v)` supplies the
bytes, `some none` means that no entry holds them, `none` that the load waits. Stores set aside do not hold a load back
(R297). -/
def forward (su : StoreUnit) (ctx : Nat) (ih : Bool) (r : Range) : Option (Option Nat) :=
  let step := fun (acc : Option (Option Nat)) (m : StoreEntry × Bool) =>
    let q := rangeOf m.1.norm m.1.size
    if q.tag = r.tag ∧ q.lo ≤ r.lo ∧ r.lo + r.len ≤ q.lo + q.len then
      some (some (m.1.data.toNat / 256 ^ (r.lo - q.lo) % 256 ^ r.len))
    else if q.overlaps r && !m.2 then none
    else acc
  (su.marked ctx ih false su.buf).foldl step (some none)

/-- A store fault of the context that waits for delivery covers the load's bytes (R299); a handler does not meet those of its own stores
(R297). -/
def State.faultOverlap (s : State) (r : Range) : Bool :=
  s.myCore.storeTrapPending s.curCtx && s.myCore.su.slots.any fun o => match o with
    | some f => f.entry.ctx == s.curCtx && !f.delivered && !(s.me.ih && f.entry.ih) && (rangeOf f.entry.norm f.entry.size).overlaps r
    | none => false

/-- The fault of a store of the program waits while its handler runs: what meets it there is a double fault (R299, R362). -/
def State.doubleFault (s : State) : Bool := s.me.ih && s.myCore.storeTrapPending s.curCtx

/-- The value of a load: bytes, or poison. -/
abbrev Loaded := Option Nat

/-- A load from a window (R105, R106, R116, R119). -/
def State.windowLoad (s : State) (k n : Nat) : Loaded := if s.poisonedAt k n then none else some (s.natAt k n)

/-- A load at a physical address (R50, R51, R76, R111, R291): the register window, the host window, memory as the cluster
sees it, or HBM for an uncacheable or device page. None: a reserved register offset. -/
def State.flatLoad (s : State) (pa n : Nat) (mt : MemType) (pol : Nat) : Option (Loaded × State) :=
  let cl := clusterOf s.curCore
  if windowBase ≤ pa ∧ pa < windowEnd then (s.windowRead (s.partOf s.curCore) pa n).map fun b => (some (bytesToNat b), s)
  else if hostBase ≤ pa then
    let (w, s1) := s.fresh
    some (some (w.toNat % 256 ^ n), s1)
  else
    let s1 := match mt with
      | .writeBack | .writeThrough => s.l1Load s.curCore pa (retainOf pol)
      | .uncacheable => s.reachHome s.curCore (bucketOf pa)
      | .device => s
    if mt = .uncacheable ∨ mt = .device then some (if s1.hbmPoison pa n then none else some (bytesToNat (s1.hbmBytes pa n)), s1)
    else some (if s1.clusterPoison cl pa n then none else some (bytesToNat (s1.clusterBytes cl pa n)), s1)

/-- Bytes that an alias of a running copy's destination reaches are undefined (R133). -/
def State.throughAlias (s : State) (va pa n : Nat) (r : Loaded × State) : Loaded × State :=
  if s.aliasHit s.curCore va pa n then
    let (w, s1) := r.2.fresh
    (some (w.toNat % 256 ^ n), s1)
  else r

/-- The acquire part of an access (R98, R99, R113): the scope check, which is held while the record is carried to another slice (R104),
the invalidation, the synchronisation line. -/
def State.acquire (s : State) (va : Word) (sp : Spot) (sc : Scope) (k : State → Res Loaded) : Res Loaded :=
  match s.checkCarried (clusterOf s.curCore) sp sc with
  | some line => .wait (s.waitFor (.carried line))
  | none =>
  match s.mismatch s.curCore sp sc with
  | some r => .trap { code := 7, addr := va, arg := releaserWord r } none
  | none => k ((s.dropL1 (clusterOf s.curCore) sc).touchLine s.curCore sp none (sc.wider .cluster))

/-- What a task reads of a range: its own held bytes over what memory or its buffer gives (R355). -/
def PfuTask.sees (t : PfuTask) (k n : Nat) (base : Loaded) : Loaded :=
  let lay := fun (v : Nat) => bytesToNat (t.overlay k (natBytes v n))
  if t.covers k n then some (lay 0) else base.map lay

/-- What an access outside the tracked sets reads for the issuing context. -/
def State.own (s : State) (k n : Nat) (base : Loaded) : Loaded :=
  match s.spec with
  | some t => t.sees k n base
  | none => base

/-- The load of a speculative task: the read set grows (R355). -/
def State.specLoad (s : State) (t : PfuTask) (k n : Nat) (base : Loaded) : Res Loaded :=
  .ok (t.sees k n base) (s.setPfu (clusterOf s.curCore) { t with reads := addAll t.reads (sectorsOf k n) })

/-- What a load reads: its context's store in the buffer (R295), or `mem`; the bundle waits while the buffer holds a part. -/
def State.forwarded (s : State) (r : Range) (mem : State → Res Loaded) : Res Loaded :=
  match forward s.myCore.su s.curCtx s.me.ih r with
  | none => .wait s
  | some (some v) => .ok (some v) s
  | some none => mem s

/-- A load of `n` bytes (R291, R292, R295). -/
def State.load (s : State) (t : Target) (n : Nat) (o : MemOpts) : Res Loaded :=
  let r := rangeOf t.norm n
  let ordered := fun (sp : Spot) (k : State → Res Loaded) (s : State) => if o.order.acquires then s.acquire t.va sp o.scope k else k s
  let judged := fun (sp : Spot) (tag : Nat) (mt : Option MemType) (go : State → Res Loaded) (s s0 : State) =>
    match s.specMode tag o.scope mt sp.key n .read with
    | .wait => .wait s0
    | .direct s1 => ordered sp (fun s => (go s).bind fun v s => .ok (s.own sp.key n v) s) s1
    | .spec u => ordered sp (fun s => (go s).bind fun v s => s.specLoad u sp.key n v) s
  if s.faultOverlap r then (if s.doubleFault then .trap { code := 11 } none else .wait s)
  else if s.scoreHit s.curCore r then .wait s
  else
    match t.place with
    | .remote pkg _ => (s.migrate t.va pkg).bind fun _ s => .ok none s
    | .window k norm =>
      judged (.window k norm) (tagOf t.va) none (fun s => s.forwarded r fun s => .ok (s.windowLoad k n) (s.expandKey k)) s s
    | .flat va =>
      match s.translate s.curCore va .read o.scope with
      | .error f => .trap (f.trap t.va .read) none
      | .ok (tr, s1) =>
        if tr.mt == .device && s.doubleFault then .trap { code := 11 } none
        else if s.lineHeld s.curCore tr.pa || (tr.mt == .device && !s.storesDone s.curCore s.curCtx) then .wait s
        else
          judged (.flat tr.pa tr.mt) 0 (some tr.mt) (fun s => s.forwarded r fun s =>
            if tr.disc then .ok (some 0) s
            else
              match s.flatLoad tr.pa n tr.mt o.pol with
              | some q =>
                let q1 := s.throughAlias va tr.pa n q
                .ok q1.1 q1.2
              | none => .trap ((TFault.unbacked tr.pa).trap t.va .read) none) s1 s

/-- A wait takes no effect of its own: only a migration's or a held line's is kept. -/
def Res.orElseWait {α : Type} (r : Res α) (s : State) : Res α :=
  match r with
  | .wait t => if t.me.wait.isSome then .wait t else .wait s
  | r => r

/-- The fill of a load's result (R190, R291). -/
def fillLoad (n : Nat) (sign : Bool) (v : Nat) : Word := if sign then BitVec.ofInt 64 (signed (8 * n) v) else BitVec.ofNat 64 v

/-- A handler of MDRAIN that accesses places in its row buffer after RDONE leaves the buffer's 512 bytes and the row's destination undefined
(R249), whether the engine still has to write the row or has written it and freed the buffer. -/
def State.misuseAt (s : State) (core : Nat) (tok : Word) (l : List (Nat × Nat)) : State :=
  let c := s.core core
  let meets := fun (off : Nat) => l.any fun r => decide (spKey core off < r.1 + r.2) && decide (r.1 < spKey core off + 512)
  let at_ := fun (d : Drain) (j : Nat) => field d.cmd.record 56 4 + 512 * j
  let hit := fun (d : Drain) (q : Nat × Option RowBuf) => match q.2 with
    | some b => b.token == tok && b.released && meets (at_ d q.1)
    | none => false
  let bufs := fun (d : Drain) => (List.range d.bufs.length).zip d.bufs
  let spent := c.mat.spent.filter fun b => b.token == tok && meets b.off
  let offs := (c.mat.drains.flatMap fun d => ((bufs d).filter (hit d)).map fun q => at_ d q.1) ++ spent.map (·.off)
  if offs.isEmpty then s
  else
    let mark := fun (d : Drain) => { d with bufs := (bufs d).map fun q => if hit d q then q.2.map fun b => { b with touched := true } else q.2 }
    let s1 := offs.foldl (fun s o => s.scramble (spKey core o) 512) (s.setCore core { c with mat := { c.mat with drains := c.mat.drains.map mark } })
    (s1.placesOf .write (spent.flatMap (·.dst))).foldl (fun s q =>
      if backedEnd ≤ q.1 ∧ q.1 < spBase then s else ((s.purgeRange (clusterOf core) q.1 q.2).scramble q.1 q.2)) s1

/-- A scalar access of a handler of MDRAIN to its row buffer after RDONE (R249). -/
def State.misuse (s : State) (t : Target) (n : Nat) : State :=
  match s.me.token, t.place with
  | some tok, .window k _ => s.misuseAt s.curCore tok [(k, n)]
  | _, _ => s

/-- A load instruction: address, access, and the result owed to d (R158, R291). -/
def loadOp (i : Instr) (d : BitVec 6) (size : Nat) (sign : Bool) (addr : Vals → Word × Int) (opts : State → MemOpts) (s : State) :
    Result :=
  runInstr i s fun v s =>
    match s.target (addr v).1 (addr v).2 size with
    | .error t => .trap t none
    | .ok t =>
      let s := s.misuse t size
      ((s.load t size (opts s)).bind fun r s => s.owe d.toNat (r.map (fillLoad size sign)) none).orElseWait s

/-- A CI load. -/
def loadCI (i : Instr) (o : CIOps) (size : Nat) (sign : Bool) (s : State) : Result :=
  loadOp i o.d size sign (fun v => (v.a, (memOpts o s.me.cpr size).disp)) (fun s => memOpts o s.me.cpr size) s

/-- LDB (R290). -/
def execLdb (o : CIOps) (s : State) : Result := loadCI (.ldb o) o 1 true s

/-- LDBN (R290). -/
def execLdbn (o : CIOps) (s : State) : Result := loadCI (.ldbn o) o 1 false s

/-- LDH (R290). -/
def execLdh (o : CIOps) (s : State) : Result := loadCI (.ldh o) o 2 true s

/-- LDHN (R290). -/
def execLdhn (o : CIOps) (s : State) : Result := loadCI (.ldhn o) o 2 false s

/-- LDW (R290). -/
def execLdw (o : CIOps) (s : State) : Result := loadCI (.ldw o) o 4 true s

/-- LDWN (R290). -/
def execLdwn (o : CIOps) (s : State) : Result := loadCI (.ldwn o) o 4 false s

/-- LDD (R290). -/
def execLdd (o : CIOps) (s : State) : Result := loadCI (.ldd o) o 8 false s

/-- The options of LDXD and STXD (R289). -/
def indexedOpts (cpr : Word) : MemOpts := ⟨(cpr.extractLsb' 0 3).toNat, .cluster, .rlx, 0⟩

/-- LDXD (R287, R290): the displacement is b × 8, b signed. -/
def execLdxd (o : CROps) (s : State) : Result :=
  loadOp (.ldxd o) o.d 8 false (fun v => (v.a, v.b.toInt * 8)) (fun s => indexedOpts s.me.cpr) s

/-- LDACQ (R289, R292): acquire order in both forms. -/
def execLdacq (o : CIOps) (s : State) : Result :=
  loadOp (.ldacq o) o.d 8 false (fun v => (v.a, (memOpts o s.me.cpr 8).disp)) (fun s => { memOpts o s.me.cpr 8 with order := .acq }) s

/-! ## Stores at issue (R293) -/

/-- Where a new store of the context stands: frozen behind a fault that its trap has not yet been delivered for, else
ready (R297). -/
def Core.newPhase (c : Core) (ctx : Nat) : StorePhase :=
  match findIdx (fun (o : Option FaultSlot) => match o with | some f => f.entry.ctx == ctx && !f.delivered | none => false) c.su.slots with
  | some (i, _) => .frozen i
  | none => .ready

/-- A store enters the buffer, or the bundle waits while it is full (R294). -/
def State.enterStore (s : State) (t : Target) (data : Word) (n : Nat) (o : MemOpts) : Res Unit :=
  let c := s.myCore
  let x := s.me
  if 32 ≤ c.su.buf.length then .wait s
  else
    let e : StoreEntry :=
      { va := t.va, norm := t.norm, data := data, size := n, pol := o.pol, scope := o.scope, order := o.order,
        ctx := s.curCtx, pc := x.pc, bundle := x.bundles, group := x.group, launch := x.launch, ih := x.ih, phase := c.newPhase s.curCtx }
    .ok () (s.setMyCore { c with su := { c.su with buf := c.su.buf ++ [e] } })

/-- A store through 0xF1 of a speculative task is not held (R355): it comes after the writes that the task holds. -/
def State.overHeld (s : State) (k n : Nat) : State :=
  match s.spec with
  | some t => s.setPfu (clusterOf s.curCore) { t with held := t.held.flatMap (HeldWrite.without k n) }
  | none => s

/-- The held write of a store (R78, R355). -/
def HeldWrite.of (sp : Spot) (n : Nat) (data : Word) (o : MemOpts) (va : Nat) (asid : BitVec 15) (tr : Option Trans) : HeldWrite :=
  { key := sp.key, size := n, data := data, pol := o.pol, scope := o.scope, order := o.order, asid := asid,
    mt := match sp with | .flat _ mt => some mt | .window _ _ => none
    norm := match sp with | .flat _ _ => 0 | .window _ p => p
    page := match tr with | some t => va / t.size * t.size | none => 0
    pageSize := match tr with | some t => t.size | none => 0
    glob := match tr with | some t => t.glob | none => false }

/-- A speculative task's store is held by the unit (R355). -/
def State.holdStore (s : State) (t : PfuTask) (h : HeldWrite) : State :=
  let cl := clusterOf s.curCore
  let t1 := { t with held := t.held ++ [h], writes := addAll t.writes (sectorsOf h.key h.size) }
  (s.setPfu cl t1).unitsSee h.key h.size (some (cl, t1))

/-- A store at issue (R293, R355). A speculative task's flat store is translated at once; a translation that fails makes it
wait until it is oldest and take the store's own path. A release in a handler meets the fault of a store of its program (R299). -/
def State.store (s : State) (t : Target) (data : Word) (n : Nat) (o : MemOpts) : Res Unit :=
  if o.order.releases && s.doubleFault then .trap { code := 11 } none
  else if s.scoreHit s.curCore (rangeOf t.norm n) then .wait s
  else
    match t.place with
    | .remote pkg _ => s.migrate t.va pkg
    | .window k _ =>
      (match s.specMode (tagOf t.va) o.scope none k n .write with
      | .wait => .wait s
      | .spec u => .ok () (s.holdStore u (HeldWrite.of (.window k t.norm) n data o 0 0 none))
      | .direct s => (s.enterStore t data n o).bind fun _ s => .ok () (s.overHeld k n))
    | .flat va =>
      match s.spec with
      | none => s.enterStore t data n o
      | some _ =>
        match s.translate s.curCore va .write o.scope with
        | .ok (tr, s1) =>
          (match s1.specMode 0 o.scope (some tr.mt) tr.pa n .write with
          | .wait => .wait s
          | .spec u =>
            .ok () (s1.holdStore u (HeldWrite.of (.flat tr.pa tr.mt) n data o va (ascrAsid s.myCore.regs.ascr) (some tr)))
          | .direct s2 => s2.enterStore t data n o)
        | .error _ =>
          match s.irrevocable with
          | some s1 => s1.enterStore t data n o
          | none => .wait s

/-- A store instruction. -/
def storeOp (i : Instr) (size : Nat) (addr : Vals → Word × Int) (opts : State → MemOpts) (s : State) : Result :=
  runInstr i s fun v s =>
    match s.target (addr v).1 (addr v).2 size with
    | .error t => .trap t none
    | .ok t =>
      let s := s.misuse t size
      (s.store t v.d size (opts s)).orElseWait s

/-- A CI store. -/
def storeCI (i : Instr) (o : CIOps) (size : Nat) (s : State) : Result :=
  storeOp i size (fun v => (v.a, (memOpts o s.me.cpr size).disp)) (fun s => memOpts o s.me.cpr size) s

/-- STB (R293). -/
def execStb (o : CIOps) (s : State) : Result := storeCI (.stb o) o 1 s

/-- STH (R293). -/
def execSth (o : CIOps) (s : State) : Result := storeCI (.sth o) o 2 s

/-- STW (R293). -/
def execStw (o : CIOps) (s : State) : Result := storeCI (.stw o) o 4 s

/-- STD (R293). -/
def execStd (o : CIOps) (s : State) : Result := storeCI (.std o) o 8 s

/-- STXD (R287, R293). -/
def execStxd (o : CROps) (s : State) : Result :=
  storeOp (.stxd o) 8 (fun v => (v.a, v.b.toInt * 8)) (fun s => indexedOpts s.me.cpr) s

/-- STREL (R289, R296): release order in both forms. -/
def execStrel (o : CIOps) (s : State) : Result :=
  storeOp (.strel o) 8 (fun v => (v.a, (memOpts o s.me.cpr 8).disp)) (fun s => { memOpts o s.me.cpr 8 with order := .rel }) s

end Sys2Proof.Machine
end

