-- ==== Sys2Proof/Machine/Scalar.lean ====
section
/-! DEFINITION. The A-slot instructions that are not floating point: integer arithmetic, moves, selection, bit fields, the
generator, and predicate logic (R190–R200, R207). -/

namespace Sys2Proof.Machine

/-! ## Operand width and fill (R190) -/

/-- An n type: operands read as unsigned, results filled with zeros. -/
def isN (t : BitVec 3) : Bool := t.getLsbD 1

/-- A 64-bit type. -/
def isW64 (t : BitVec 3) : Bool := t.getLsbD 0

/-- The fill of a 32-bit result. -/
def fill32 (n : Bool) (r : W32) : Word := if n then r.setWidth 64 else r.signExtend 64

/-- An operation on W-bit operands (`n`: unsigned), its result filled. -/
def intOp (f : (w : Nat) → Bool → BitVec w → BitVec w → BitVec w) (t : BitVec 3) (a b : Word) : Word :=
  if isW64 t then f 64 (isN t) a b else fill32 (isN t) (f 32 (isN t) (a.setWidth 32) (b.setWidth 32))

/-- An A-slot instruction that writes one register, with no event. -/
def aluA (i : Instr) (d : BitVec 6) (f : Vals → Word) (s : State) : Result :=
  runInstr i s fun v s => .ok () (s.setReg d.toNat (f v))

/-- A two-source integer instruction (R194). -/
def intA (i : Instr) (o : AOps) (f : (w : Nat) → Bool → BitVec w → BitVec w → BitVec w) (s : State) : Result :=
  aluA i o.d (fun v => intOp f o.t v.a v.b) s

/-- An immediate form (R195): k is the signed 6-bit b field. -/
def immA (i : Instr) (o : AOps) (f : (w : Nat) → Bool → BitVec w → BitVec w → BitVec w) (s : State) : Result :=
  aluA i o.d (fun v => intOp f o.t v.a (o.b.signExtend 64)) s

/-- A one-source integer instruction (R196). -/
def oneA (i : Instr) (o : AOps) (f : (w : Nat) → Bool → BitVec w → BitVec w) (s : State) : Result :=
  aluA i o.d (fun v => intOp (fun w n x _ => f w n x) o.t v.a 0) s

/-! ## The functions -/

def opAdd (w : Nat) (_ : Bool) (x y : BitVec w) : BitVec w := x + y

def opSub (w : Nat) (_ : Bool) (x y : BitVec w) : BitVec w := x - y

def opMul (w : Nat) (_ : Bool) (x y : BitVec w) : BitVec w := x * y

/-- Bits [2W − 1 : W] of the exact product (R194). -/
def opMulh (w : Nat) (n : Bool) (x y : BitVec w) : BitVec w :=
  if n then BitVec.ofNat w (x.toNat * y.toNat / 2 ^ w) else BitVec.ofInt w (x.toInt * y.toInt / 2 ^ w)

/-- Less than, signed for i types and unsigned for n types. -/
def intLt (w : Nat) (n : Bool) (x y : BitVec w) : Bool := if n then x.ult y else x.slt y

def opMin (w : Nat) (n : Bool) (x y : BitVec w) : BitVec w := if intLt w n y x then y else x

def opMax (w : Nat) (n : Bool) (x y : BitVec w) : BitVec w := if intLt w n x y then y else x

def opAnd (w : Nat) (_ : Bool) (x y : BitVec w) : BitVec w := x &&& y

def opOr (w : Nat) (_ : Bool) (x y : BitVec w) : BitVec w := x ||| y

def opXor (w : Nat) (_ : Bool) (x y : BitVec w) : BitVec w := x ^^^ y

def opAndn (w : Nat) (_ : Bool) (x y : BitVec w) : BitVec w := x &&& ~~~y

/-- The shifts take s := y mod W (R194). -/
def opShl (w : Nat) (_ : Bool) (x y : BitVec w) : BitVec w := x <<< (y.toNat % w)

def opShr (w : Nat) (_ : Bool) (x y : BitVec w) : BitVec w := x >>> (y.toNat % w)

def opSar (w : Nat) (_ : Bool) (x y : BitVec w) : BitVec w := x.sshiftRight (y.toNat % w)

def opRot (w : Nat) (_ : Bool) (x y : BitVec w) : BitVec w := x.rotateLeft (y.toNat % w)

/-- DIV (R197): truncated toward zero; division by zero gives all ones. -/
def opDiv (w : Nat) (n : Bool) (x y : BitVec w) : BitVec w :=
  if y = 0 then BitVec.allOnes w else if n then x / y else x.sdiv y

/-- REM (R197): the sign of the dividend; a zero divisor gives the dividend. -/
def opRem (w : Nat) (n : Bool) (x y : BitVec w) : BitVec w := if y = 0 then x else if n then x % y else x.srem y

def opMov (w : Nat) (_ : Bool) (x : BitVec w) : BitVec w := x

/-- Leading zeros of x in W bits; W for 0 (R196). -/
def opClz (w : Nat) (_ : Bool) (x : BitVec w) : BitVec w :=
  BitVec.ofNat w (if x = 0 then w else w - 1 - Nat.log2 x.toNat)

/-- One bits of a number among its low bits. -/
def ones : Nat → Nat → Nat
  | 0, _ => 0
  | k + 1, v => v % 2 + ones k (v / 2)

def opPopc (w : Nat) (_ : Bool) (x : BitVec w) : BitVec w := BitVec.ofNat w (ones w x.toNat)

def opAbs (w : Nat) (n : Bool) (x : BitVec w) : BitVec w := if n then x else if x.slt 0 then -x else x

def opNeg (w : Nat) (_ : Bool) (x : BitVec w) : BitVec w := -x

/-- SEXT (R196): the type code is a source width, 8 << code. -/
def sextOf (t : BitVec 3) (a : Word) : Word :=
  match t.toNat with
  | 0 => (a.setWidth 8).signExtend 64
  | 1 => (a.setWidth 16).signExtend 64
  | 2 => (a.setWidth 32).signExtend 64
  | _ => a

/-- The field of BFX and BFI (R199): pos and L. -/
def fieldSpec (w : Nat) (b : BitVec w) : Nat × Nat :=
  let pos := b.toNat % 64 % w
  (pos, min (b.toNat / 2 ^ 8 % 2 ^ 7) (w - pos))

def opBfx (w : Nat) (n : Bool) (x y : BitVec w) : BitVec w :=
  let p := fieldSpec w y
  if p.2 = 0 then 0
  else
    let f := x.toNat / 2 ^ p.1 % 2 ^ p.2
    if n then BitVec.ofNat w f else BitVec.ofInt w (signed p.2 f)

def bfiBits (w : Nat) (d x y : BitVec w) : BitVec w :=
  let p := fieldSpec w y
  if p.2 = 0 then d
  else
    let m := BitVec.ofNat w ((2 ^ p.2 - 1) * 2 ^ p.1)
    (d &&& ~~~m) ||| ((x <<< p.1) &&& m)

def bfiOf (t : BitVec 3) (d x y : Word) : Word :=
  if isW64 t then bfiBits 64 d x y else fill32 (isN t) (bfiBits 32 (d.setWidth 32) (x.setWidth 32) (y.setWidth 32))

/-- RNDC (R200), the same for every type. -/
def rndcOf (a b : Word) : Word :=
  let x0 : W32 := (b ^^^ a).setWidth 32
  let x1 := x0 * 0x0019660D + 0x3C6EF35F
  (x1 ^^^ (x1 >>> 16)).setWidth 64

/-! ## Two-source and immediate instructions (R194, R195) -/

/-- ADD (R194). -/
def execAdd (o : AOps) (s : State) : Result := intA (.add o) o opAdd s

/-- SUB (R194). -/
def execSub (o : AOps) (s : State) : Result := intA (.sub o) o opSub s

/-- MUL (R194). -/
def execMul (o : AOps) (s : State) : Result := intA (.mul o) o opMul s

/-- MULH (R194). -/
def execMulh (o : AOps) (s : State) : Result := intA (.mulh o) o opMulh s

/-- MIN (R194). -/
def execMin (o : AOps) (s : State) : Result := intA (.min o) o opMin s

/-- MAX (R194). -/
def execMax (o : AOps) (s : State) : Result := intA (.max o) o opMax s

/-- AND (R194). -/
def execAnd (o : AOps) (s : State) : Result := intA (.and o) o opAnd s

/-- OR (R194). -/
def execOr (o : AOps) (s : State) : Result := intA (.or o) o opOr s

/-- XOR (R194). -/
def execXor (o : AOps) (s : State) : Result := intA (.xor o) o opXor s

/-- ANDN (R194). -/
def execAndn (o : AOps) (s : State) : Result := intA (.andn o) o opAndn s

/-- SHL (R194). -/
def execShl (o : AOps) (s : State) : Result := intA (.shl o) o opShl s

/-- SHR (R194). -/
def execShr (o : AOps) (s : State) : Result := intA (.shr o) o opShr s

/-- SAR (R194). -/
def execSar (o : AOps) (s : State) : Result := intA (.sar o) o opSar s

/-- ROT (R194). -/
def execRot (o : AOps) (s : State) : Result := intA (.rot o) o opRot s

/-- BFX (R199). -/
def execBfx (o : AOps) (s : State) : Result := intA (.bfx o) o opBfx s

/-- ADDI (R195). -/
def execAddi (o : AOps) (s : State) : Result := immA (.addi o) o opAdd s

/-- SHLI (R195). -/
def execShli (o : AOps) (s : State) : Result := immA (.shli o) o opShl s

/-- SHRI (R195). -/
def execShri (o : AOps) (s : State) : Result := immA (.shri o) o opShr s

/-- SARI (R195). -/
def execSari (o : AOps) (s : State) : Result := immA (.sari o) o opSar s

/-- ANDI (R195). -/
def execAndi (o : AOps) (s : State) : Result := immA (.andi o) o opAnd s

/-! ## One-source instructions (R196) -/

/-- MOV (R196). -/
def execMov (o : AOps) (s : State) : Result := oneA (.mov o) o opMov s

/-- CLZ (R196). -/
def execClz (o : AOps) (s : State) : Result := oneA (.clz o) o opClz s

/-- POPC (R196). -/
def execPopc (o : AOps) (s : State) : Result := oneA (.popc o) o opPopc s

/-- ABS (R196). -/
def execAbs (o : AOps) (s : State) : Result := oneA (.abs o) o opAbs s

/-- NEG (R196). -/
def execNeg (o : AOps) (s : State) : Result := oneA (.neg o) o opNeg s

/-- SEXT (R196). -/
def execSext (o : AOps) (s : State) : Result := aluA (.sext o) o.d (fun v => sextOf o.t v.a) s

/-- SEL (R198): all 64 bits, no fill. -/
def execSel (o : AOps) (s : State) : Result :=
  aluA (.sel o) o.d (fun v => if s.viewCtx.regs.pred o.t.toNat then v.a else v.b) s

/-- BFI (R199). -/
def execBfi (o : AOps) (s : State) : Result := aluA (.bfi o) o.d (fun v => bfiOf o.t v.d v.a v.b) s

/-- RNDC (R200). -/
def execRndc (o : AOps) (s : State) : Result := aluA (.rndc o) o.d (fun v => rndcOf v.a v.b) s

/-! ## Division (R192, R197) -/

/-- The divisor is zero in the operand width. -/
def divByZero (t : BitVec 3) (b : Word) : Bool := if isW64 t then b == 0 else b.setWidth 32 == 0#32

/-- A long-latency integer division: ev.divzero is counted with the result. -/
def divA (i : Instr) (o : AOps) (f : (w : Nat) → Bool → BitVec w → BitVec w → BitVec w) (s : State) : Result :=
  runInstr i s fun v s =>
    s.oweWith o.d.toNat (some (intOp f o.t v.a v.b)) none { unit? := some 0, ev := { dz := if divByZero o.t v.b then 1 else 0 } }

/-- DIV (R197). -/
def execDiv (o : AOps) (s : State) : Result := divA (.div o) o opDiv s

/-- REM (R197). -/
def execRem (o : AOps) (s : State) : Result := divA (.rem o) o opRem s

/-! ## Predicate logic (R207) -/

/-- The function that PLOG's type field selects. -/
def plogOf (t : BitVec 3) (x y : Bool) : Bool :=
  match t.toNat with
  | 0 => x && y
  | 1 => x || y
  | 2 => x != y
  | 3 => x && !y
  | 4 => x || !y
  | 5 => x
  | 6 => true
  | _ => false

/-- PLOG (R207). -/
def execPlog (o : AOps) (s : State) : Result :=
  runInstr (.plog o) s fun _ s =>
    let r := s.viewCtx.regs
    .ok () (s.setPair o.d (plogOf o.t (r.pred (lowPred o.a)) (r.pred (lowPred o.b))))

end Sys2Proof.Machine
end

