-- ==== Sys2Proof/Machine/ScalarFloat.lean ====
section
/-! DEFINITION. The floating-point A-slot instructions: arithmetic, minimum and maximum, special functions, classes,
conversions and compares (R193, R201–R206). -/

namespace Sys2Proof.Machine

/-- The format of a floating-point type code (R28). -/
def ffmtOf (t : BitVec 3) : FFmt := if t = 4 then .f32 else if t = 5 then .f16 else .bf16

/-- The low bits of a source in a format (R190). -/
def FFmt.bitsOf (f : FFmt) (v : Word) : Nat := v.toNat % 2 ^ f.width

/-- An operand of a format, flushed under R185. -/
def FFmt.operand (f : FFmt) (fz : Bool) (v : Word) : FVal × FEv := flushIn fz f (f.decode (f.bitsOf v))

/-- A result of an A-slot instruction with its events and flags, which are performed with it (R189, R193): written at once, or owed by
a unit (R192). -/
def putResult (o : AOps) (long : Option Nat) (bits : Nat) (ev : FEv) (iv : Bool) (s : State) : Res Unit :=
  match long with
  | some u => s.oweWith o.d.toNat (some (BitVec.ofNat 64 bits)) none ⟨some u, ev, ev.sticky iv⟩
  | none => .ok () (((s.countEv s.curCore ev).stick ev iv).setReg o.d.toNat (BitVec.ofNat 64 bits))

/-- A rounded arithmetic instruction (R201): operands flushed, one rounding with FPCR.RM. -/
def arithA (i : Instr) (o : AOps) (long : Option Nat) (f : RMode → FVal → FVal → FVal → XVal) (s : State) : Result :=
  runInstr i s fun v s =>
    let c := s.viewCtx.fpcr
    let ff := ffmtOf o.t
    let a := ff.operand (fzOf c) v.a
    let b := ff.operand (fzOf c) v.b
    let d := ff.operand (fzOf c) v.d
    let r := finish ff (RMode.ofFpcr c) (fzOf c) (f (RMode.ofFpcr c) a.1 b.1 d.1)
    putResult o long r.1 (((a.2.add b.2).add d.2).add r.2) false s

/-- FADD (R201). -/
def execFadd (o : AOps) (s : State) : Result := arithA (.fadd o) o none (fun m a b _ => addX m a b) s

/-- FSUB (R201). -/
def execFsub (o : AOps) (s : State) : Result := arithA (.fsub o) o none (fun m a b _ => addX m a b.negate) s

/-- FMUL (R201). -/
def execFmul (o : AOps) (s : State) : Result := arithA (.fmul o) o none (fun _ a b _ => mulX a b) s

/-- FMA (R201): d + a × b. -/
def execFma (o : AOps) (s : State) : Result := arithA (.fma o) o none (fun m a b d => fmaX m a b d) s

/-- FMS (R201): d − a × b. -/
def execFms (o : AOps) (s : State) : Result := arithA (.fms o) o none (fun m a b d => fmaX m a.negate b d) s

/-- FDIV (R201). -/
def execFdiv (o : AOps) (s : State) : Result := arithA (.fdiv o) o (some 1) (fun _ a b _ => divX a b) s

/-- FSQRT (R201). -/
def execFsqrt (o : AOps) (s : State) : Result := arithA (.fsqrt o) o (some 1) (fun _ a _ _ => sqrtX a) s

/-! ## Without rounding (R202, R204) -/

/-- FMIN and FMAX (R187). -/
def minmaxA (i : Instr) (o : AOps) (wantMax : Bool) (s : State) : Result :=
  runInstr i s fun v s =>
    let c := s.viewCtx.fpcr
    let ff := ffmtOf o.t
    let a := ff.operand (fzOf c) v.a
    let b := ff.operand (fzOf c) v.b
    let r := minmax wantMax a.1 b.1
    putResult o none (finish ff .rne false r.1.toX).1 ((a.2.add b.2).add r.2) false s

/-- FMIN (R202). -/
def execFmin (o : AOps) (s : State) : Result := minmaxA (.fmin o) o false s

/-- FMAX (R202). -/
def execFmax (o : AOps) (s : State) : Result := minmaxA (.fmax o) o true s

/-- FABS (R202): the sign bit alone. -/
def execFabs (o : AOps) (s : State) : Result :=
  aluA (.fabs o) o.d (fun v => BitVec.ofNat 64 ((ffmtOf o.t).bitsOf v.a % 2 ^ ((ffmtOf o.t).width - 1))) s

/-- FNEG (R202): the sign bit alone. -/
def execFneg (o : AOps) (s : State) : Result :=
  aluA (.fneg o) o.d (fun v => BitVec.ofNat 64 (((ffmtOf o.t).bitsOf v.a + 2 ^ ((ffmtOf o.t).width - 1)) % 2 ^ (ffmtOf o.t).width)) s

/-- The bit of FCLASS's mask (R204). -/
def classBit (f : FFmt) (bits : Nat) : Nat :=
  match f.decode bits with
  | .nan true => 8
  | .nan false => 9
  | .inf n => if n then 0 else 7
  | .fin n m _ => if m = 0 then (if n then 3 else 4) else if f.subnormal bits then (if n then 2 else 5) else (if n then 1 else 6)

/-- FCLASS (R204). -/
def execFclass (o : AOps) (s : State) : Result :=
  aluA (.fclass o) o.d (fun v => BitVec.ofNat 64 (2 ^ classBit (ffmtOf o.t) ((ffmtOf o.t).bitsOf v.a))) s

/-! ## Special functions (R203)

Exact results follow the manual's table. Every other result is a value that R203 bounds and does not state: the
free value `Config.special`, where it lies within the bound, otherwise the exact value rounded to nearest (log 13). The
exact value is computed here in fixed point with 128 fraction bits, and by its series where the operand is small. -/

inductive Special where
  | rcp | rsq | exp2 | log2 | sin | cos | tanh
deriving DecidableEq, Repr

def Special.num : Special → Nat
  | .rcp => 0 | .rsq => 1 | .exp2 => 2 | .log2 => 3 | .sin => 4 | .cos => 5 | .tanh => 6

def fxOne : Int := 2 ^ 128

def fxLn2 : Int := 0xb17217f7d1cf79abc9e3b39803f2f6af

def fxPi : Int := 0x3243f6a8885a308d313198a2e03707344

def fxLog2e : Int := 0x171547652b82fe1777d0ffda0d23a7d11

def fxMul (a b : Int) : Int := a * b / fxOne

/-- m × 2^e in fixed point, rounded down. -/
def fxOf (m : Nat) (e : Int) : Int := if 0 ≤ e + 128 then (m : Int) * 2 ^ (e + 128).toNat else (m : Int) / 2 ^ (-(e + 128)).toNat

/-- The sum of the exponential series of x, from term k on. -/
def fxExp (x : Int) : Nat → Nat → Int → Int
  | 0, _, _ => 0
  | fuel + 1, k, term => term + fxExp x fuel (k + 1) (fxMul term x / (k + 1 : Nat))

/-- The alternating series of x whose terms step by x² ÷ (k + 1)(k + 2). -/
def fxTrig (x2 : Int) : Nat → Nat → Int → Int
  | 0, _, _ => 0
  | fuel + 1, k, term => term + fxTrig x2 fuel (k + 2) (-(fxMul term x2) / ((k + 1) * (k + 2) : Nat))

/-- A value in fixed point times a power of two. -/
structure Approx where
  m : Int
  e : Int
deriving DecidableEq, Repr

/-- 2^x for x in fixed point. -/
def approxExp2 (x : Int) : Approx := ⟨fxExp (fxMul (x % fxOne) fxLn2) 48 0 fxOne, x / fxOne - 128⟩

/-- log2 of y in [1, 2), bit by bit. -/
def fxLog2 (y : Int) : Nat → Nat → Int
  | 0, _ => 0
  | fuel + 1, k =>
    let z := fxMul y y
    if 2 * fxOne ≤ z then 2 ^ (128 - k) + fxLog2 (z / 2) fuel (k + 1) else fxLog2 z fuel (k + 1)

def approxLog2 (m : Nat) (e : Int) : Approx :=
  let t := topExp m e
  ⟨t * fxOne + fxLog2 (fxOf m (e - t)) 100 1, -128⟩

def approxSin (neg : Bool) (x : Int) : Approx :=
  let r := x % (2 * fxPi)
  let v := fxTrig (fxMul r r) 60 1 r
  ⟨if neg then -v else v, -128⟩

def approxCos (x : Int) : Approx :=
  let r := x % (2 * fxPi)
  ⟨fxTrig (fxMul r r) 60 0 fxOne, -128⟩

/-- tanh by (1 − t) ÷ (1 + t) with t = 2^(−2x log2 e). -/
def approxTanh (neg : Bool) (x : Int) : Approx :=
  if 64 * fxOne ≤ x then ⟨if neg then -fxOne else fxOne, -128⟩
  else
    let p := approxExp2 (-(fxMul (2 * x) fxLog2e))
    let t := p.m / 2 ^ (-(p.e + 128)).toNat
    let v := (fxOne - t) * fxOne / (fxOne + t)
    ⟨if neg then -v else v, -128⟩

/-- a − a³ ÷ k for a small a = m × 2^e, with e < 0: the sine (k = 6) and the hyperbolic tangent (k = 3) to within a^5. -/
def approxTiny (neg : Bool) (m : Nat) (e : Int) (k : Nat) : Approx :=
  let v : Int := (m * 2 ^ (3 - 2 * e).toNat : Nat) - (8 * m ^ 3 / k : Nat)
  ⟨if neg then -v else v, 3 * e - 3⟩

/-- The exact result, approximated, of an operand (−1)^neg × m × 2^e with m ≠ 0. -/
def Special.approx (f : Special) (neg : Bool) (m : Nat) (e : Int) : Approx :=
  let sg := fun (v : Int) => if neg then -v else v
  match f with
  | .rcp => ⟨sg (2 ^ 256 / m : Nat), -e - 256⟩
  | .rsq =>
    let k : Nat := 200 + (if (e + 200) % 2 = 0 then 0 else 1)
    ⟨(2 ^ 256 / isqrt (m * 2 ^ k) : Nat), -256 - (e - k) / 2⟩
  | .exp2 => approxExp2 (if neg then -(fxOf m e) else fxOf m e)
  | .log2 => approxLog2 m e
  | .sin => if topExp m e < -32 then approxTiny neg m e 6 else approxSin neg (fxOf m e)
  | .cos => approxCos (fxOf m e)
  | .tanh => if topExp m e < -32 then approxTiny neg m e 3 else approxTanh neg (fxOf m e)

/-- A bound on |r − x| (R203): so many ulps of x, or an absolute error 2^−k, whichever is larger. -/
structure Bound where
  ulps : Nat
  absExp : Option Int
deriving DecidableEq, Repr

/-- The bound of a function at an operand whose magnitude is m × 2^e (R203). -/
def Special.bound (f : Special) (m : Nat) (e : Int) : Bound :=
  match f with
  | .rcp | .rsq => ⟨1, none⟩
  | .exp2 => ⟨2, none⟩
  | .log2 => if magLe 1 (-1) m e && magLe m e 1 1 then ⟨0, some (-22)⟩ else ⟨2, none⟩
  | .sin | .cos => ⟨0, some (-22)⟩
  | .tanh => ⟨2, some (-23)⟩

/-- The absolute bound as a multiple of 2^q. -/
def Bound.at (b : Bound) (x : Approx) (q : Int) : Int :=
  let top := topExp x.m.natAbs x.e
  let u : Int := b.ulps * 2 ^ (max (top - 23) (-149) - q).toNat
  match b.absExp with
  | some k => max u (2 ^ (k - q).toNat)
  | none => u

/-- The f32 value of `c` lies within the bound of x. -/
def within (b : Bound) (x : Approx) (c : Nat) : Bool :=
  match FFmt.f32.decode c with
  | .fin n m e =>
    let q := min (min x.e e) (-200)
    let r : Int := (if n then -1 else 1) * ((m * 2 ^ (e - q).toNat : Nat) : Int)
    decide ((r - x.m * 2 ^ (x.e - q).toNat).natAbs ≤ (b.at x q).natAbs)
  | _ => false

/-- An f16 or bf16 result is one of the two values of the type that neighbour the exact one (R203). -/
def neighbours (ff : FFmt) (x : Approx) (c : Nat) : Bool :=
  let v : XVal := .num (decide (x.m < 0)) x.m.natAbs x.e true
  let r := (convF ff .rne (FFmt.f32.decode c)).1
  ff == .f32 || r == (finish ff .rdn false v).1 || r == (finish ff .rup false v).1

/-- The f32 result (R203): the free value within the bounds of the function and of the type `ff`, otherwise the nearest; with its
events. -/
def specialF32 (f : Special) (ff : FFmt) (t : Nat) (opnd : Word) (neg : Bool) (m : Nat) (e : Int) : Nat × FEv :=
  let c := (Config.special f.num t opnd).toNat % 2 ^ 32
  if (f == .sin || f == .cos) && !magLe m e 1 15 then
    -- an unpredictable value in [−1, 1]
    (if within ⟨0, some 0⟩ ⟨0, 0⟩ c then c else 0, { ix := 1 })
  else
    let x := f.approx neg m e
    if within (f.bound m e) x c && neighbours ff x c then (c, { ix := 1 })
    else
      let r := finish .f32 .rne false (.num (decide (x.m < 0)) x.m.natAbs x.e true)
      (r.1, { r.2 with ix := 1 })

/-- m is a power of two times 2^e: its exponent. -/
def pow2? (m : Nat) (e : Int) : Option Int := if m = 2 ^ Nat.log2 m then some (topExp m e) else none

/-- The rows of R203's second table: the exact result, where there is one. -/
def Special.exact (f : Special) (v : FVal) : Option XVal :=
  match v with
  | .nan q => some (.nan q)
  | .inf n =>
    some (match f with
    | .rcp => .num n 0 0 false
    | .rsq => if n then .nan true else .num false 0 0 false
    | .exp2 => if n then .num false 0 0 false else .inf false false
    | .log2 => if n then .nan true else .inf false false
    | .sin | .cos => .nan true
    | .tanh => .num n 1 0 false)
  | .fin n m e =>
    if m = 0 then
      some (match f with
      | .rcp | .rsq => .inf n true
      | .exp2 | .cos => .num false 1 0 false
      | .log2 => .inf true true
      | .sin | .tanh => .num n 0 0 false)
    else
      match f with
      | .rcp => (pow2? m e).map fun k => .num n 1 (-k) false
      | .rsq =>
        if n then some (.nan true)
        else
          match pow2? m e with
          | some k => if k % 2 = 0 then some (.num false 1 (-(k / 2)) false) else none
          | none => none
      | .exp2 =>
        if fxOf m e * 2 ^ 256 = fxOf m (e + 256) ∧ fxOf m e % fxOne = 0 then
          some (.num false 1 ((if n then -1 else 1) * min (fxOf m e / fxOne) 1000) false)
        else none
      | .log2 =>
        if n then some (.nan true)
        else (pow2? m e).map fun k => .num (decide (k < 0)) k.natAbs 0 false
      | .sin | .cos | .tanh => none

/-- FEXP2 beyond the range of every format: the exact result overflows or underflows (R178). -/
def exp2Limit (neg : Bool) (m : Nat) (e : Int) : Option XVal :=
  if magLe 1 8 m e then some (.num false 1 (if neg then -1000 else 1000) true) else none

/-- A special function (R203): the f32 result, rounded to nearest in the type, flushed under R185; bits and events. -/
def specialBits (f : Special) (ff : FFmt) (t : Nat) (fz : Bool) (v : Word) : Nat × FEv :=
  let a := ff.operand fz v
  let lim := match f, a.1 with
    | .exp2, .fin n m e => exp2Limit n m e
    | _, _ => none
  match (f.exact a.1).orElse fun _ => lim with
  | some x =>
    let r := finish ff .rne fz x
    (r.1, a.2.add r.2)
  | none =>
    match a.1 with
    | .fin n m e =>
      let r := specialF32 f ff t (BitVec.ofNat 64 (ff.bitsOf v)) n m e
      let r1 := if ff = .f32 then (r.1, r.2) else
        let q := convF ff .rne (FFmt.f32.decode r.1)
        (q.1, { q.2 with ix := 1, of := max r.2.of q.2.of })
      let tiny := ff.subnormal r1.1 || r1.1 % 2 ^ (ff.width - 1) == 0
      let uf : FEv := { r1.2 with uf := if tiny then 1 else r1.2.uf }
      if fz && ff.subnormal r1.1 then
        (ff.signBit (r1.1 / 2 ^ (ff.width - 1) == 1), a.2.add { flush := 1, uf := 1, ix := 1 })
      else (r1.1, a.2.add uf)
    | _ => (ff.nan, a.2)

/-- The mould of the special functions (R203). -/
def specialA (i : Instr) (o : AOps) (f : Special) (s : State) : Result :=
  runInstr i s fun v s =>
    let r := specialBits f (ffmtOf o.t) o.t.toNat (fzOf s.viewCtx.fpcr) v.a
    putResult o (some 2) r.1 r.2 false s

/-- FRCP (R203). -/
def execFrcp (o : AOps) (s : State) : Result := specialA (.frcp o) o .rcp s

/-- FRSQ (R203). -/
def execFrsq (o : AOps) (s : State) : Result := specialA (.frsq o) o .rsq s

/-- FEXP2 (R203). -/
def execFexp2 (o : AOps) (s : State) : Result := specialA (.fexp2 o) o .exp2 s

/-- FLOG2 (R203). -/
def execFlog2 (o : AOps) (s : State) : Result := specialA (.flog2 o) o .log2 s

/-- FSIN (R203). -/
def execFsin (o : AOps) (s : State) : Result := specialA (.fsin o) o .sin s

/-- FCOS (R203). -/
def execFcos (o : AOps) (s : State) : Result := specialA (.fcos o) o .cos s

/-- FTANH (R203). -/
def execFtanh (o : AOps) (s : State) : Result := specialA (.ftanh o) o .tanh s

/-! ## Conversions (R205) -/

/-- The range of an integer type code (R172). -/
def intRange (t : Nat) : Int × Int :=
  match t with
  | 0 => (-(2 ^ 31), 2 ^ 31 - 1)
  | 1 => (-(2 ^ 63), 2 ^ 63 - 1)
  | 2 => (0, 2 ^ 32 - 1)
  | _ => (0, 2 ^ 64 - 1)

/-- An integer operand of a type (R190). -/
def intVal (t : Nat) (v : Word) : Int :=
  match t with
  | 0 => (v.setWidth 32).toInt
  | 1 => v.toInt
  | 2 => ((v.setWidth 32).toNat : Int)
  | _ => (v.toNat : Int)

/-- Rounding to an integral value in the same type (R205). -/
def roundIntegral (mode : RMode) (v : FVal) : XVal × FEv :=
  match v with
  | .fin n m e =>
    let r := roundAt mode n m e false 0
    if m = 0 then (.num n 0 0 false, {}) else (.num n r.1 0 false, { ix := if r.2 then 1 else 0 })
  | _ => (v.toX, {})

/-- The result of a conversion: its bits in the destination register, its events, and whether IV is set besides (R205). -/
def convert (mode : RMode) (fz : Bool) (dst src : Nat) (v : Word) : Nat × FEv × Bool :=
  if src < 4 then
    let n := intVal src v
    if dst < 4 then
      let r := clampI (intRange dst).1 (intRange dst).2 n
      (unsignedBits 64 r.1, r.2, false)
    else
      let r := finish (ffmtOf (BitVec.ofNat 3 dst)) mode fz (FVal.ofInt n).toX
      (r.1, r.2, false)
  else
    let sf := ffmtOf (BitVec.ofNat 3 src)
    let a := sf.operand fz v
    if dst < 4 then
      let r := convI mode (intRange dst).1 (intRange dst).2 a.1
      (unsignedBits 64 r.1, a.2.add r.2, r.2.sat != 0)
    else if dst = src then
      let r := roundIntegral mode a.1
      let w := finish sf mode false r.1
      (w.1, (a.2.add r.2).add { iv := w.2.iv }, false)
    else
      let r := finish (ffmtOf (BitVec.ofNat 3 dst)) mode fz a.1.toX
      (r.1, a.2.add r.2, false)

def convA (i : Instr) (o : AOps) (rtz : Bool) (s : State) : Result :=
  runInstr i s fun v s =>
    let c := s.viewCtx.fpcr
    let r := convert (if rtz then .rtz else RMode.ofFpcr c) (fzOf c) o.t.toNat (lowPred o.b) v.a
    putResult o none r.1 r.2.1 r.2.2 s

/-- CVT (R205). -/
def execCvt (o : AOps) (s : State) : Result := convA (.cvt o) o false s

/-- CVTI (R205). -/
def execCvti (o : AOps) (s : State) : Result := convA (.cvti o) o true s

/-! ## Compares (R206) -/

inductive Cmp where
  | eq | ne | lt | le | un
deriving DecidableEq, Repr

def Cmp.int (c : Cmp) (w : Nat) (n : Bool) (x y : BitVec w) : Bool :=
  match c with
  | .eq => x == y
  | .ne => x != y
  | .lt => intLt w n x y
  | .le => !intLt w n y x
  | .un => false

/-- A compare of floating-point values, and whether it is invalid. -/
def Cmp.float (c : Cmp) (a b : FVal) : Bool × Bool :=
  let sn := a == .nan true || b == .nan true
  if a.isNan || b.isNan then
    match c with
    | .eq => (false, sn)
    | .ne => (true, sn)
    | .lt | .le => (false, true)
    | .un => (true, sn)
  else
    let o := cmpFin a b
    match c with
    | .eq => (o == .eq, false)
    | .ne => (o != .eq, false)
    | .lt => (o == .lt, false)
    | .le => (o != .gt, false)
    | .un => (false, false)

def cmpA (i : Instr) (o : AOps) (c : Cmp) (s : State) : Result :=
  runInstr i s fun v s =>
    if o.t.toNat < 4 then
      .ok () (s.setPair o.d (if isW64 o.t then c.int 64 (isN o.t) v.a v.b
        else c.int 32 (isN o.t) (v.a.setWidth 32) (v.b.setWidth 32)))
    else
      let fz := fzOf s.viewCtx.fpcr
      let a := (ffmtOf o.t).operand fz v.a
      let b := (ffmtOf o.t).operand fz v.b
      let r := c.float a.1 b.1
      let ev := (a.2.add b.2).add { iv := if r.2 then 1 else 0 }
      .ok () (((s.countEv s.curCore ev).stick ev false).setPair o.d r.1)

/-- CMPEQ (R206). -/
def execCmpeq (o : AOps) (s : State) : Result := cmpA (.cmpeq o) o .eq s

/-- CMPNE (R206). -/
def execCmpne (o : AOps) (s : State) : Result := cmpA (.cmpne o) o .ne s

/-- CMPLT (R206). -/
def execCmplt (o : AOps) (s : State) : Result := cmpA (.cmplt o) o .lt s

/-- CMPLE (R206). -/
def execCmple (o : AOps) (s : State) : Result := cmpA (.cmple o) o .le s

/-- CMPUN (R206). -/
def execCmpun (o : AOps) (s : State) : Result := cmpA (.cmpun o) o .un s

end Sys2Proof.Machine
end

