-- ==== Sys2Proof/Machine/Atomics.lean ====
section
/-! DEFINITION. Atomics (R302–R304), fences and drains (R301, R305), monitored waiting (R306, R307), and CFLUSH (R115). -/

namespace Sys2Proof.Machine

/-! ## Atomics -/

/-- What an atomic makes of the old value: the new one, and the events AFADD counts. -/
abbrev AtomicFn := Nat → Nat × FEv

/-- The read and the write of a flat atomic, at its point (R50, R304): a register, the host, the cluster's L1, or the home slice, where
the cluster's copies of the line are written back and invalidated first, and which an uncacheable page's atomic passes without
allocation, on to memory. What an atomic or a release left dirty is ahead of it (R331). A poisoned old value writes nothing (R303). None: a reserved
register offset. -/
def State.atomicFlat (s : State) (pa n : Nat) (mt : MemType) (o : MemOpts) (f : AtomicFn) : Option (Loaded × State) :=
  let core := s.curCore
  let cl := clusterOf core
  let ret := retainOf o.pol
  let done := fun (m : Nat) (s : State) => (some m, s.countEv core (f m).2)
  let new := fun (m : Nat) => natBytes (f m).1 n
  if windowBase ≤ pa ∧ pa < windowEnd then
    let s := s.flushSync cl
    match s.windowRead (s.partOf core) pa n with
    | some b => (s.windowWrite (s.partOf core) pa (new (bytesToNat b))).map fun s1 => done (bytesToNat b) s1
    | none => none
  else if hostBase ≤ pa then
    let (w, s1) := (s.flushSync cl).fresh
    let m := w.toNat % 256 ^ n
    some (done m (s1.emit (.hostWrite (s1.partOf core) (pa - hostBase) n (BitVec.ofNat 64 (f m).1))))
  else if heldInL1 mt o.pol o.scope then
    let s1 := s.l1Bring core pa ret
    if s1.clusterPoison cl pa n then some (none, s1)
    else
      let m := bytesToNat (s1.clusterBytes cl pa n)
      some (done m (s1.l1Store core pa (new m) ret true))
  else
    let s0 := (s.flushSync cl).purgeL1 cl (· == lineOf pa)
    let s1 := s0.homeRead core pa (if mt = .uncacheable then .none_ else ret)
    if s1.poisonedAt pa n then some (none, s1)
    else
      let m := s1.natAt pa n
      some (done m (if mt = .uncacheable then s1.slicePut pa (new m) .through .none_ else s1.homePut cl pa (new m) mt o.pol))

/-- The order field's part of an atomic (R98, R99, R112, R113): the check, the write-back and invalidation, the record. -/
def State.atomicOrder (s : State) (va : Word) (sp : Spot) (o : MemOpts) (k : State → Res Loaded) : Res Loaded :=
  let cl := clusterOf s.curCore
  let go := fun (s : State) =>
    let s1 := if o.order.releases then s.syncL1 cl o.scope else s
    (k (if o.order.acquires then s1.dropL1 cl o.scope else s1)).bind fun v s =>
      .ok v ((s.touchLine s.curCore sp (if o.order.releases then some o.scope else none) (sp.atHome o.pol o.scope)).wakeWatches)
  if o.order.acquires then
    match s.checkCarried cl sp o.scope with
    | some line => .wait (s.waitFor (.carried line))
    | none =>
      match s.mismatch s.curCore sp o.scope with
      | some r => .trap { code := 7, addr := va, arg := releaserWord r } none
      | none => go s
  else go s

/-- The atomic of a speculative task: it reads, and holds the new value as a write of its order (R98, R99, R355). The record of its
release is made when the write is performed. -/
def State.specAtomic (s : State) (t : PfuTask) (va : Word) (sp : Spot) (n : Nat) (o : MemOpts) (h : Word → HeldWrite) (base : State → Res Loaded)
    (f : AtomicFn) : Res Loaded :=
  if s.olderWrites t (sectorsOf sp.key n) then .wait s
  else
    s.atomicOrder va sp { o with order := if o.order.acquires then .acq else .rlx } fun s =>
      (base s).bind fun b s => (s.specLoad t sp.key n b).bind fun v s =>
        match v, s.spec with
        | some m, some u => .ok v ((s.holdStore u (h (BitVec.ofNat 64 (f m).1))).countEv s.curCore (f m).2)
        | _, _ => .ok v s

/-- An atomic in a window (R105, R117, R304). -/
def State.atomicWindow (s : State) (k n : Nat) (f : AtomicFn) : Res Loaded :=
  match s.own k n (s.windowLoad k n) with
  | none => .ok none s
  | some m =>
    let cl := clusterOf s.curCore
    let s1 := ((((s.flushSync cl).seen k n (s.taskOf s.curCore s.curCtx)).putWindow k (natBytes (f m).1 n)).blur cl k n)
    .ok (some m) ((s1.overHeld k n).countEv s.curCore (f m).2)

/-- An atomic on `n` bytes (R303). -/
def State.atomic (s : State) (t : Target) (n : Nat) (o : MemOpts) (f : AtomicFn) : Res Loaded :=
  if s.scoreHit s.curCore (rangeOf t.norm n) then .wait s
  else
    match t.place with
    | .remote pkg _ => (s.migrate t.va pkg).bind fun _ s => .ok none s
    | .window k norm =>
      (match s.specMode (tagOf t.va) o.scope none k n .both with
      | .wait => .wait s
      | .spec u =>
        s.specAtomic u t.va (.window k norm) n o (fun w => HeldWrite.of (.window k norm) n w o 0 0 none)
          (fun s => .ok (s.windowLoad k n) (s.expandKey k)) f
      | .direct s => s.atomicOrder t.va (.window k norm) o fun s => s.atomicWindow k n f)
    | .flat va =>
      match s.translate s.curCore va .atomic o.scope with
      | .error e => .trap (e.trap t.va .atomic) none
      | .ok (tr, s1) =>
        let unbacked := Res.trap ((TFault.unbacked tr.pa).trap t.va .atomic) none
        let sp := Spot.flat tr.pa tr.mt
        if tr.mt = .device then .trap (Trap.address t.va) none
        else if s.lineHeld s.curCore tr.pa then .wait s
        else
          match s1.specMode 0 o.scope (some tr.mt) tr.pa n .both with
          | .wait => .wait s
          | .spec u =>
            s1.specAtomic u t.va sp n o (fun w => HeldWrite.of sp n w o va (ascrAsid s.myCore.regs.ascr) (some tr))
              (fun s =>
                match s.flatLoad tr.pa n tr.mt o.pol with
                | some q =>
                  let q1 := s.throughAlias va tr.pa n q
                  .ok q1.1 q1.2
                | none => unbacked) f
          | .direct s2 =>
            s2.atomicOrder t.va sp o fun s =>
              match (s.seen tr.pa n (s.taskOf s.curCore s.curCtx)).atomicFlat tr.pa n tr.mt o f with
              | some q =>
                let q1 := s.throughAlias va tr.pa n q
                .ok q1.1 (q1.2.blur (clusterOf s.curCore) tr.pa n)
              | none => unbacked

/-- An atomic instruction: the waits of R303, the access, and the old value owed to d. -/
def atomicOp (i : Instr) (o : CIOps) (size : Nat) (f : State → Vals → AtomicFn) (s : State) : Result :=
  runInstr i s fun v s =>
    let m := memOpts o s.me.cpr size
    match s.target v.a m.disp size with
    | .error t => .trap t none
    | .ok t =>
      let s := s.misuse t size
      afterLoads s fun s => afterStores s fun s =>
        ((s.atomic t size m (f s v)).bind fun r s => s.owe o.d.toNat (r.map (BitVec.ofNat 64)) none).orElseWait s

/-- An atomic whose new value is a function of the old dword and d. -/
def atomic8 (i : Instr) (o : CIOps) (f : Word → Word → Word) (s : State) : Result :=
  atomicOp i o 8 (fun _ v m => ((f (BitVec.ofNat 64 m) v.d).toNat, {})) s

/-- AADD (R302). -/
def execAadd (o : CIOps) (s : State) : Result := atomic8 (.aadd o) o (fun m v => m + v) s

/-- AAND (R302). -/
def execAand (o : CIOps) (s : State) : Result := atomic8 (.aand o) o (fun m v => m &&& v) s

/-- AOR (R302). -/
def execAor (o : CIOps) (s : State) : Result := atomic8 (.aor o) o (fun m v => m ||| v) s

/-- AXOR (R302). -/
def execAxor (o : CIOps) (s : State) : Result := atomic8 (.axor o) o (fun m v => m ^^^ v) s

/-- AMIN (R302): the lesser, signed. -/
def execAmin (o : CIOps) (s : State) : Result := atomic8 (.amin o) o (fun m v => if v.slt m then v else m) s

/-- AMAX (R302): the greater, signed. -/
def execAmax (o : CIOps) (s : State) : Result := atomic8 (.amax o) o (fun m v => if m.slt v then v else m) s

/-- AMINN (R302): the lesser, unsigned. -/
def execAminn (o : CIOps) (s : State) : Result := atomic8 (.aminn o) o (fun m v => if v.ult m then v else m) s

/-- AMAXN (R302): the greater, unsigned. -/
def execAmaxn (o : CIOps) (s : State) : Result := atomic8 (.amaxn o) o (fun m v => if m.ult v then v else m) s

/-- ASWP (R302). -/
def execAswp (o : CIOps) (s : State) : Result := atomic8 (.aswp o) o (fun _ v => v) s

/-- ACAS (R302): d is expected, register d + 1 is new. -/
def execAcas (o : CIOps) (s : State) : Result :=
  atomicOp (.acas o) o 8 (fun s v m =>
    (if m = v.d.toNat then (s.myCore.srcVal s.viewCtx [] (o.d.toNat + 1)).toNat else m, {})) s

/-- The sum of AFADD (R303): operands flushed with FZ as the context holds it, one rounding RNE. -/
def afaddOf (fz : Bool) (v : Word) : AtomicFn := fun m =>
  let a := FFmt.f32.operand fz (BitVec.ofNat 64 m)
  let b := FFmt.f32.operand fz v
  let r := finish .f32 .rne fz (addX .rne a.1 b.1)
  (r.1, (a.2.add b.2).add r.2)

/-- AFADD (R302, R303). -/
def execAfadd (o : CIOps) (s : State) : Result :=
  atomicOp (.afadd o) o 4 (fun s v => afaddOf (fzOf s.viewCtx.fpcr) v.d) s

/-! ## DRAINST and FENCE -/

/-- DRAINST (R301). -/
def execDrainst (o : CROps) (s : State) : Result := runInstr (.drainst o) s fun _ s => afterStores s fun s => .ok () s

/-- FENCE (R305): the release part first. -/
def execFence (o : CIOps) (s : State) : Result :=
  runInstr (.fence o) s fun _ s =>
    let cl := clusterOf s.curCore
    let sc := Scope.ofCode (o.imm.extractLsb' 0 3).toNat
    let kind := (o.imm.extractLsb' 3 2).toNat
    let drop := fun (s : State) => if kind = 2 then s else s.dropL1 cl sc
    if 2 ≤ kind then afterLoads s fun s => afterStores s fun s => .ok () (drop (s.syncL1 cl sc)) else .ok () (drop s)

/-! ## MONITOR and MWAIT -/

/-- A watch is registered (R306): the serving agent compares the dword, and the cluster's directory what its L1s hold dirty; it is
triggered at once where one differs from the armed value. A dword of cluster memory passes the expander (R117); one of the host holds a
free value (log 35). -/
def State.arm (s : State) (w : Watch) : State :=
  let (h, s1) := if hostBase ≤ w.key ∧ w.key < spBase then s.fresh else (s.watchHome w, s.expandKey w.key)
  let w1 := { w with home := h }
  s1.setMe { s1.me with watch := some (if s1.watchFires (clusterOf s1.curCore) w1 then { w1 with code := 1 } else w1) }

/-- MONITOR (R306). -/
def execMonitor (o : CIOps) (s : State) : Result :=
  runInstr (.monitor o) s fun v s =>
    let m := memOpts o s.me.cpr 8
    match s.target v.a m.disp 8 with
    | .error t => .trap t none
    | .ok t =>
      match t.place with
      | .remote pkg _ => (s.migrate t.va pkg).orElseWait s
      | .window k norm =>
        .ok () ((s.touchLine s.curCore (.window k norm) none true).arm
          { key := k, va := t.va, armed := v.d, home := 0, asid := 0, glob := false, flat := false, code := 0 })
      | .flat va =>
        match s.translate s.curCore va .monitor m.scope with
        | .error e => .trap (e.trap t.va .monitor) none
        | .ok (tr, s1) =>
          if tr.mt = .device then .trap (Trap.address t.va) none
          else if windowBase ≤ tr.pa ∧ tr.pa < windowEnd ∧ s.windowRead (s.partOf s.curCore) tr.pa 8 = none then
            .trap ((TFault.unbacked tr.pa).trap t.va .monitor) none
          else if s.lineHeld s.curCore tr.pa then .wait s
          else
            match if tr.mt = .uncacheable then s1.irrevocable else some s1 with
            | none => .wait s1
            | some s1 =>
              .ok () ((s1.touchLine s.curCore (.flat tr.pa tr.mt) none true).arm
                { key := tr.pa, va := mkPtr 0 va, armed := v.d, home := 0, asid := ascrAsid s.myCore.regs.ascr, glob := tr.glob,
                  flat := true, code := 0 })

/-- MWAIT ends with a code: the watch is disarmed (R307). -/
def State.wake (s : State) (d : BitVec 6) (code : Nat) : State :=
  let s1 := s.setReg d.toNat (BitVec.ofNat 64 code)
  s1.setMe { s1.me with watch := none, wait := none, grant := none }

/-- MWAIT (R307). -/
def execMwait (o : CROps) (s : State) : Result :=
  runInstr (.mwait o) s fun v s =>
    match s.me.grant with
    | some (.code n) => .ok () (s.wake o.d n)
    | _ =>
      match s.me.watch with
      | none => .ok () (s.wake o.d 3)
      | some w =>
        if w.code ≠ 0 then .ok () (s.wake o.d w.code)
        else
          let n := v.a.toNat % 2 ^ 32
          .wait (s.waitFor (.watch (if n = 0 then none else some (s.cycle + n))))

/-! ## CFLUSH -/

/-- Stores of the context to a line, by whichever address, that are still in the buffer (R115). -/
def State.storesToLine (s : State) (line : Nat) : Bool :=
  (s.myCore.countedStores s.curCtx).any fun e =>
    decide (tagOf e.norm < 0xF0) &&
      (match s.translate s.curCore (lowOf e.norm) .noCheck e.scope with
      | .ok (t, _) => lineOf t.pa == line
      | .error _ => false)

/-- CFLUSH and CFLUSH.INV (R115), behind a moved request to the line (R62). The windows hold nothing that a cache keeps, whatever the offset. -/
def cflushOp (i : Instr) (o : CIOps) (inv : Bool) (s : State) : Result :=
  runInstr i s fun v s =>
    let m := memOpts o s.me.cpr 8
    match addPtr v.a m.disp with
    | none => .trap (Trap.address (wrapPtr v.a m.disp)) none
    | some va =>
      if 0xF0 ≤ tagOf va ∧ tagOf va ≤ 0xF2 then .ok () s
      else
      match s.place s.who va 1 with
      | none => .trap (Trap.address va) none
      | some (.flat a) =>
        if s.scoreHit s.curCore (rangeOf (mkPtr 0 (a - a % 192)) 192) then .wait s
        else
          (match s.translate s.curCore a .noCheck m.scope with
          | .error e => .trap (e.trap va .read) none
          | .ok (tr, s1) =>
            let cl := clusterOf s.curCore
            let line := lineOf tr.pa
            if tr.mt = .uncacheable ∨ tr.mt = .device ∨ tr.disc then .ok () s1
            else if s.storesToLine line || s.lineHeld s.curCore tr.pa then .wait s
            else if inv then .ok () (s1.purgeL1 cl (· == line))
            else if m.scope.wider .cluster then .ok () (s1.flushPart cl (· == line))
            else .ok () s1)
      | some _ => .ok () s

/-- CFLUSH (R115). -/
def execCflush (o : CIOps) (s : State) : Result := cflushOp (.cflush o) o false s

/-- CFLUSH.INV (R115). -/
def execCflushInv (o : CIOps) (s : State) : Result := cflushOp (.cflushInv o) o true s

end Sys2Proof.Machine
end

