-- ==== Sys2Proof/Machine/Cpc.lean ====
section
/-! DEFINITION. Cheric Portable Code and images: the unit stream (R387, R388), the constants (R389), the translation (R32, R390), the
image and its checks (R391, R392). -/

namespace Sys2Proof.Machine

/-! ## Units (R387, R388) -/

/-- An instruction unit with its literal unit's value. -/
structure CpcUnit where
  header : W32
  word : W32
  lit : Option W32
deriving DecidableEq, Repr

def CpcUnit.isA (u : CpcUnit) : Bool := u.header.getLsbD 0

def CpcUnit.sym (u : CpcUnit) : Bool := u.header.getLsbD 2

def CpcUnit.label (u : CpcUnit) : Bool := u.header.getLsbD 3

def CpcUnit.symbol (u : CpcUnit) : Nat := (u.header.extractLsb' 8 8).toNat

def word32 (bs : List Byte) (o : Nat) : W32 := BitVec.ofNat 32 (field bs o 4)

/-- The units of a section (R387; fuel: the number of 8-byte units): none where a literal unit is missing or its bytes 4–7 are
not zero. -/
def cpcUnits : Nat → List Byte → Option (List CpcUnit)
  | 0, bs => if bs.isEmpty then some [] else none
  | fuel + 1, bs =>
    if bs.isEmpty then some []
    else if bs.length < 8 then none
    else
      let h := word32 bs 0
      let w := word32 bs 4
      let rest := bs.drop 8
      if h.getLsbD 1 then
        if rest.length < 8 ∨ field rest 4 4 ≠ 0 then none
        else (cpcUnits fuel (rest.drop 8)).map (⟨h, w, some (word32 rest 0)⟩ :: ·)
      else (cpcUnits fuel rest).map (⟨h, w, none⟩ :: ·)

/-- The instruction that a unit's word has the fields of. -/
def CpcUnit.shape (u : CpcUnit) : Option Instr := if u.isA then shapeA u.word else shapeC u.word u.lit

/-- The guard field of a unit's word. -/
def CpcUnit.guard (u : CpcUnit) : BitVec 4 := if u.isA then guardA u.word else guardC u.word

/-- The field that a literal replaces is zero (R21, R387). -/
def replacedZero (i : Instr) : Bool :=
  match i.fields with
  | .cr o => o.b == 0
  | .ci o => o.imm == 0
  | .cl o => o.imm == 0
  | _ => false

/-- A unit obeys R387. -/
def CpcUnit.ok (u : CpcUnit) : Bool :=
  u.header &&& 0xFFFF00F0 == 0 && (u.sym || u.symbol == 0) &&
    (if u.isA then u.lit.isNone && !u.sym
    else
      !u.word.getLsbD 31 && !(u.sym && u.lit.isNone) &&
        (match u.lit, u.shape with
        | none, _ => true
        | some _, none => false
        | some _, some i => i.rule.litOk i.fields && replacedZero i))

/-- A unit's word raises none of reasons 1 to 4 unless its guard is "never" (R47, R390). -/
def CpcUnit.accepted (u : CpcUnit) : Bool :=
  u.guard == 15 ||
    (match if u.isA then decodeA u.word else decodeC u.word u.lit with
    | .ok _ => true
    | .error r => decide (5 ≤ r.code))

/-! ## Constants (R389) -/

def cpcConstants : List Int := [128, 128, 128, 256, 512, 32, 512, 64, 24, 50, 192, 49152, 524288, 10, 4096, 65536]

/-- The constant of a number: none where it is undefined on this generation. -/
def cpcConstant (n : Nat) : Option Int := cpcConstants[n]?

/-- A unit's literal once its symbol is resolved (R390 step 2): none without a literal. -/
def CpcUnit.value (u : CpcUnit) : Except Nat (Option Int) :=
  match u.lit with
  | none => .ok none
  | some l =>
    if u.sym then
      match cpcConstant u.symbol with
      | none => .error 2
      | some c => if -(2 ^ 31 : Int) ≤ c + l.toInt ∧ c + l.toInt < 2 ^ 31 then .ok (some (c + l.toInt)) else .error 3
    else .ok (some l.toInt)

/-! ## Displacements (R388) -/

/-- Instructions with a displacement: BR, CALL, LOOP. -/
def CpcUnit.displaces (u : CpcUnit) : Bool := !u.isA && (op7Of u.word == 0x70 || op7Of u.word == 0x71 || op7Of u.word == 0x73)

/-- The displacement, in instructions, of a unit whose literal has the given value. -/
def CpcUnit.disp (u : CpcUnit) (v : Option Int) : Int :=
  if op7Of u.word = 0x73 then
    match v with
    | some n => n
    | none => (u.word.extractLsb' 1 7).toInt
  else (u.word.extractLsb' 0 20).toInt

/-- The target of a displacing unit is a labelled unit (R388); a literal whose symbol cannot be resolved is judged at step 2. -/
def targetOk (us : List CpcUnit) (i : Nat) (u : CpcUnit) : Bool :=
  if !u.displaces then true
  else
    match u.value with
    | .error _ => true
    | .ok v =>
      let t : Int := i + u.disp v
      decide (0 ≤ t) &&
        (match us[t.toNat]? with
        | some x => x.label
        | none => false)

/-! ## Translation (R390) -/

/-- Step 1 over the units in order: the code of the first rejection. -/
def cpcCheck (us : List CpcUnit) : Nat → List CpcUnit → Option Nat
  | _, [] => none
  | i, u :: t => if !u.ok then some 1 else if !targetOk us i u then some 5 else if !u.accepted then some 4 else cpcCheck us (i + 1) t

/-- A resolved instruction: its class, label, word, and the literal it keeps. -/
structure CpcInstr where
  isA : Bool
  label : Bool
  word : W32
  lit : Option Int
deriving DecidableEq, Repr

/-- Steps 2 and 3: symbols are resolved, LI is narrowed. -/
def cpcResolve : List CpcUnit → Except Nat (List CpcInstr)
  | [] => .ok []
  | u :: t =>
    match u.value with
    | .error c => .error c
    | .ok v =>
      match cpcResolve t with
      | .error c => .error c
      | .ok l =>
        .ok ((match v with
          | some n =>
            if op7Of u.word = 0x22 ∧ u.sym ∧ -8192 ≤ n ∧ n < 8192 then
              ⟨u.isA, u.label, (u.word &&& 0xFFFFC000) ||| (BitVec.ofInt 14 n).setWidth 32, none⟩
            else ⟨u.isA, u.label, u.word, v⟩
          | none => ⟨u.isA, u.label, u.word, none⟩) :: l)

/-- Registers and ports, and predicates other than g7, that an instruction writes. -/
def writesOf (i : Option Instr) : List Nat × List Nat :=
  match i with
  | none => ([], [])
  | some i => (destsOf i, (predDestsOf i).filter (· != 7))

/-- Registers and ports, and predicates other than g7, that an instruction reads. -/
def readsOf (i : Option Instr) : List Nat × List Nat :=
  match i with
  | none => ([], [])
  | some i => ((srcListOf i).map (·.reg), (guardPred i.fields.guard :: (predsOf i).filter fun n => !(predDestsOf i).contains n).filter (· != 7))

def meet (a b : List Nat) : Bool := a.any b.contains

/-- The instructions of condition 6 of R32. -/
def standsAlone (w : W32) : Bool :=
  let n := (op7Of w).toNat
  (0x70 ≤ n && n ≤ 0x73) || (0x7A ≤ n && n ≤ 0x7D) || n == 0x7F

def CpcInstr.shape (x : CpcInstr) : Option Instr :=
  if x.isA then shapeA x.word else shapeC x.word (x.lit.map (BitVec.ofInt 32))

/-- A CSRW of FPCR, by CSR 5 (R162, R165): it writes the rounding mode, FZ and the sticky flags. -/
def writesFpcr (i : Option Instr) : Bool :=
  match i with
  | some (.csrw o) => csrNumber o.imm o.lit == some 5
  | _ => false

/-- An A-slot instruction that reads FPCR's RM or FZ, or sets its sticky flags (R176, R177): floating-point arithmetic, special functions,
conversions, and compares of floating-point types. -/
def usesFpcr (i : Option Instr) : Bool :=
  match i with
  | some (.fadd _) | some (.fsub _) | some (.fmul _) | some (.fma _) | some (.fms _) | some (.fdiv _) | some (.fsqrt _) | some (.fmin _)
  | some (.fmax _) | some (.frcp _) | some (.frsq _) | some (.fexp2 _) | some (.flog2 _) | some (.fsin _) | some (.fcos _) | some (.ftanh _)
  | some (.cvt _) | some (.cvti _) => true
  | some (.cmpeq o) | some (.cmpne o) | some (.cmplt o) | some (.cmple o) | some (.cmpun o) => decide (4 ≤ o.t.toNat)
  | _ => false

/-- The pairing rule (R32). The registers of its conditions 2 and 3 include FPCR. -/
def pairs (c a : CpcInstr) : Bool :=
  let w := writesOf c.shape
  let r := readsOf a.shape
  let v := writesOf a.shape
  !c.isA && a.isA && !(meet r.1 w.1 || meet r.2 w.2) && !(meet v.1 w.1 || meet v.2 w.2) && !a.label && c.lit.isNone && !standsAlone c.word
    && !(writesFpcr c.shape && usesFpcr a.shape)

/-- A bundle being formed: instruction indices of its C-slot and A-slot instructions. -/
structure CpcBundle where
  c : Option (Nat × CpcInstr)
  a : Option (Nat × CpcInstr)
deriving DecidableEq, Repr

/-- Step 4: bundles in order (fuel: the number of instructions). -/
def cpcPair : Nat → Nat → List CpcInstr → List CpcBundle
  | 0, _, _ => []
  | _, _, [] => []
  | fuel + 1, i, x :: t =>
    if x.isA then ⟨none, some (i, x)⟩ :: cpcPair fuel (i + 1) t
    else
      match t with
      | y :: r => if pairs x y then ⟨some (i, x), some (i + 1, y)⟩ :: cpcPair fuel (i + 2) r else ⟨some (i, x), none⟩ :: cpcPair fuel (i + 1) t
      | [] => [⟨some (i, x), none⟩]

/-- The bundle that holds an instruction. -/
def bundleOf (l : List CpcBundle) (i : Nat) : Nat :=
  match findIdx (fun (b : CpcBundle) => (b.c.map (·.1)) == some i || (b.a.map (·.1)) == some i) l with
  | some (k, _) => k
  | none => 0

def fitsInt (w : Nat) (n : Int) : Bool := decide (-(2 ^ (w - 1) : Int) ≤ n) && decide (n < 2 ^ (w - 1))

/-- Step 5: the word and literal of a displacing instruction in bundle k, in bundles; none where the distance does not fit. -/
def rewriteDisp (l : List CpcBundle) (k i : Nat) (x : CpcInstr) : Option CpcInstr :=
  let n := (op7Of x.word).toNat
  let target := fun (d : Int) => (bundleOf l (i + d).toNat : Int) - k
  if n = 0x70 ∨ n = 0x71 then
    let d := target (x.word.extractLsb' 0 20).toInt
    if fitsInt 20 d then some { x with word := (x.word &&& 0xFFF00000) ||| (BitVec.ofInt 20 d).setWidth 32 } else none
  else if n = 0x73 then
    match x.lit with
    | some v => if fitsInt 32 (target v) then some { x with lit := some (target v) } else none
    | none =>
      let d := target (x.word.extractLsb' 1 7).toInt
      if fitsInt 7 d then some { x with word := (x.word &&& 0xFFFFFF01) ||| ((BitVec.ofInt 7 d).setWidth 32 <<< 1) } else none
  else some x

/-- The two words of a bundle (R14, R27). -/
def CpcBundle.words (b : CpcBundle) : W32 × W32 :=
  let a := match b.a with
    | some (_, y) => y.word
    | none => 0x003C0000
  match b.c with
  | none => (0x00700000, a)
  | some (_, x) =>
    match x.lit with
    | some v => (x.word ||| 0x80000000, BitVec.ofInt 32 v)
    | none => (x.word, a)

/-- Step 5 over the bundles. -/
def cpcRewrite (l : List CpcBundle) : Nat → List CpcBundle → Except Nat (List (W32 × W32))
  | _, [] => .ok []
  | k, b :: t =>
    let c : Option (Option (Nat × CpcInstr)) := match b.c with
      | none => some none
      | some (i, x) => (rewriteDisp l k i x).map fun y => some (i, y)
    match c with
    | none => .error 6
    | some c1 =>
      match cpcRewrite l (k + 1) t with
      | .error e => .error e
      | .ok r => .ok ((CpcBundle.words ⟨c1, b.a⟩) :: r)

/-- The layout of a section, which is fixed after step 4 (R390): its bundles of instructions, or the rejection code. -/
def cpcLayout (bs : List Byte) : Except Nat (List CpcBundle) :=
  match cpcUnits (bs.length / 8 + 1) bs with
  | none => .error 1
  | some us =>
    match cpcCheck us 0 us with
    | some c => .error c
    | none => (cpcResolve us).map fun l => cpcPair l.length 0 l

/-- The translation of a section (R390): its bundles, or the rejection code. -/
def cpcTranslate (bs : List Byte) : Except Nat (List (W32 × W32)) :=
  match cpcLayout bs with
  | .error c => .error c
  | .ok bundles => cpcRewrite bundles 0 bundles

/-! ## Images (R391, R392) -/

def archRevision : Nat := 0x00010000

/-- A section table entry: type, offset, size, load address. -/
structure ImgSection where
  type : Nat
  off : Nat
  size : Nat
  va : Nat
deriving DecidableEq, Repr

def imgSection (bs : List Byte) (i : Nat) : ImgSection :=
  let o := 128 + 32 * i
  ⟨field bs o 1, field bs (o + 8) 8, field bs (o + 16) 8, field bs (o + 24) 8⟩

def imgSections (bs : List Byte) : List ImgSection := (List.range (field bs 6 2)).map (imgSection bs)

def imgPolicy (bs : List Byte) : Nat := field bs 16 8

def imgIsv (bs : List Byte) : Nat := field bs 12 4

/-- The bytes of a section. -/
def ImgSection.data (x : ImgSection) (bs : List Byte) : List Byte := (bs.drop x.off).take x.size

/-- Instruction units of a CPC section, literal units not counted (R388; fuel: the number of 8-byte units). -/
def cpcCount : Nat → List Byte → Nat
  | 0, _ => 0
  | fuel + 1, bs => if bs.length < 8 then 0 else cpcCount fuel (bs.drop (if (word32 bs 0).getLsbD 1 then 16 else 8)) + 1

/-- A section table entry obeys R391; the data follow the table. -/
def sectionOk (bs : List Byte) (i : Nat) : Bool :=
  let x := imgSection bs i
  decide (1 ≤ x.type) && decide (x.type ≤ 6) && fieldZero bs (128 + 32 * i + 1) 7 && decide (x.off + x.size ≤ field bs 32 8)
    && (x.size == 0 || decide (128 + 32 * field bs 6 2 ≤ x.off))
    && (x.type != 1 || x.size % 8 == 0) && decide (x.va < 2 ^ 56) && x.va % 49152 == 0
    && (x.type != 2 || (imgPolicy bs / 4 % 2 == 1 && field bs 8 4 == archRevision))

/-- The entry names an instruction of a code section. -/
def entryOk (bs : List Byte) : Bool :=
  let n := field bs 24 4
  let e := field bs 28 4
  decide (n < field bs 6 2) &&
    (let x := imgSection bs n
    (x.type == 1 && decide (e < cpcCount (x.size / 8) (x.data bs))) || (x.type == 2 && e % 8 == 0 && decide (e < x.size)))

/-- The header and the section table obey R391. -/
def imageShape (bs : List Byte) : Bool :=
  let n := field bs 6 2
  let S := field bs 32 8
  decide (128 ≤ bs.length) && (bs.take 4) == [0x43, 0x48, 0x52, 0x43] && field bs 4 2 == 1 && decide (1 ≤ n) && decide (n ≤ 32)
    && decide (imgPolicy bs < 8) && S % 8 == 0 && decide (128 + 32 * n ≤ S) && decide (S + 3373 ≤ bs.length)
    && fieldZero bs 104 24 && ((List.range n).all (sectionOk bs)) && entryOk bs

/-- The first section that does not translate: its code (R392 check 7). -/
def cpcFails (bs : List Byte) : List ImgSection → Option Nat
  | [] => none
  | x :: t =>
    if x.type = 1 then
      match cpcTranslate (x.data bs) with
      | .error c => some c
      | .ok _ => cpcFails bs t
    else cpcFails bs t

/-- The two signatures of the trailer (R391): Ed25519 over 64 bytes, ML-DSA-65 over 3,309. -/
def edSignature (bs : List Byte) : List Byte := (bs.drop (field bs 32 8)).take 64

def mlSignature (bs : List Byte) : List Byte := (bs.drop (field bs 32 8 + 64)).take 3309

/-- The key ids of the header (R391). -/
def edKeyId (bs : List Byte) : List Byte := (bs.drop 40).take 32

def mlKeyId (bs : List Byte) : List Byte := (bs.drop 72).take 32

/-- The checks of R392 in their order, with a partition's image key set: the number of the one that fails, with the code of R390. -/
def imageFails (img : ImageInput) (edKeys mlKeys : List (List Byte)) (isvMin : Nat) (world : Bool) : Option (Nat × Nat) :=
  let bs := img.bytes
  if !imageShape bs then some (1, 0)
  else if !(img.edValid.contains (edSignature bs) && img.mlValid.contains (mlSignature bs)) then some (2, 0)
  else if !(edKeys.contains (edKeyId bs) && mlKeys.contains (mlKeyId bs)) then some (3, 0)
  else if archRevision < field bs 8 4 then some (4, 0)
  else if imgIsv bs < isvMin then some (5, 0)
  else if (imgPolicy bs % 2 == 1) != world then some (6, 0)
  else
    match cpcFails bs (imgSections bs) with
    | some c => some (7, c)
    | none => none

/-! ## Loading (R390, R391) -/

/-- What a section places at its load address: a CPC section its bundles, any other its bytes. -/
def ImgSection.loaded (x : ImgSection) (bs : List Byte) : List Byte :=
  if x.type = 1 then
    match cpcTranslate (x.data bs) with
    | .ok l => l.flatMap fun w => natBytes w.1.toNat 4 ++ natBytes w.2.toNat 4
    | .error _ => []
  else x.data bs

/-- The address of an image's entry (R391): in a CPC section, of the bundle that holds the instruction of the index. -/
def imgEntry (bs : List Byte) : Nat :=
  let x := imgSection bs (field bs 24 4)
  let e := field bs 28 4
  x.va + (if x.type = 1 then
    match cpcLayout (x.data bs) with
    | .ok l => 8 * bundleOf l e
    | .error _ => 0
  else e)

end Sys2Proof.Machine
end

