-- ==== Sys2Proof/Machine/Control.lean ====
section
/-! DEFINITION. Records read by an instruction, branches (R345, R346), helpers and sequencers (R347–R350), SETWP (R167), EXIT
(R357), SLEEP (R358), TRAP and TRET (R363, R364), WORLD (R367) and IDLE (R368), with the events that end their waits. -/

namespace Sys2Proof.Machine

/-! ## Reading a record -/

/-- The options of a record's read: a load at CLUSTER scope (R125). -/
def State.recordOpts (s : State) : MemOpts := ⟨(s.me.cpr.extractLsb' 0 3).toNat, .cluster, .rlx, 0⟩

/-- Read `n` dwords from a pointer, one load each. -/
def State.readDwords (s : State) (va : Word) : Nat → Res (List Byte)
  | 0 => .ok [] s
  | n + 1 =>
    (State.readDwords s va n).bind fun bs s =>
      match s.target va (8 * n) 8 with
      | .error t => .trap t none
      | .ok t =>
        (s.load t 8 s.recordOpts).bind fun v s =>
          match v with
          | none => .trap { code := 4 } none
          | some x => .ok (bs ++ natBytes x 8) s

/-- Read a record of `n` dwords at a multiple of `al` (R64, R125, R340, R352): faults and poison precise. -/
def State.readRecord (s : State) (va : Word) (n al : Nat) : Res (List Byte) :=
  if va.toNat % al ≠ 0 then .trap (Trap.address va) none
  else
    match s.place s.who va (8 * n) with
    | none => .trap (Trap.address va) none
    | some _ => s.readDwords va n

/-! ## Branches -/

/-- The address of the issuing bundle. -/
def State.bundlePc (s : State) : Word := s.me.pc

/-- Transfer control: the next bundle of the context (R18, R345). -/
def State.jump (s : State) (pc : Word) : State := s.setMe { s.me with npc := pc }

/-- A bundle displacement from the issuing bundle. -/
def State.bundleAt (s : State) (d : Int) : Word := s.bundlePc + BitVec.ofInt 64 (d * 8)

/-- A program address (R345, R347, R348): a multiple of 8, tag 0x00 or own-home pod-global. -/
def State.codePtr (s : State) (a : Word) : Bool := a.toNat % 8 == 0 && (tagOf a == 0 || (tagOf a ≤ 0xC0 && tagOf a == s.pack.pkg + 1))

/-- BR (R345). -/
def execBr (o : CBOps) (s : State) : Result := runInstr (.br o) s fun _ s => .ok () (s.jump (s.bundleAt o.disp.toInt))

/-- CALL (R345). -/
def execCall (o : CBOps) (s : State) : Result :=
  runInstr (.call o) s fun _ s => .ok () ((s.setReg 55 (s.bundlePc + 8)).jump (s.bundleAt o.disp.toInt))

def jmprOp (i : Instr) (link : Bool) (s : State) : Result :=
  runInstr i s fun v s =>
    if s.codePtr v.a then .ok () ((if link then s.setReg 55 (s.bundlePc + 8) else s).jump v.a)
    else .trap (Trap.address v.a) none

/-- JMPR (R345). -/
def execJmpr (o : CROps) (s : State) : Result := jmprOp (.jmpr o) false s

/-- JMPR with LINK (R345). -/
def execJmprLink (o : CROps) (s : State) : Result := jmprOp (.jmprLink o) true s

/-- LOOP (R346). -/
def execLoop (o : CIOps) (s : State) : Result :=
  runInstr (.loop o) s fun v s =>
    let c := v.a - 1
    let s1 := s.setReg o.d.toNat c
    .ok () (if c ≠ 0 then s1.jump (s.bundleAt (ciImm o)) else s1)

/-! ## Helpers and sequencers -/

/-- A context starts: its register set is loaded from a workspace, and it stands at a program address (R156, R341, R347,
R348). -/
def State.startCtx (s : State) (core k wp psize : Nat) (pc : Word) (group : BitVec 16) (launch : Option Nat) : State :=
  let x := s.loadSet core wp psize { Ctx.reset with live := true, pc := pc, npc := pc, group := group, launch := launch }
  s.setCtx core k x

/-- The fields of a workspace word (R152). -/
def wordWp (w : Word) : Nat := (w.extractLsb' 0 19).toNat

def wordPsize (w : Word) : Nat := (w.extractLsb' 32 8).toNat

/-- START (R347). -/
def execStart (o : CROps) (s : State) : Result :=
  runInstr (.start o) s fun v s =>
    if s.curCtx ≠ 0 ∨ workspaceOk v.b = false then .trap (Trap.illegal 6) none
    else if s.codePtr v.a = false then .trap (Trap.address v.a) none
    else
      match s.myCore.freeHelper with
      | none => .ok () (s.setReg o.d.toNat (BitVec.allOnes 64))
      | some h =>
        afterStores s fun s =>
          .ok () ((s.startCtx s.curCore h (wordWp v.b) (wordPsize v.b) v.a s.me.group s.me.launch).setReg o.d.toNat
            (BitVec.ofNat 64 (h - 1)))

/-- The engines that a mask selects (R348). -/
def maskEngines (m : Word) : List Nat := (List.range 3).filter fun e => m.getLsbD e

def Core.seq (c : Core) (e : Nat) : Seq := (c.seqs[e]?).getD Seq.reset

def Core.setSeq (c : Core) (e : Nat) (q : Seq) : Core := { c with seqs := listSet c.seqs e q }

/-- The selected mailboxes are DONE, FAULT or IDLE (R350). -/
def Core.seqsEnded (c : Core) (m : Word) : Bool := (maskEngines m).all fun e => (c.seq e).mailbox != .running

/-- Read the selected entries of a fork record (R348): engine, program address, workspace word. -/
def State.readForks (s : State) (a : Word) : List Nat → Res (List (Nat × Word × Word))
  | [] => .ok [] s
  | e :: t =>
    (s.readDwords (a + BitVec.ofNat 64 (16 * e)) 2).bind fun bs s =>
      (State.readForks s a t).bind fun r s =>
        .ok ((e, BitVec.ofNat 64 (field bs 0 8), BitVec.ofNat 64 (field bs 8 8)) :: r) s

/-- Start the sequencer of an engine (R348). -/
def State.startSeq (s : State) (f : Nat × Word × Word) : State :=
  let x := s.me
  let s1 := s.startCtx s.curCore (11 + f.1) (wordWp f.2.2) (wordPsize f.2.2) f.2.1 x.group x.launch
  s1.setMyCore (s1.myCore.setSeq f.1 ⟨.running, s.curCtx, x.pc⟩)

/-- FORK (R348). -/
def execFork (o : CROps) (s : State) : Result :=
  runInstr (.fork o) s fun v s =>
    if v.b.toNat ≥ 8 then .trap (Trap.illegal 6) none
    else if maskEngines v.b = [] then .ok () s
    else if v.a.toNat % 16 ≠ 0 ∨ (s.place s.who v.a 48).isNone then .trap (Trap.address v.a) none
    else
      ((s.readForks v.a (maskEngines v.b)).bind fun fs s =>
        if fs.any (fun f => !s.codePtr f.2.1 || !workspaceOk f.2.2) then .trap (Trap.illegal 6) none
        else if s.myCore.seqsEnded v.b = false then .wait s
        else afterStores s fun s => .ok () (fs.foldl State.startSeq s)).orElseWait s

/-- JOIN's result (R350): DONE in bits [2:0], FAULT in bits [6:4]. -/
def Core.joinWord (c : Core) (m : Word) : Word :=
  BitVec.ofNat 64 ((maskEngines m).foldl (fun n e =>
    n + match (c.seq e).mailbox with
      | .done => 2 ^ e
      | .fault => 2 ^ (4 + e)
      | _ => 0) 0)

/-- JOIN (R350). -/
def execJoin (o : CROps) (s : State) : Result :=
  runInstr (.join o) s fun v s =>
    if v.a.toNat ≥ 8 then .trap (Trap.illegal 6) none
    else if s.myCore.seqsEnded v.a then .ok () ((s.dropL1 (clusterOf s.curCore) .cluster).setReg o.d.toNat (s.myCore.joinWord v.a))
    else .wait (s.waitFor (.join v.a.toNat))

/-- JOIN_COMPLETE (R350). -/
def execJoinComplete (core k : Nat) (s : State) : Result :=
  s.endWaitOf "JOIN_COMPLETE" core k (fun w => match w with
    | .join m => (s.core core).seqsEnded (BitVec.ofNat 64 m)
    | _ => false) none

/-- SEQUENCER_FAULT (R349): a store fault ends a sequencer at its next bundle boundary; the fault slot is freed, its record
stays. -/
def execSequencerFault (core e : Nat) (s : State) : Result :=
  let k := 11 + e
  let x := s.ctx core k
  happens "SEQUENCER_FAULT" <|
    if e < 3 && x.live then
      match firstPend x.pend with
      | some p =>
        let s1 := (s.core core).su.slots.foldl (fun s o => match o with
          | some f => if f.entry.ctx = k then s.clearValid core f.offset else s
          | none => s) s
        some (s1.seqEnd core k p.code p.addr x.pc)
      | none => none
    else none

/-! ## SETWP -/

/-- Slots 0–55 and 64–71 of the new workspace, as ranges of window 0xF0. -/
def slotRanges (core wp : Nat) : List Range :=
  [⟨0xF0, indexOf core * 0x80000 + wp, 448⟩, ⟨0xF0, indexOf core * 0x80000 + wp + 512, 64⟩]

/-- Slots of the new workspace are still in the store buffer of the context, or in a write-back that follows its stores: what the SETWP
would read is older than what the context has written (R167, R295, R323). -/
def State.slotsBuffered (s : State) (wp : Nat) : Bool :=
  let hit := fun (r : Range) => (slotRanges s.curCore wp).any r.overlaps
  ((s.myCore.countedStores s.curCtx).any fun e => hit (rangeOf e.norm e.size))
    || (s.myCore.storesOut s.curCtx && s.myCore.su.behind.any fun q => q.ctx == s.curCtx && (match q.what with
      | .slots k bs => hit ⟨0xF0, indexOf s.curCore * 0x80000 + (k - spKey s.curCore 0), bs.length⟩
      | .word _ _ _ _ => false))

/-- The old set is written back, a release at CLUSTER (R167, R327): at once where the context's earlier stores are performed, else behind
them (R168). In a handler slots 68–71 are memory, and slot 64 is written alone (R361). -/
def State.writeOld (s : State) (back : Word) : State :=
  let core := s.curCore
  let x := s.me
  let full := (s.writeBack core x back).writeAt (slotKey core x.wp.toNat 64) (natBytes back.toNat 8)
  if s.myCore.su.past s.curCtx x.bundles then full
  else
    let c := s.myCore
    let part := fun (n k : Nat) => Released.slots (slotKey core x.wp.toNat n) (full.bytesAt (slotKey core x.wp.toNat n) (8 * k))
    let parts := [part 0 56, if x.ih then part 64 4 else part 64 8]
    s.setMyCore { c with su := { c.su with behind := c.su.behind ++ parts.map fun r => ⟨s.curCtx, x.bundles, r⟩ } }

/-- The new set is read: from memory with the context's own write-backs over it. -/
def State.withBacks (s : State) : State :=
  s.myCore.su.behind.foldl (fun s q => match q.what with
    | .slots k bs => if q.ctx = s.curCtx then s.writeAt k bs else s
    | .word _ _ _ _ => s) s

/-- The switch itself (R156, R167): the old set written back with the next bundle's address in slot 64, the new one loaded. -/
def State.switchTo (s : State) (w : Word) (pc : Word) : State :=
  let s1 := s.writeOld (s.me.pc + 8)
  s1.setMe { s1.withBacks.loadSet s.curCore (wordWp w) (wordPsize w) s.me with npc := pc, watch := none }

/-- SETWP (R167). Where it goes back to the workspace it leaves, slot 64 is written and then reloaded (log 34). -/
def execSetwp (o : CROps) (s : State) : Result :=
  runInstr (.setwp o) s fun v s =>
    if workspaceOk v.a = false then .trap (Trap.illegal 6) none
    else if s.me.regs.full ≠ BitVec.allOnes 56 ∨ s.me.regs.pend ≠ 0 then .wait s
    else if s.slotsBuffered (wordWp v.a) then .wait s
    else if s.poisonedAt (slotKey s.curCore (wordWp v.a) 64) 64 then .trap { code := 4 } none
    else
      let pc := s.withBacks.slotWord s.curCore (wordWp v.a) 64
      if pc.toNat % 8 ≠ 0 then .trap (Trap.address pc) none
      else .ok () (s.switchTo v.a (if wordWp v.a = s.me.wp.toNat then s.me.pc + 8 else pc))

/-! ## EXIT and SLEEP -/

/-- What the kind of context adds to its end (R350, R353, R357, R370). -/
def State.exitKind (s : State) (core k : Nat) (x : Ctx) : State :=
  if 11 ≤ k then
    let c := s.core core
    s.setCore core (c.setSeq (k - 11) { c.seq (k - 11) with mailbox := .done })
  else
    let s1 := match x.pfu with
      | none => s
      | some q =>
        match s.pfuTask (clusterOf core) q with
        | some t => s.setPfu (clusterOf core) { t with state := .finished }
        | none => s
    s1.noticeEnd core x

/-- EXIT (R357). -/
def execExit (o : CROps) (s : State) : Result :=
  runInstr (.exit o) s fun _ s =>
    afterLoads s fun s => afterStores s fun s =>
      .ok () ((s.endCtx s.curCore s.curCtx (s.bundlePc + 8) true).exitKind s.curCore s.curCtx s.me)

/-- SLEEP (R358). -/
def execSleep (o : CROps) (s : State) : Result :=
  runInstr (.sleep o) s fun v s => .ok () (s.waitFor (.sleep (s.cycle + v.a.toNat % 2 ^ 32)))

/-- SLEEP_EXPIRY (R358): the count has passed, or a pre-emption is pending. -/
def execSleepExpiry (core k : Nat) (s : State) : Result :=
  s.endWaitOf "SLEEP_EXPIRY" core k (fun w => match w with
    | .sleep t => decide (t ≤ s.cycle) || !(s.ctx core k).pend.isEmpty || (s.part (s.partOf core)).paused
    | _ => false) none

/-! ## TRAP and TRET -/

/-- TRAP (R363). -/
def execTrap (o : CIOps) (s : State) : Result :=
  runInstr (.trap o) s fun v _ => .trap { code := 15, addr := BitVec.ofInt 64 (ciImm o), arg := v.a, after := true } none

/-- Cores reached by a launch (R364): where it is placed, where a context, a task or an engine command of it is. -/
def State.reached (s : State) (l : Option Nat) : List Nat :=
  match l with
  | none => []
  | some id =>
    (s.cores.filter fun p =>
      p.2.launch == some id || (p.2.ctxs.any fun q => q.2.live && q.2.launch == some id)
        || (p.2.runq.any fun r => r.task.launch == some id)
        || ((p.2.eng.xq ++ p.2.eng.vq ++ p.2.eng.mq ++ p.2.eng.cq).any fun x => x.launch == some id)
        || (p.2.mat.drains.any fun d => d.cmd.launch == some id)
        || ((s.cluster (clusterOf p.1)).pfu.any fun t => t.task.launch == some id && (t.core == p.1 || t.srcCore == p.1))).map (·.1)

/-- TRET in its three modes (R364). TERMALL first has the other packages of the pod terminate the group, and waits for their
acknowledgement (log 40). -/
def tretOp (i : Instr) (mode : Nat) (s : State) : Result :=
  runInstr i s fun v s =>
    let core := s.curCore
    let k := s.curCtx
    if s.me.ih = false then .trap (Trap.illegal 6) none
    else if s.myCore.storesOut k then .wait s
    else if mode = 0 then .ok () (s.trapReturn core k)
    else if mode = 2 ∧ s.pack.inPod ∧ s.me.grant ≠ some .done then
      .wait ((s.emit (.terminate (v.a.extractLsb' 0 16) (s.part (s.partOf core)).pkey)).waitFor .terminate)
    else
      let g := v.a.extractLsb' 0 16
      let own := s.me.group == g
      let cores := if mode = 1 then [core] else core :: (s.reached s.me.launch).filter (· != core)
      let s1 := s.endWait.terminate cores g
      .ok () (if own then s1 else s1.trapReturn core k)

/-- TRET (R364, MODE 0). -/
def execTret (o : CROps) (s : State) : Result := tretOp (.tret o) 0 s

/-- TRET.TERM (R364, MODE 1). -/
def execTretTerm (o : CROps) (s : State) : Result := tretOp (.tretTerm o) 1 s

/-- TRET.TERMALL (R364, MODE 2). -/
def execTretTermall (o : CROps) (s : State) : Result := tretOp (.tretTermall o) 2 s

/-- TRAP_DELIVERY (R299, R361, R362). -/
def execTrapDelivery (core k : Nat) (s : State) : Result :=
  happens "TRAP_DELIVERY" (if (s.part (s.partOf core)).paused then none else s.deliverPending core k)

/-! ## WORLD and IDLE -/

/-- WORLD (R367). -/
def execWorld (o : CXOps) (s : State) : Result :=
  runInstr (.world o) s fun _ s =>
    let p := s.partOf s.curCore
    .ok () (s.setReg o.d.toNat (BitVec.ofNat 64
      (bit (ascrSec s.myCore.regs.ascr) + p % 8 * 2 + bit s.me.ih * 2 ^ 4 + bit (s.part p).vector.isSome * 2 ^ 5
        + s.pack.pkg % 256 * 2 ^ 8)))

/-- What lets IDLE complete at once (R368). -/
def State.idleOver (s : State) (core k : Nat) : Bool :=
  !(s.core core).runq.isEmpty || !(s.ctx core k).pend.isEmpty || (s.part (s.partOf core)).paused

/-- IDLE (R368). -/
def execIdle (o : CXOps) (s : State) : Result :=
  runInstr (.idle o) s fun _ s =>
    if s.me.grant = some (.code 0) ∨ s.idleOver s.curCore s.curCtx then .ok () s.endWait else .wait (s.waitFor .idle)

/-- IDLE_WAKE (R368): a task has entered the run queue, a trap is pending, or a pre-emption begins. -/
def execIdleWake (core k : Nat) (s : State) : Result :=
  s.endWaitOf "IDLE_WAKE" core k (fun w => w == .idle && ((s.ctx core k).grant.isSome || s.idleOver core k)) (some (.code 0))

end Sys2Proof.Machine
end

