-- ==== Sys2Proof/Machine/Tasks.lean ====
section
/-! DEFINITION. Launches (R337–R340, R404, R405), tasks and run queues (R341, R351, R352), the photo-finish unit (R353–R356),
the pace register (R344) and the events of monitored waiting (R307). -/

namespace Sys2Proof.Machine

/-! ## Run queues -/

/-- A task enters a core's run queue (R341), and wakes IDLE (R368). None: the queue is full. -/
def State.enqueueRow (s : State) (core : Nat) (t : TaskMsg) (mig : Option Shipped) (token : Option Word) : Option State :=
  let c := s.core core
  if 64 ≤ c.runq.length then none
  else
    let c1 : Core := { c with runq := c.runq ++ [⟨t, t.pri, 0, mig, token⟩] }
    some (s.setCore core (c1.mapCtxs fun _ x => x.grantIf (fun w => w == .idle) (.code 0)))

/-- A task that is no handler of an MDRAIN enters the queue. -/
def State.enqueue (s : State) (core : Nat) (t : TaskMsg) (mig : Option Shipped) : Option State :=
  s.enqueueRow core t mig none

/-- The head of the highest non-empty priority (R341), with its place. -/
def headOf (q : List RunEntry) : Option (Nat × RunEntry) :=
  match findIdx (fun (r : RunEntry) => r.pri == 0) q with
  | some x => some x
  | none =>
    match findIdx (fun (r : RunEntry) => r.pri == 1) q with
    | some x => some x
    | none =>
      match findIdx (fun (r : RunEntry) => r.pri == 2) q with
      | some x => some x
      | none => findIdx (fun _ => true) q

/-- Entries passed over once more; one passed over 16,384 times moves to the tail of the next higher priority (R341). -/
def ageQueue (q : List RunEntry) : List RunEntry :=
  let older := q.map fun r => { r with passed := r.passed + 1 }
  let up := fun (r : RunEntry) => decide (16384 ≤ r.passed) && r.pri != 0
  older.filter (fun r => !up r) ++ (older.filter up).map fun r => { r with pri := r.pri - 1, passed := 0 }

/-- The workspace offset of helper h's task workspace (R337). -/
def Core.taskWp (c : Core) (h : Nat) : Nat := c.twbase + h * (512 + 512 * c.tpsize)

/-- A task begins on helper context k (R341): its workspace is active, w0–w3 hold its payload. -/
def State.beginTask (s : State) (core k : Nat) (t : TaskMsg) : State :=
  let c := s.core core
  let s1 := (s.dropL1 (clusterOf core) .package).startCtx core k (c.taskWp (k - 1)) c.tpsize t.pc t.group t.launch
  let x := s1.ctx core k
  s1.setCtx core k { (((x.setW 0 t.p0).setW 1 t.p1).setW 2 t.p2).setW 3 t.p3 with prio := t.pri }

/-- A migrated task begins (R370): the shipped bytes are its workspace, and the access's bundle issues again. -/
def State.beginMigrated (s : State) (core k : Nat) (t : TaskMsg) (m : Shipped) : State :=
  let wp := (s.core core).taskWp (k - 1)
  let s1 := (s.dropL1 (clusterOf core) .pod).writeAt (spKey core wp) m.bytes
  let pc := s1.slotWord core wp 64
  let s2 := s1.startCtx core k wp m.psize pc t.group t.launch
  (s2.setCtx core k { s2.ctx core k with prio := t.pri, origin := some m.origin }).emit (.notice m.pkg m.tag .accepted)

/-- TASK_DISPATCH (R341): the lowest-numbered free helper takes the head of the highest non-empty priority. -/
def execTaskDispatch (core : Nat) (s : State) : Result :=
  let c := s.core core
  happens "TASK_DISPATCH" <|
    if c.launch.isNone || c.lost || (s.part (s.partOf core)).paused then none
    else
      match c.freeHelper, headOf c.runq with
      | some k, some (i, r) =>
        let s1 := s.setCore core { c with runq := ageQueue (listDrop c.runq i) }
        some (match r.migrated with
          | some m => s1.beginMigrated core k r.task m
          | none =>
            let s2 := s1.beginTask core k r.task
            s2.setCtx core k { s2.ctx core k with token := r.token })
      | _, _ => none

/-! ## Task records and SEND -/

/-- A record keeps the rules that SEND and TASKQ share (R351): program address and reserved bytes. -/
def taskPcOk (r : List Byte) : Bool := field r 0 8 % 8 == 0 && decide (field r 0 8 < 2 ^ 56) && fieldZero r 45 3 && fieldZero r 56 8

def sendOk (r : List Byte) : Bool :=
  taskPcOk r && (decide (field r 40 2 ≤ 191) || field r 40 2 == 0xFFFF) && (decide (field r 42 1 ≤ 49) || field r 42 1 == 0xFF)
    && decide (field r 43 1 ≤ 23) && decide (field r 44 1 ≤ 3) && fieldZero r 48 8

def taskqOk (r : List Byte) : Bool := taskPcOk r && fieldZero r 40 8

/-- The task of a record (R351, R352). -/
def State.taskOfRecord (s : State) (r : List Byte) : TaskMsg :=
  { pc := BitVec.ofNat 64 (field r 0 8), p0 := BitVec.ofNat 64 (field r 8 8), p1 := BitVec.ofNat 64 (field r 16 8),
    p2 := BitVec.ofNat 64 (field r 24 8), p3 := BitVec.ofNat 64 (field r 32 8), pri := field r 44 1, group := s.me.group,
    launch := s.me.launch }

/-- The key of the issuing core's partition (R319). -/
def State.pkeyOf (s : State) (core : Nat) : BitVec 16 := (s.part (s.partOf core)).pkey

/-- A task is placed in the outbound buffer, or held by the unit for a speculative sender (R352, R355). -/
def State.placeSend (s : State) (o : OutTask) : Res Unit :=
  match s.spec with
  | some t => .ok () (s.setPfu (clusterOf s.curCore) { t with sends := t.sends ++ [o] })
  | none =>
    let c := s.myCore
    if 4 ≤ c.outq.length then .wait s else .ok () (s.setMyCore { c with outq := c.outq ++ [o] })

/-- SEND (R352). -/
def execSend (o : CROps) (s : State) : Result :=
  runInstr (.send o) s fun v s =>
    ((s.readRecord v.a 8 16).bind fun r s =>
      if sendOk r = false then .trap (Trap.illegal 6) none
      else
        let pkg := if field r 40 2 = 0xFFFF then s.pack.pkg else field r 40 2
        let cl := if field r 42 1 = 0xFF then clusterOf s.curCore else field r 42 1
        let target := 24 * cl + field r 43 1
        let sc := if pkg = s.pack.pkg then Scope.ofPair s.curCore target else .pod
        let out : OutTask := ⟨pkg, cl, field r 43 1, s.pkeyOf s.curCore, s.pasOf s.curCore, s.taskOfRecord r⟩
        let far := pkg ≠ s.pack.pkg ∨ cl ≠ clusterOf s.curCore
        match if far then s.irrevocable else some s with
        | none => .wait s
        | some s => afterLoads s fun s => afterStores s fun s => (s.syncL1 (clusterOf s.curCore) sc).placeSend out).orElseWait s

/-- A task is refused (R352, R373): event TYPE 8 to the sender's partition. -/
def State.refuseTask (s : State) (sender target : Nat) (group : BitVec 16) : State :=
  s.postEvent (s.partOf sender) 8 (coreName target) group.toNat

/-- A task reaches a core (R309, R319, R352), from router `src`: dropped or diverted, refused, or put into its run queue. None: the run queue is full. -/
def State.arrive (s : State) (src target : Nat) (cap : BitVec 16) (t : TaskMsg) (refuse : State → State) : Option State :=
  if s.accepts src target cap = false then some (s.contain target cap)
  else if (s.core target).launch.isNone then some (refuse s)
  else s.enqueue target t none

/-- Entry i is the first of its buffer for its target (R334). -/
def Core.firstFor (c : Core) (i : Nat) (o : OutTask) : Bool :=
  !((c.outq.take i).any fun q => q.pkg == o.pkg && q.cluster == o.cluster && q.core == o.core)

/-- A task of another package names an address space of the target core's partition (R80). -/
def State.podOk (s : State) (target : Nat) (pas : Option Nat) : Bool :=
  match pas with
  | some n => (match tabGet s.pack.podSpaces n with | some e => e.part == s.partOf target | none => false)
  | none => false

/-- TASK_ARRIVAL (R79, R80, R319, R339, R341, R352). A task of another package carries no launch of this one. -/
def execTaskArrival (src : TaskSource) (s : State) : Result :=
  happens "TASK_ARRIVAL" <|
    match src with
    | .buffer core i =>
      let c := s.core core
      match c.outq[i]? with
      | none => none
      | some o =>
        if c.firstFor i o = false then none
        else
          let s1 := s.setCore core { c with outq := listDrop c.outq i }
          if o.pkg ≠ s.pack.pkg then some ((s1.addAway o.task.launch (· + 1)).emit (.task o.pkg o.cluster o.core o.cap o.pas o.task))
          else
            let target := 24 * o.cluster + o.core
            s1.arrive (clusterOf core) target o.cap o.task fun s => s.refuseTask core target o.task.group
    | .pod cluster core cap pas t =>
      let target := 24 * cluster + core
      if s.podOk target pas then s.arrive hubRouter target cap { t with launch := none } fun s => s.refuseTask target target t.group
      else some (s.contain target cap)

/-! ## The photo-finish unit -/

/-- TASKQ's waits (R354): a task that is or has been irrevocable, not yet committed, with a larger key (R356); and room. -/
def State.taskqWaits (s : State) (cl : Nat) (t : PfuTask) : Bool :=
  let u := (s.cluster cl).pfu
  let oldest := match s.taskOf s.curCore s.curCtx with
    | some (_, m) => s.pfuOldest cl m
    | none => false
  u.any (fun x => x.fixed && t.before x) || (decide (240 ≤ u.length) && !oldest)

/-- TASKQ (R354). -/
def execTaskq (o : CROps) (s : State) : Result :=
  runInstr (.taskq o) s fun v s =>
    let cl := clusterOf s.curCore
    ((s.readRecord v.a 8 16).bind fun r s =>
      let ts := BitVec.ofNat 64 (field r 48 8)
      let me := (s.taskOf s.curCore s.curCtx).map (·.2)
      let early : Bool := match me with
        | some m => decide (ts.toNat < m.ts.toNat) || decide (16 ≤ m.children)
        | none => false
      if taskqOk r = false ∨ early then .trap (Trap.illegal 6) none
      else
        afterStores s fun s =>
          let c := s.cluster cl
          let t : PfuTask :=
            { ts := ts, seq := c.pfuSeq, task := s.taskOfRecord r, parent := me.map (·.seq), children := 0, core := 0,
              counter := lowCc o.d, srcCore := s.curCore, state := .pending, ctx := 0, reads := [], writes := [], held := [],
              sends := [], doomed := false, fixed := false }
          if s.taskqWaits cl t then .wait s
          else
            let older := c.pfu.map fun u => if some u.seq = me.map (·.seq) then { u with children := u.children + 1 } else u
            .ok () (s.setCluster cl { c with pfu := older ++ [t], pfuSeq := (c.pfuSeq + 1) % 2 ^ 32 })).orElseWait s

/-- The pending task with the smallest key (R353). -/
def firstPending (l : List PfuTask) : Option PfuTask :=
  (l.filter fun t => t.state == .pending).foldl (fun a t =>
    match a with
    | none => some t
    | some b => if t.before b then some t else some b) none

/-- The lowest-numbered core of a cluster with a free helper and an empty run queue (R353). -/
def State.pfuCore (s : State) (cl : Nat) : Option (Nat × Nat) :=
  (List.range 24).findSome? fun i =>
    let c := s.core (24 * cl + i)
    if c.launch.isSome && !c.lost && c.runq.isEmpty && !(s.part (s.partOf (24 * cl + i))).paused then
      c.freeHelper.map fun h => (24 * cl + i, h)
    else none

def livePfu (l : List PfuTask) : Nat := (l.filter fun t => t.state == .running || t.state == .irrevocable).length

/-- PFU_TASK_START (R341, R353). -/
def execPfuTaskStart (cl : Nat) (s : State) : Result :=
  happens "PFU_TASK_START" <|
    match firstPending (s.cluster cl).pfu, s.pfuCore cl with
    | some t, some (core, k) =>
      if 64 ≤ livePfu (s.cluster cl).pfu then none
      else
        let s1 := s.beginTask core k t.task
        let s2 := s1.setCtx core k { s1.ctx core k with pfu := some t.seq }
        some (s2.setPfu cl { t with state := .running, core := core, ctx := k, doomed := false })
    | _, _ => none

/-- PFU_COMMIT (R353, R354): the oldest task, finished, commits: held writes, held sends, the enqueuer's counter. It waits
while a line that it writes is held for a moved request (R62). -/
def execPfuCommit (cl : Nat) (s : State) : Result :=
  happens "PFU_COMMIT" <|
    match findIdx (fun (t : PfuTask) => t.state == .finished && s.pfuOldest cl t) (s.cluster cl).pfu with
    | none => none
    | some (_, t) =>
      if t.doomed || s.heldsWait t then none
      else
        let s1 := s.performHelds cl t
        let c := s1.cluster cl
        let rest := (c.pfu.filter fun u => u.seq != t.seq).map fun u => if u.parent = some t.seq then { u with parent := none } else u
        let s2 := s1.setCluster cl { c with pfu := rest }
        let k := s2.core t.core
        let s3 := s2.setCore t.core { k with outq := k.outq ++ t.sends }
        some (s3.bumpCc t.srcCore t.counter false .cluster)

/-- A task of a unit returns to pending with its key (R356, R372): its helper and those of its children stop, its held writes,
sends and children are discarded; `count` says whether ev.abort counts. -/
def State.rollBack (s : State) (cl : Nat) (t : PfuTask) (count : Bool) : State :=
  let l := (s.cluster cl).pfu
  let kids := l.filter fun u => u.seq != t.seq && (familyOf l l.length [t.seq]).contains u.seq
  let s1 := (t :: kids).foldl (fun s u => s.stopHelper u) s
  let s2 := if count then ((t :: kids).filter fun u => u.state != .pending).foldl (fun s u => s.count u.core .abort 1) s1 else s1
  let c := s2.cluster cl
  let back := (c.pfu.filter fun u => !kids.any fun q => q.seq == u.seq).map fun u =>
    if u.seq = t.seq then
      { u with state := .pending, reads := [], writes := [], held := [], sends := [], children := 0, doomed := false }
    else u
  s2.setCluster cl { c with pfu := back }

/-- PFU_ABORT (R356): the helper stops after its outstanding loads. -/
def execPfuAbort (cl seq : Nat) (s : State) : Result :=
  happens "PFU_ABORT" <|
    match s.pfuTask cl seq with
    | none => none
    | some t =>
      if !t.doomed || (t.state == .running && (s.core t.core).owed.any fun o => o.ctx == t.ctx) then none
      else some (s.rollBack cl t true)

/-! ## Launch records -/

/-- The cores a record places, in ascending order (R337). -/
def placedCores (r : List Byte) : List Nat :=
  let cm := field r 8 8
  let qm := field r 16 1
  (List.range 50).flatMap fun c =>
    if cm.testBit c then (List.range 24).filterMap fun i => if qm.testBit (i / 4) then some (24 * c + i) else none else []

/-- A record keeps R337. -/
def launchOk (r : List Byte) (host : Bool) : Bool :=
  let pc := field r 0 8
  let cm := field r 8 8
  let qm := field r 16 1
  let wp := field r 20 4
  let size := 512 + 512 * field r 24 1
  let tw := field r 28 4
  let tsize := 10 * (512 + 512 * field r 25 1)
  decide (pc < 2 ^ 56) && pc % 8 == 0 && cm != 0 && decide (cm < 2 ^ 50) && qm != 0 && decide (qm < 64)
    && decide (field r 17 1 < 2) && wp % 512 == 0 && decide (1 ≤ field r 24 1) && decide (field r 24 1 ≤ 128)
    && decide (wp + size ≤ 524288) && decide (1 ≤ field r 25 1) && decide (field r 25 1 ≤ 128) && tw % 512 == 0
    && decide (tw + tsize ≤ 524288) && !(decide (tw < wp + size) && decide (wp < tw + tsize)) && fieldZero r 26 2
    && fieldZero r 36 4 && fieldZero r 80 8 && fieldZero r 96 32 && (host || fieldZero r 40 8)

/-- Every placed cluster belongs to the partition (R337). -/
def State.clustersOwned (s : State) (p : Nat) (r : List Byte) : Bool :=
  (List.range 50).all fun c => !(field r 8 8).testBit c || (s.part p).clusters.contains c

def Part.ownsFrame (x : Part) (f : Nat) : Bool := x.frames.any fun r => decide (r.1 ≤ f) && decide (f < r.1 + r.2)

/-- A physical range lies in framed frames that the partition owns (R404). -/
def Part.ownsRange (x : Part) (lo n : Nat) : Bool :=
  decide (lo + n ≤ framedEnd) && ((List.range ((lo + n - 1) / page0 + 1 - lo / page0)).all fun i =>
    x.ownsFrame (lo / page0 + i))

/-- The ASCR of a host launch is accepted (R404). -/
def Part.ascrOk (x : Part) (a : Word) : Bool :=
  ascrSec a == x.world && x.ownsRange (ascrRoot a) 0x8000 && (!ascrTc a || x.tc) && !a.getLsbD 63 && a.extractLsb' 52 9 == 0

/-! ## LAUNCH -/

/-- The place of STATUS, translated for writing (R340); a partition's register block has places only at its registers (R50, R377). -/
def State.statusPlace (s : State) (a : Word) : Res Nat :=
  match s.target a 88 8 with
  | .error t => .trap t none
  | .ok t =>
    match t.place with
    | .window k _ => .ok k s
    | .remote _ _ => .trap (Trap.address a) none
    | .flat va =>
      match s.translate s.curCore va .write .package with
      | .error e => .trap (e.trap t.va .write) none
      | .ok (tr, s1) =>
        if windowBase ≤ tr.pa ∧ tr.pa < windowEnd ∧ s1.windowWrite (s1.partOf s1.curCore) tr.pa (List.replicate 8 0) = none then
          .trap ((TFault.unbacked tr.pa).trap t.va .write) none
        else .ok tr.pa s1

/-- LAUNCH (R340). Every write of the parent before it is written back as far as the placed cores, who are to read it (R332). -/
def execLaunch (o : CROps) (s : State) : Result :=
  runInstr (.launch o) s fun v s =>
    ((s.readRecord v.a 16 64).bind fun r s =>
      (s.statusPlace v.a).bind fun k s =>
        afterLoads s fun s => afterStores s fun s =>
          let p := s.partOf s.curCore
          let cores := placedCores r
          let mine := match s.me.launch with
            | some id => (tabGet s.pack.launches id).elim [] (·.cores)
            | none => []
          if launchOk r false = false ∨ s.clustersOwned p r = false ∨ cores.any mine.contains then .trap (Trap.illegal 6) none
          else
            let sc := Scope.ofCores cores
            .ok () ((s.syncL1 (clusterOf s.curCore) (Scope.ofCores (s.curCore :: cores))).queueLaunch p
              { part := p, record := r, status := k, state := 0, entry := none, parent := some (s.curCore, lowCc o.d),
                parentAscr := s.myCore.regs.ascr, scope := sc, cores := [], away := 0 })).orElseWait s

/-! ## The starter -/

/-- Write STATUS at the place found (R339, R340). -/
def State.writeStatus (s : State) (l : Launch) (v : Nat) : State :=
  let cl := match l.parent with
    | some (c, _) => clusterOf c
    | none => 50
  let bs := natBytes v 8
  let s1 := s.seen l.status 8 none
  (if windowBase ≤ l.status ∧ l.status < windowEnd then (s1.windowWrite l.part l.status bs).getD s1
   else if l.status < spBase then s1.homeWrite cl l.status bs
   else s1.putWindow l.status bs).wakeWatches

/-- A launch leaves the starter: host entries become free, and vector 0 is raised (R375, R378). -/
def State.retireLaunch (s : State) (id : Nat) (l : Launch) : State :=
  let x := s.part l.part
  let s1 := s.setPart l.part { x with
    starts := x.starts.filter (· != id)
    busy := match l.entry with
      | some i => x.busy.filter (· != i)
      | none => x.busy }
  let s2 := { s1 with pack := { s1.pack with launches := tabErase s1.pack.launches id } }
  if l.entry.isSome then s2.emit (.msix l.part 0) else s2

/-- A launch is written FAILED with a reason (R405). -/
def State.failLaunch (s : State) (id : Nat) (l : Launch) (reason : Nat) : State :=
  (s.writeStatus l (3 + reason * 256)).retireLaunch id l

/-- A placed core after step 2 of R338: ASCR and EEBASE are loaded; counters, ports, bands, judge and relay sequencer are reset. Contexts,
tasks, stores and engine commands of other launches stay. -/
def placeCore (c : Core) (id : Nat) (r : List Byte) (ascr : Word) (cycle : Nat) : Core :=
  { c with
    ctxs := c.ctxs.map fun p => (p.1, if p.2.live then p.2 else { Ctx.reset with wp := p.2.wp, psize := p.2.psize })
    regs := { CoreRegs.reset with ascr := ascr, eebase := BitVec.ofNat 32 (field r 32 4) &&& 0x7FFC0 }
    mat := { Matrix.reset with drains := c.mat.drains, spent := c.mat.spent }
    judge := Judge.reset
    relay := Relay.reset
    launch := some id
    group := BitVec.ofNat 16 (field r 18 2)
    twbase := field r 28 4
    tpsize := field r 25 1
    cycle0 := cycle
    evSaved := List.replicate 16 0 }

/-- Zero the accumulator memory of a core (R234). -/
def State.zeroKeys (s : State) (k n : Nat) : State :=
  { s with
    mem := s.mem.filter fun c => !(decide (k ≤ c.1) && decide (c.1 < k + n))
    poison := s.poison.filter fun g => !(decide (k ≤ g) && decide (g < k + n)) }

/-- Place one core (R176, R338): steps 2 and 3; `rank` is its placement index. -/
def State.placeOn (s : State) (id : Nat) (r : List Byte) (ascr : Word) (rank core : Nat) : State :=
  let s1 := (s.setCore core (placeCore (s.core core) id r ascr s.cycle)).zeroKeys (accKey core 0 0) 0x40000
  let tw := field r 28 4
  let ts := 512 + 512 * field r 25 1
  let s2 := (List.range 10).foldl (fun s h => s.writeAt (spKey core (tw + h * ts + 512)) (List.replicate 64 0)) s1
  let wp := field r 20 4
  let s3 := s2.writeAt (slotKey core wp 66) (List.replicate 8 0)
  let s4 := s3.startCtx core 0 wp (field r 24 1) (BitVec.ofNat 64 (field r 0 8)) (BitVec.ofNat 16 (field r 18 2)) (some id)
  let x := s4.ctx core 0
  let y := (List.range 4).foldl (fun (x : Ctx) i => x.setW i (BitVec.ofNat 64 (field r (48 + 8 * i) 8))) x
  s4.setCtx core 0 (y.setW 4 (BitVec.ofNat 64 rank))

/-- Place cores in order, numbering them. -/
def State.placeAll (s : State) (id : Nat) (r : List Byte) (ascr : Word) : Nat → List Nat → State
  | _, [] => s
  | n, c :: t => State.placeAll (s.placeOn id r ascr n c) id r ascr (n + 1) t

/-- A placed cluster: its L1s are written back and invalidated, as a change of mode needs and the placed contexts' acquire, its mode is
set, its pace is 0 (R110, R338, R344). -/
def State.placeCluster (s : State) (fused : Bool) (cl : Nat) : State :=
  let s1 := s.purgeL1 cl fun _ => true
  s1.setCluster cl { s1.cluster cl with fused := fused, pace := 0 }

/-- Why a launch cannot be placed at all (R404, R405). -/
def State.launchFault (s : State) (l : Launch) (r : List Byte) : Option Nat :=
  if l.entry.isSome && !launchOk r true then some 1
  else if !s.clustersOwned l.part r then some 2
  else if l.entry.isSome && !(s.part l.part).ascrOk (BitVec.ofNat 64 (field r 40 8)) then some 4
  else none

/-- A launch of a partition may be placed now (R110, R338, R372): the partition is not pre-empted and holds the clusters, its cores are
free, and no launch stands on a cluster whose mode changes. -/
def State.launchFits (s : State) (p : Nat) (r : List Byte) (cores cls : List Nat) : Bool :=
  let fused := field r 17 1 == 1
  !(s.part p).paused && cls.all (fun cl => (s.cluster cl).owner == some p)
    && cores.all (fun c => (s.core c).launch.isNone && !(s.core c).lost)
    && cls.all fun cl => (s.cluster cl).fused == fused || (List.range 24).all fun i => (s.core (24 * cl + i)).launch.isNone

/-- LAUNCH_START (R338, R404, R405). -/
def execLaunchStart (p : Nat) (s : State) : Result :=
  happens "LAUNCH_START" <|
    match (s.part p).starts.head? with
    | none => none
    | some id =>
      match tabGet s.pack.launches id with
      | none => none
      | some l =>
        let r := if l.entry.isSome then s.bytesAt (l.status - 88) 128 else l.record
        match s.launchFault l r with
        | some why => some (s.failLaunch id l why)
        | none =>
          let cores := placedCores r
          let cls := (List.range 50).filter fun c => (field r 8 8).testBit c
          if s.launchFits p r cores cls = false then none
          else
            let ascr := if l.entry.isSome then BitVec.ofNat 64 (field r 40 8) else l.parentAscr
            let s1 := cls.foldl (fun s cl => s.placeCluster (field r 17 1 == 1) cl) s
            let s2 := s1.placeAll id r ascr 0 cores
            let l1 : Launch := { l with record := r, state := 1, cores := cores }
            let s3 := { s2 with pack := { s2.pack with launches := tabSet s2.pack.launches id l1 } }
            let x := s3.part p
            some ((s3.setPart p { x with starts := x.starts.filter (· != id) }).writeStatus l1 1)

/-- A core still holds a context, a task, a command or a store of a launch (R339): `n` is its number. -/
def Core.holdsLaunch (c : Core) (n id : Nat) (l : Launch) : Bool :=
  (c.ctxs.any fun q => q.2.live && (q.2.launch == some id || (q.2.origin.isSome && l.cores.contains n)))
    || (c.runq.any fun r => r.task.launch == some id) || (c.outq.any fun o => o.task.launch == some id)
    || ((c.eng.xq ++ c.eng.vq ++ c.eng.mq ++ c.eng.cq).any fun x => x.launch == some id)
    || (c.mat.drains.any fun d => d.cmd.launch == some id)
    || (c.su.buf.any fun e => e.launch == some id) || (c.su.slots.any fun o => o.any fun f => f.entry.launch == some id)

/-- Some context, task, command or store of a launch is still there (R339), in the machine or in what Infield keeps of a pre-empted partition
(R372). -/
def State.launchBusy (s : State) (id : Nat) (l : Launch) : Bool :=
  let tasks := fun (u : List PfuTask) => u.any fun t => t.task.launch == some id
  l.away != 0 || (s.cores.any fun p => p.2.holdsLaunch p.1 id l) || (s.clusters.any fun p => tasks p.2.pfu)
    || (match (s.part l.part).saved with
      | some v => (v.cores.any fun p => p.2.holdsLaunch p.1 id l) || (v.units.any fun p => tasks p.2.1)
      | none => false)

/-- The release that completes a launch (R332, R339, R340): what the placed clusters hold dirty is written back. A parent of another cluster
is to read it after its acquire, whose scope may be as narrow as the placement, so that its cluster keeps no older copies. -/
def State.releaseLaunch (s : State) (l : Launch) (cls : List Nat) : State :=
  match l.parent with
  | none => cls.foldl (fun s cl => s.flushL1 cl) s
  | some (c, _) =>
    if cls.all (· == clusterOf c) then s
    else (cls.foldl (fun s cl => s.flushL1 cl) s).purgeL1 (clusterOf c) fun _ => true

/-- LAUNCH_COMPLETE (R339): the starter releases, frees the cores, writes STATUS, and counts for the parent. -/
def execLaunchComplete (id : Nat) (s : State) : Result :=
  happens "LAUNCH_COMPLETE" <|
    match tabGet s.pack.launches id with
    | none => none
    | some l =>
      if l.state ≠ 1 ∨ s.launchBusy id l then none
      else
        let cls := (List.range 50).filter fun c => l.cores.any fun n => clusterOf n == c
        let s1 := s.releaseLaunch l cls
        let s2 := l.cores.foldl (fun s n => s.setCore n { s.core n with launch := none, group := 0 }) s1
        let s3 := (s2.writeStatus l 2).retireLaunch id l
        some (match l.parent with
          | some (c, n) => s3.bumpCc c n false l.scope
          | none => s3)

/-! ## Pace, monitored waiting -/

/-- D of R344. -/
def State.activity (s : State) (cl : Nat) : Nat :=
  ((List.range 24).map fun i =>
    let c := s.core (24 * cl + i)
    c.runq.length + (c.ctxs.filter fun p => p.2.live && decide (p.1 ≤ 10)).length).sum + (s.cluster cl).pfu.length / 4

/-- PACE_UPDATE (R344): once in every 4,096 cycles. -/
def execPaceUpdate (cl : Nat) (s : State) : Result :=
  let c := s.cluster cl
  happens "PACE_UPDATE" <|
    if s.cycle / 4096 ≤ c.paceAt then none
    else some (s.setCluster cl { c with paceAt := s.cycle / 4096, pace := (3 * c.pace + min 255 (s.activity cl * 255 / 264)) / 4 })

/-- The code with which MWAIT wakes now (R307). -/
def State.wakeCode (s : State) (core k : Nat) : Option Nat :=
  let x := s.ctx core k
  match x.watch with
  | none => some 3
  | some w => if w.code ≠ 0 then some w.code else if !x.pend.isEmpty || (s.part (s.partOf core)).paused then some 4 else none

/-- MWAIT_WAKE (R307). -/
def execMwaitWake (core k : Nat) (s : State) : Result :=
  match s.wakeCode core k with
  | some n => s.endWaitOf "MWAIT_WAKE" core k (fun w => match w with | .watch _ => true | _ => false) (some (.code n))
  | none => .fault (.notEnabled "MWAIT_WAKE")

/-- MWAIT_TIMEOUT (R307). -/
def execMwaitTimeout (core k : Nat) (s : State) : Result :=
  s.endWaitOf "MWAIT_TIMEOUT" core k (fun w => match w with | .watch (some t) => decide (t ≤ s.cycle) | _ => false) (some (.code 5))

end Sys2Proof.Machine
end

