-- ==== Sys2Proof/Machine/Tensor.lean ====
section
/-! DEFINITION. Registered tensors (R86–R97) and slice-resident queues (R100–R103). -/

namespace Sys2Proof.Machine

/-! ## Descriptors and tile geometry (R86, R87) -/

/-- Fields of a descriptor. -/
def descBase (d : List Byte) : Word := BitVec.ofNat 64 (field d 0 8)

def descDim (d : List Byte) (i : Nat) : Nat := field d (16 + 4 * i) 4

def descStride (d : List Byte) (i : Nat) : Int := fieldS32 d (32 + 4 * i)

def descTile (d : List Byte) (i : Nat) : Nat := field d (48 + 2 * i) 2

def descRank (d : List Byte) : Nat := field d 9 1

/-- The format of a descriptor; i8 stands in where the code is reserved. -/
def descFmt (d : List Byte) : Fmt := (Fmt.ofCode (field d 8 1)).getD .i8

/-- Tiles along dimension i. -/
def descGrid (d : List Byte) (i : Nat) : Nat := (descDim d i + descTile d i - 1) / descTile d i

def descCount (d : List Byte) : Nat := descGrid d 0 * descGrid d 1 * descGrid d 2 * descGrid d 3

/-- Bytes of a tile (R86). -/
def tileBytesOk (d : List Byte) : Bool :=
  let p := descTile d 0 * descTile d 1 * descTile d 2 * descTile d 3
  let f := descFmt d
  p % f.perUnit == 0 && decide (f.bytesOf p ≤ 192)

/-- A descriptor keeps R86 and R87, but for the world's agreement with the core. -/
def State.descOk (s : State) (d : List Byte) : Bool :=
  let b := descBase d
  let ranks := List.range 4
  (tagOf b == 0 || (tagOf b ≤ 0xC0 && tagOf b == s.pack.pkg + 1)) && decide (lowOf b < vaLimit) && lowOf b % 192 == 0
    && (Fmt.ofCode (field d 8 1)).isSome && decide (1 ≤ descRank d) && decide (descRank d ≤ 4) && fieldZero d 10 6
    && ranks.all (fun i => decide (1 ≤ descDim d i) && decide (1 ≤ descTile d i))
    && ranks.all (fun i => decide (i < descRank d) || (descDim d i == 1 && descStride d i == 0 && descTile d i == 1))
    && tileBytesOk d && decide (field d 56 1 ≤ 1) && decide (field d 57 1 ≤ 3) && fieldZero d 58 38
    && decide (descCount d ≤ 2 ^ 32)

/-- The offset of the backing line of tile coordinates (R87). -/
def lineOffset (d : List Byte) (co : List Nat) : Int :=
  192 * ((List.range 4).map fun i => (((co[i]?).getD 0 : Nat) : Int) * descStride d i).sum

/-- The lowest and highest backing lines over all tiles (R88). -/
def backing (d : List Byte) : Int × Int :=
  let span := (List.range 4).map fun i => ((descGrid d i : Int) - 1) * descStride d i
  let b : Int := lowOf (descBase d)
  (b + 192 * (span.map fun x => min 0 x).sum, b + 192 * (span.map fun x => max 0 x).sum)

/-- Coordinates of a linear tile index (R87). -/
def tileCoords (d : List Byte) (t : Nat) : List Nat :=
  let n0 := descGrid d 0
  let n1 := descGrid d 1
  let n2 := descGrid d 2
  [t % n0, t / n0 % n1, t / (n0 * n1) % n2, t / (n0 * n1 * n2)]

/-- The linear index of tile coordinates (R87). -/
def tileIndex (d : List Byte) (co : List Nat) : Nat :=
  let g := fun i => (co[i]?).getD 0
  g 0 + descGrid d 0 * (g 1 + descGrid d 1 * (g 2 + descGrid d 2 * g 3))

/-- The element number of coordinates within their tile (R87). -/
def elementIndex (d : List Byte) (x : List Nat) : Nat :=
  let y := fun i => ((x[i]?).getD 0) % descTile d i
  y 0 + descTile d 0 * (y 1 + descTile d 1 * (y 2 + descTile d 2 * y 3))

/-! ## Checks on an id (R88) -/

/-- The tensor of an id that the issuing core may use; otherwise the address fault or the world violation. -/
def State.tensorOf (s : State) (id : Nat) (addr : Word) : Except Trap Tensor :=
  let a := s.myCore.regs.ascr
  match tabGet s.pack.tensors id with
  | none => .error (Trap.address addr)
  | some t =>
    if t.part ≠ s.partOf s.curCore ∨ t.asid ≠ ascrAsid a then .error (Trap.address addr)
    else if (field t.desc 56 1 == 1) != ascrSec a then .error { code := 10, addr := descBase t.desc }
    else .ok t

/-- The id in a register: bits [11:0], the rest zero (R91, R92, R96). -/
def State.tensorReg (s : State) (v : Word) : Except Trap (Nat × Tensor) :=
  if v.toNat ≥ 4096 then .error (Trap.address v) else (s.tensorOf v.toNat v).map fun t => (v.toNat, t)

/-- A tile address in a register: id, tensor, tile index. -/
def State.tileReg (s : State) (v : Word) : Except Trap (Nat × Tensor × Nat) :=
  if v.toNat ≥ 2 ^ 44 then .error (Trap.address v)
  else
    let id := v.toNat / 2 ^ 32
    match s.tensorOf id v with
    | .error e => .error e
    | .ok t => if v.toNat % 2 ^ 32 < descCount t.desc then .ok (id, t, v.toNat % 2 ^ 32) else .error (Trap.address v)

/-- The pointer to a backing line, with the base's tag. -/
def Tensor.linePtr (t : Tensor) (off : Int) : Word := wrapPtr (descBase t.desc) off

/-- Translate a backing line for reading (R76, R90, R92): its physical address. -/
def State.lineAddr (s : State) (p : Word) : Except Trap (Trans × State) :=
  match s.place s.who p 192 with
  | some (.flat va) =>
    (match s.translate s.curCore va .read .package with
    | .error e => .error (e.trap p .read)
    | .ok (tr, s1) =>
      if tr.mt = .uncacheable ∨ tr.mt = .device then .error (Trap.address p)
      else if framedEnd ≤ tr.pa then .error ((TFault.unbacked tr.pa).trap p .read)
      else .ok (tr, s1))
  | _ => .error (Trap.address p)

def trapOr {α β : Type} (e : Except Trap α) (k : α → Res β) : Res β :=
  match e with
  | .error t => .trap t none
  | .ok a => k a

/-! ## TREG, TDROP -/

/-- The lowest free tensor id (R90). -/
def State.freeTensor (s : State) : Option Nat := ((List.range 4095).map (· + 1)).find? fun i => (tabGet s.pack.tensors i).isNone

/-- Read a descriptor: twelve dwords at a multiple of 48 (R86, R90). -/
def State.readDesc (s : State) (va : Word) : Nat → Res (List Byte)
  | 0 => .ok [] s
  | n + 1 =>
    (State.readDesc s va n).bind fun bs s =>
      trapOr (s.target va (8 * n) 8) fun t =>
        (s.load t 8 ⟨(s.me.cpr.extractLsb' 0 3).toNat, .cluster, .rlx, 0⟩).bind fun v s =>
          match v with
          | none => .trap { code := 4 } none
          | some x => .ok (bs ++ natBytes x 8) s

/-- The byte number that a pointer gives in its space: the offset in a scratchpad for the window of one. -/
def placeOf (p : Word) : Nat := if tagOf p = 0xF0 then lowOf p % 0x80000 else lowOf p

/-- TREG (R90). Backing outside the virtual addresses raises the address trap (log 49). A descriptor address that is no multiple of 8 raises
the address trap, as a load of its dwords would, and any other that is no multiple of 48 reason 6: R90 names no trap for it (DESIGN CHOICE,
log 49). -/
def execTreg (o : CROps) (s : State) : Result :=
  runInstr (.treg o) s fun v s =>
    if (s.place s.who v.a 96).isNone ∨ v.a.toNat % 8 ≠ 0 then .trap (Trap.address v.a) none
    else
      ((s.readDesc v.a 12).bind fun d s =>
        if s.descOk d = false ∨ placeOf v.a % 48 ≠ 0 then .trap (Trap.illegal 6) none
        else if (field d 56 1 == 1) ≠ ascrSec s.myCore.regs.ascr then .trap { code := 10, addr := v.a } none
        else
          let r := backing d
          let b := descBase d
          let off := fun (x : Int) => x - (lowOf b : Int)
          if r.1 < 0 ∨ (vaLimit : Int) ≤ r.2 then .trap (Trap.address b) none
          else
            trapOr (s.lineAddr (wrapPtr b (off r.1))) fun x =>
              trapOr (x.2.lineAddr (wrapPtr b (off r.2))) fun y =>
                let s := y.2
                match s.freeTensor with
                | none => .ok () (s.setReg o.d.toNat 0)
                | some id =>
                  let t : Tensor := ⟨s.partOf s.curCore, ascrAsid s.myCore.regs.ascr, d, r.1.toNat, r.2.toNat, 0⟩
                  .ok () (State.setReg { s with pack := { s.pack with tensors := tabSet s.pack.tensors id t } } o.d.toNat
                    (BitVec.ofNat 64 id))).orElseWait s

/-- Prefetches of a tensor are forgotten. -/
def State.dropFetches (s : State) (id : Nat) : State :=
  { s with cores := s.cores.map fun p => (p.1, { p.2 with fetches := p.2.fetches.filter fun f => f.1 != id }) }

/-- A tensor's generation is incremented: its entries are unpinned and, being stale, miss from then on and are never written back. Where
the generation wraps, and with FREE, which releases the id, they are removed (R89, R91, R95). -/
def State.dropTensor (s : State) (id : Nat) (t : Tensor) (free : Bool) : State :=
  let kept := if free || t.gen == 4095 then s.pack.tlines.filter fun l => l.id != id
    else s.pack.tlines.map fun l => if l.id = id then { l with pin := false } else l
  let s1 := (s.setTlines kept).dropFetches id
  let l := if free then tabErase s1.pack.tensors id else tabSet s1.pack.tensors id { t with gen := (t.gen + 1) % 4096 }
  { s1 with pack := { s1.pack with tensors := l } }

/-- The shape of both: an access through the tensor id (R88, R91). TDROP from another ASID or world of the partition faults as any access
through the id does, where R91 lists only a free id and another partition (DESIGN CHOICE, log 49). -/
def tdropOp (i : Instr) (free : Bool) (s : State) : Result :=
  runInstr i s fun v s => trapOr (s.tensorReg v.a) fun x => .ok () (s.dropTensor x.1 x.2 free)

/-- TDROP (R91). -/
def execTdrop (o : CROps) (s : State) : Result := tdropOp (.tdrop o) false s

/-- TDROP with FREE (R91). -/
def execTdropFree (o : CROps) (s : State) : Result := tdropOp (.tdropFree o) true s

/-! ## TLD (R92) -/

/-- Coordinates packed for a rank. -/
def unpackCoords (rank : Nat) (b : Word) : List Nat :=
  let n := b.toNat
  if rank = 1 then [n, 0, 0, 0]
  else if rank = 2 then [n % 2 ^ 32, n / 2 ^ 32, 0, 0]
  else [n % 2 ^ 16, n / 2 ^ 16 % 2 ^ 16, n / 2 ^ 32 % 2 ^ 16, n / 2 ^ 48]

/-- The bytes of the element's unit within the tile: first byte and length. -/
def unitPlace (f : Fmt) (e : Nat) : Nat × Nat := (e / f.perUnit * f.unitBytes, f.unitBytes)

/-- The raw bits of element e from its unit's bytes (R92). -/
def rawElement (f : Fmt) (e : Nat) (unit : List Byte) : Nat :=
  match f with
  | .i4 => bitsOf unit (4 * (e % 2)) 4
  | .e2m1 => bitsOf unit (8 + 4 * (e % 32)) 4 + bitsOf unit 0 8 * 2 ^ 8
  | .qe2 => bitsOf unit (16 + 3 * (e % 16)) 3 + bitsOf unit 0 8 * 2 ^ 8 + bitsOf unit (8 + e % 16 / 2) 1 * 2 ^ 16
  | .qe4 => bitsOf unit (16 + 5 * (e % 16)) 5 + bitsOf unit 0 8 * 2 ^ 8 + bitsOf unit (8 + e % 16 / 2) 1 * 2 ^ 16
  | .qe7 => bitsOf unit (16 + 8 * (e % 16)) 8 + bitsOf unit 0 8 * 2 ^ 8 + bitsOf unit (8 + e % 16 / 2) 1 * 2 ^ 16
  | _ => bytesToNat unit

/-- TLD (R92). A discarded page reads as zero bytes (R74). -/
def execTld (o : CROps) (s : State) : Result :=
  runInstr (.tld o) s fun v s =>
    trapOr (s.tensorReg v.a) fun x =>
      let d := x.2.desc
      let co := unpackCoords (descRank d) v.b
      if (List.range 4).any fun i => decide (descDim d i ≤ (co[i]?).getD 0) then .trap (Trap.address v.b) none
      else
        let cs := (List.range 4).map fun i => (co[i]?).getD 0 / descTile d i
        let tile := tileIndex d cs
        let u := unitPlace (descFmt d) (elementIndex d co)
        trapOr (s.lineAddr (x.2.linePtr (lineOffset d cs))) fun y =>
          match y.2.irrevocable with
          | none => .wait s
          | some s1 =>
            if y.1.disc then s1.owe o.d.toNat (some 0) none
            else
              let r := (s1.reachHome s1.curCore (tileBucket x.1 tile)).withLine x.1 x.2.gen tile y.1.pa (sectorsTouched u.1 u.2)
              let bad := (sectorsTouched u.1 u.2).any fun k => r.1.psn.getLsbD k
              let val := BitVec.ofNat 64 (rawElement (descFmt d) (elementIndex d co) ((r.1.data.drop u.1).take u.2))
              r.2.owe o.d.toNat (if bad then none else some val) none

/-! ## TLOOK, TFETCH, THALO, TFLUSH -/

/-- The state word of TLOOK (R93). -/
def State.lookWord (s : State) (id : Nat) (t : Tensor) (tile : Nat) : Word × Bool :=
  let l := (s.tline id t.gen tile).getD ⟨id, t.gen, tile, 0, [], 0, 0, 0, false, 0⟩
  let p := l.valid != 0
  (BitVec.ofNat 64 (t.gen * 2 ^ 32 + homeSlice s.pack.map (tileBucket id tile) * 2 ^ 16 + bit l.pin * 2 ^ 9 + l.dirty.toNat * 2 ^ 5
    + l.valid.toNat * 2 + bit p), p)

/-- TLOOK (R93). -/
def execTlook (o : CROps) (s : State) : Result :=
  runInstr (.tlook o) s fun v s =>
    trapOr (s.tileReg v.a) fun x =>
      let w := s.lookWord x.1 x.2.1 x.2.2
      .ok () ((s.setReg o.d.toNat w.1).setPred (lowPred o.b) w.2)

/-- Tile coordinates within a radius of a tile, clipped to the grid (R94). -/
def around (d : List Byte) (co : List Nat) (r : Nat) : List (List Nat) :=
  let span := fun (i : Nat) => (List.range (2 * r + 1)).filterMap fun k =>
    let x := (co[i]?).getD 0 + k
    if r ≤ x ∧ x - r < descGrid d i then some (x - r) else none
  (span 0).flatMap fun a => (span 1).flatMap fun b => (span 2).flatMap fun e => (span 3).map fun f => [a, b, e, f]

/-- TFETCH (R94): the operand is checked, the fills are queued. -/
def execTfetch (o : CROps) (s : State) : Result :=
  runInstr (.tfetch o) s fun v s =>
    trapOr (s.tileReg v.a) fun x =>
      let d := x.2.1.desc
      let b := v.b.toNat % 8
      let r := if b = 7 then field d 57 1 else min b 3
      let c := s.myCore
      .ok () (s.setMyCore { c with fetches := c.fetches ++ (around d (tileCoords d x.2.2) r).map fun t => (x.1, tileIndex d t) })

/-- The state with the core as the issuing one, for translations that an event makes. -/
def State.onCore (s : State) (core : Nat) : State := { s with curCore := core }

/-- TFETCH_FILL (R94): the next prefetch fills its line, or is skipped, as it is over a discarded page or one of MT 2 or 3 (log 49). -/
def execTfetchFill (core : Nat) (s : State) : Result :=
  let c := s.core core
  happens "TFETCH_FILL" <|
    match c.fetches with
    | [] => none
    | (id, tile) :: rest =>
      let s1 := s.setCore core { c with fetches := rest }
      match tabGet s1.pack.tensors id with
      | none => some s1
      | some t =>
        if tile < descCount t.desc then
          match (s1.onCore core).lineAddr (t.linePtr (lineOffset t.desc (tileCoords t.desc tile))) with
          | .ok (tr, s2) =>
            let s3 := { s2 with curCore := s.curCore }
            some (if tr.disc then s3 else ((s3.reachHome core (tileBucket id tile)).withLine id t.gen tile tr.pa [0, 1, 2, 3]).2)
          | .error _ => some s1
        else some s1

/-- Pinned ways of the set where a tile lives (R95). -/
def State.pinned (s : State) (id tile : Nat) : Nat :=
  let home := fun (i t : Nat) => homeSlice s.pack.map (tileBucket i t)
  (s.pack.tlines.filter fun l => l.pin && home l.id l.tile == home id tile && tileSet l.id l.tile == tileSet id tile).length

/-- Pin or unpin one tile: whether it reached the requested state (R95), over a page that the tensor path may reach (R76). A tile of a
discarded page is neither filled nor pinned, and a page that is not mapped does not hold its tile pinned (log 49). -/
def State.markTile (s : State) (id : Nat) (t : Tensor) (tile : Nat) (mark : Bool) : Except Trap (Bool × State) :=
  let put := fun (s : State) (b : Bool) => s.setTlines (s.pack.tlines.map fun l => if l.named id t.gen tile then { l with pin := b } else l)
  match s.lineAddr (t.linePtr (lineOffset t.desc (tileCoords t.desc tile))) with
  | .error e => if mark || e.code == 5 then .error e else .ok (true, put s false)
  | .ok (tr, s1) =>
      if !mark then .ok (true, put s1 false)
      else if tr.disc then .ok (false, s1)
      else
        let held := match s1.tline id t.gen tile with
          | some l => l.pin
          | none => false
        let full := !held && decide (8 ≤ s1.pinned id tile)
        let s2 := (s1.withLine id t.gen tile tr.pa [0, 1, 2, 3]).2
        .ok (!full, if full then s2 else put s2 true)

/-- Pin or unpin tiles in order. -/
def State.markTiles (s : State) (id : Nat) (t : Tensor) (mark : Bool) : List Nat → Except Trap (Bool × State)
  | [] => .ok (true, s)
  | k :: rest =>
    match s.markTile id t k mark with
    | .error e => .error e
    | .ok (b, s1) =>
      match State.markTiles s1 id t mark rest with
      | .error e => .error e
      | .ok (c, s2) => .ok (b && c, s2)

/-- THALO (R95). -/
def execThalo (o : CROps) (s : State) : Result :=
  runInstr (.thalo o) s fun v s =>
    trapOr (s.tileReg v.a) fun x =>
      let n := v.b.toNat / 2 % 4096
      if v.b.toNat ≥ 2 ^ 13 ∨ n = 0 then .trap (Trap.address v.b) none
      else if descCount x.2.1.desc < x.2.2 + n then .trap (Trap.address v.a) none
      else
        trapOr (s.markTiles x.1 x.2.1 (v.b.getLsbD 0) ((List.range n).map (x.2.2 + ·))) fun r =>
          .ok () (r.2.setPred (lowPred o.d) r.1)

def tflushOp (i : Instr) (inv : Bool) (s : State) : Result :=
  runInstr i s fun v s =>
    trapOr (s.tensorReg v.a) fun x =>
      afterLoads s fun s => afterStores s fun s =>
        .ok () ((s.flushLines (fun l => l.id == x.1 && l.gen == x.2.gen) inv).syncL1 (clusterOf s.curCore) .package)

/-- TFLUSH (R96). -/
def execTflush (o : CROps) (s : State) : Result := tflushOp (.tflush o) false s

/-- TFLUSH.INV (R96). -/
def execTflushInv (o : CROps) (s : State) : Result := tflushOp (.tflushInv o) true s

/-! ## Slice-resident queues -/

/-- The queue whose line stands at a physical address, with its place in the table. -/
def State.queueAt (s : State) (pa : Nat) : Option (Nat × SliceQueue) := findIdx (fun (q : SliceQueue) => q.pa == pa) s.pack.queues

def SliceQueue.count (q : SliceQueue) : Nat := (q.tail + 8192 - q.head) % 8192

/-- Translate a queue line (R50, R100, R101, R380): its physical address, or the trap; a window pointer names no queue, and no queue stands
at a partition register, whose page is uncacheable. A line that is carried to another slice holds the operation back (R104). -/
def State.queuePlace (s : State) (p : Word) (acc : Acc) (k : Option Trans → State → Res Unit) : Res Unit :=
  match s.place s.who p 1 with
  | none => .trap (Trap.address p) none
  | some (.remote pkg _) => s.migrate p pkg
  | some (.window _ _) => k none s
  | some (.flat va) =>
    match s.translate s.curCore va acc .package with
    | .error e => .trap (e.trap p acc) none
    | .ok (tr, s1) =>
      if windowBase ≤ tr.pa ∧ tr.pa < windowEnd then k none s1
      else if framedEnd ≤ tr.pa then .trap ((TFault.unbacked tr.pa).trap p acc) none
      else if s.lineHeld s.curCore tr.pa then .wait s
      else if s1.lineCarried (lineOf tr.pa) then .wait (s.waitFor (.carried (lineOf tr.pa)))
      else
        let s2 := s1.reachHome s1.curCore (bucketOf tr.pa)
        if (s2.slice (homeSlice s2.pack.map (bucketOf tr.pa))).secure && !ascrSec s.myCore.regs.ascr then .trap { code := 10, addr := p } none
        else k (some tr) s2

/-- Create, replace or destroy the queue at a place (R100): the result predicate. While the home slice is flushing, it holds the new
queue until its map is installed (log 49). -/
def State.makeQueue (s : State) (pa c : Nat) : Bool × State :=
  let others := s.pack.queues.filter fun q => q.pa != pa
  let h := homeSlice s.pack.map (bucketOf pa)
  let put := fun (s : State) (l : List SliceQueue) => { s with pack := { s.pack with queues := l } }
  let gone := if (s.queueAt pa).isSome then s.grantQueue pa else s
  if c = 0 then (true, put gone others)
  else if 64 ≤ (others.filter fun q => q.slice == h).length then (false, s)
  else (true, put gone (others ++ [⟨pa, h, c, 0, 0⟩]))

/-- The leaf that serves the first address serves the last as well (R100). -/
def State.samePage (s : State) (first last : Nat) : Bool :=
  match s.walkLeaf s.curCore first with
  | .ok (l, _) => first / l.size == last / l.size
  | .error _ => true

/-- QINIT (R100). -/
def execQinit (o : CROps) (s : State) : Result :=
  runInstr (.qinit o) s fun v s =>
    let c := v.b.toNat
    let p := v.a
    let last := lowOf p + 192 + 8 * c - 1
    if 4096 < c ∨ lowOf p % 192 ≠ 0 ∨ !(tagOf p == 0 || (tagOf p ≤ 0xC0 && tagOf p == s.pack.pkg + 1)) then .trap (Trap.address p) none
    else
      (s.queuePlace p .write fun t s =>
        match t with
        | none => .trap (Trap.address p) none
        | some tr =>
          if tr.mt ≠ .writeBack then .trap (Trap.address p) none
          else
            let done := fun (s : State) =>
              let r := s.makeQueue tr.pa c
              Res.ok () (r.2.setPred (lowPred o.d) r.1)
            match s.translate s.curCore last .write .package with
            | .error e => .trap (e.trap (mkPtr (tagOf p) last) .write) none
            | .ok (t2, s1) => if t2.pa ≠ tr.pa + 192 + 8 * c - 1 ∨ s.samePage (lowOf p) last = false then .trap (Trap.address p) none else done s1).orElseWait s

/-- QPUSH (R101). One that finds the queue full or absent, and a QPOP that finds it empty, changes nothing: the line's scope record stays as
it is, untouched (DESIGN CHOICE, log 49). -/
def execQpush (o : CROps) (s : State) : Result :=
  runInstr (.qpush o) s fun v s =>
    (s.queuePlace v.a .atomic fun t s =>
      afterStores s fun s =>
        let s1 := s.syncL1 (clusterOf s.curCore) .package
        match t.bind fun tr => (s1.push tr.pa v.b).map fun s2 => s2.touchLine s2.curCore (.flat tr.pa tr.mt) (some .package) true with
        | some s2 => .ok () (s2.setPred (lowPred o.d) true)
        | none => .ok () (s1.setPred (lowPred o.d) false)).orElseWait s

/-- The oldest entry of a queue is removed (R101): its value, or poison (R56). -/
def State.pop (s : State) (pa : Nat) : Option (Option Word × State) :=
  match s.queueAt pa with
  | none => none
  | some (i, q) =>
    if q.count = 0 then none
    else
      let k := pa + 192 + 8 * (q.head % q.cap)
      some (if s.poisonedAt k 8 then none else some (s.entryAt k),
        { s with pack := { s.pack with queues := listSet s.pack.queues i { q with head := (q.head + 1) % 8192 } } })

/-- QPOP (R101): an acquire where it removes an entry, and an atomic on the queue's line (R98). -/
def execQpop (o : CROps) (s : State) : Result :=
  runInstr (.qpop o) s fun v s =>
    (s.queuePlace v.a .atomic fun t s =>
      match t.bind fun tr => (s.pop tr.pa).map fun r => (r.1, r.2.touchLine s.curCore (.flat tr.pa tr.mt) none true) with
      | some (w, s1) => (s1.dropL1 (clusterOf s.curCore) .package).owe o.d.toNat w (some (lowPred o.b, true))
      | none => s.owe o.d.toNat (some 0) (some (lowPred o.b, false))).orElseWait s

/-- QWAIT (R102). -/
def execQwait (o : CROps) (s : State) : Result :=
  runInstr (.qwait o) s fun v s =>
    if s.me.grant = some .done then .ok () s.endWait
    else
      (s.queuePlace v.a .read fun t s =>
        match t.bind fun tr => (s.queueAt tr.pa).map fun q => (tr.pa, q.2.count) with
        | some (pa, 0) => .wait (s.waitFor (.queue pa))
        | _ => .ok () s).orElseWait s

/-- QWAIT_WAKE (R102). -/
def execQwaitWake (core k : Nat) (s : State) : Result :=
  s.endWaitOf "QWAIT_WAKE" core k (fun w => match w with | .queue _ => (s.ctx core k).grant.isSome | _ => false) (some .done)

end Sys2Proof.Machine
end

