-- ==== Sys2Proof/Machine/Homes.lean ====
section
/-! DEFINITION. Events of main memory, home slices, scratchpads, cluster memory and of the producers and stores of a core: R56–R62,
R105, R106, R117–R119, R158, R294. -/

namespace Sys2Proof.Machine

/-! ## Cores (R158, R294) -/

/-- PRODUCER_RESULT (R101, R158, R159, R193): the result of a long-latency producer returns. -/
def execProducerResult (core i : Nat) (s : State) : Result :=
  happens "PRODUCER_RESULT" <|
    let c := s.core core
    match c.owed[i]? with
    | none => none
    | some o => some ((s.setCore core { c with owed := listDrop c.owed i }).receiveAll core o.ctx [o])

/-- STORE_LEAVES_BUFFER (R294, R297): an entry is performed, or faults into its record. -/
def execStoreLeavesBuffer (core i : Nat) (s : State) : Result := happens "STORE_LEAVES_BUFFER" (s.storeLeaves core i)

/-! ## Error correction (R56–R59) -/

def State.channel (s : State) (ch : Nat) : Channel := tabGetD s.pack.channels ch Channel.reset

def State.setChannel (s : State) (ch : Nat) (x : Channel) : State :=
  { s with pack := { s.pack with channels := tabSet s.pack.channels ch x } }

/-- The device row that holds an address (R58). -/
def rowOf (pa : Nat) : Nat := Config.rowOfSlot (channelOf pa) (slotOf pa)

/-- HBM's sector of an address is poisoned (R56): below its slice's entry where that holds the sector. -/
def State.poisonHbm (s : State) (pa : Nat) : State :=
  match s.sliceHolds pa with
  | some e => s.setFlines (tabSet s.pack.flines (lineOf pa) { e with hpsn := bitTo e.hpsn (pa % 192 / 48) true })
  | none => { s with poison := poisonMark s.poison pa }

/-- What the code finds in a sector of HBM (R56): a corrected error is counted; an uncorrectable one poisons the sector, and the steward
has a record of channel, Q and sector. A sector that its slice holds is read from there and keeps its value. -/
def State.eccFound (s : State) (pa : Nat) (err : EccError) : State :=
  let ch := channelOf pa
  let x := s.channel ch
  let row := rowOf pa
  match err with
  | .none | .accumulator _ => s
  | .corrected =>
    s.setChannel ch { x with corrected := x.corrected + 1, rowErrors := tabSet x.rowErrors row (tabGetD x.rowErrors row 0 + 1) }
  | .uncorrectable =>
    let s1 := (s.setChannel ch { x with bad := if x.bad.contains row then x.bad else x.bad ++ [row] }).poisonHbm pa
    let st := s1.pack.steward
    { s1 with pack := { s1.pack with steward := { st with eccRecords := st.eccRecords ++ [(ch, slotOf pa, pa % 192 / 48)] } } }

/-- A new scrub period of a channel begins where the scrub reaches its first sector (R57, R58, log 4). A row that has met three errors in
the period that ends is still to be copied. -/
def State.newPeriod (s : State) (pa : Nat) : State :=
  let x := s.channel (channelOf pa)
  if channelOffset pa = 0 then s.setChannel (channelOf pa) { x with rowErrors := x.rowErrors.filter fun q => decide (3 ≤ q.2) } else s

/-- PATROL_SCRUB (R56, R57): read-and-correct of one sector. -/
def execPatrolScrub (sector : Nat) (err : EccError) (s : State) : Result :=
  happens "PATROL_SCRUB" <|
    if sector * 48 < backedEnd then some ((s.newPeriod (sector * 48)).eccFound (sector * 48) err) else none

/-- The address of the line in slot Q of a channel (R53). -/
def lineAddrOf (ch q : Nat) : Nat :=
  192 * (320 * q + (ch + 320 * 320 - (97 * (q % 320) + q / 320) % 320) % 320)

/-- Slots in a channel (R52). -/
def channelSlots : Nat := 13981013

/-- Frames that hold a line of a row of a channel, rising and without repeats (R59). -/
def framesOfRow (ch row : Nat) : List Nat :=
  ((List.range channelSlots).filter fun q => Config.rowOfSlot ch q == row).foldl (fun l q =>
    let f := lineAddrOf ch q / page0
    if l.contains f then l else l ++ [f]) []

/-- Frame retirement (R59, R373): event TYPE 1 for each frame to every partition that owns it. -/
def State.retireFrames (s : State) (fs : List Nat) : State :=
  fs.foldl (fun s f => s.pack.parts.foldl (fun s p => if p.2.live && p.2.ownsFrame f then s.postEvent p.1 1 0 f else s) s) s

/-- The metadata of a channel follows its training and its sparing map (R52). -/
def Channel.refresh (x : Channel) : Channel := { x with meta_ := (List.range 8).map (Config.metaDword x.rate x.remapped) }

/-- A steward write of a dword of a channel's metadata reaches its sparing map too (R52). -/
def Channel.writeMeta (x : Channel) (i : Nat) (v : Word) : Channel :=
  let m := listSet x.meta_ i v
  { x with meta_ := m, remapped := Config.metaSparing m }

/-- Every channel is trained at a rate but those that fail (R383): the rate in tenths of Gb/s. -/
def State.train (s : State) (rate : Nat) (bad : List Nat) : State :=
  { s with pack := { s.pack with channels := (List.range 320).map fun ch =>
      (ch, { s.channel ch with rate := if bad.contains ch then 0 else rate }.refresh) } }

/-- The training rate of each channel (R382). -/
def State.rates (s : State) : List (Nat × Nat) := s.pack.channels.map fun e => (e.1, e.2.rate)

/-- ROW_SPARING (R58, R59): a row with three corrected errors or an uncorrectable one is remapped to a spare, or its frames are
reported where the channel has none left. -/
def execRowSparing (ch row : Nat) (s : State) : Result :=
  happens "ROW_SPARING" <|
    let x := s.channel ch
    if 320 ≤ ch ∨ (tabGetD x.rowErrors row 0 < 3 ∧ !x.bad.contains row) then none
    else
      let y := { x with rowErrors := tabErase x.rowErrors row, bad := x.bad.filter (· != row) }
      if x.used < Config.spareRows ch then
        some (s.setChannel ch { y with used := x.used + 1, remapped := x.remapped ++ [(row, x.used)] }.refresh)
      else some ((s.setChannel ch y).retireFrames (framesOfRow ch row))

/-! ## Home slices (R60–R62, R104) -/

/-- A request performed at its home (R56, R57, R84): a read leaves what the code found; a write is performed for the requester's
cluster too. -/
def State.sliceServe (s : State) (core pa : Nat) (op : PortOp) : State :=
  let s1 := s.eccFound pa op.err
  if op.write then
    ((s1.seen pa op.size none).homeWrite (clusterOf core) pa (natBytes op.value.toNat op.size)).wakeWatches
  else s1.touchFlats pa op.size .read .normal

/-- The operand of an access at a serving point lies in one granule of it. -/
def PortSize (n : Nat) : Bool := n == 1 || n == 2 || n == 4 || n == 8

/-- SLICE_REQUEST (R60, R62, R309): the home slice by the requester's copy of the map performs the request, or answers "moved" with its
generation, and the requester holds its line. -/
def execSliceRequest (core pa : Nat) (op : PortOp) (s : State) : Result :=
  happens "SLICE_REQUEST" <|
    if 1200 ≤ core ∨ !PortSize op.size ∨ pa % op.size ≠ 0 ∨ backedEnd < pa + op.size ∨ s.lineHeld core pa then none
    else
      let h := homeSlice (s.cluster (clusterOf core)).sliceMap (bucketOf pa)
      if s.servedFrom (clusterOf core) h (bucketOf pa) then some (s.sliceServe core pa op)
      else
        let c := s.core core
        some (s.setCore core { c with moved := c.moved ++ [⟨pa, op, (s.slice h).gen⟩] })

/-- MOVED_ANSWER (R62, R306): the oldest moved request of the core: the event is counted, a newer map is fetched, the request is
resent, and a watch on the line is lost. -/
def execMovedAnswer (core : Nat) (s : State) : Result :=
  happens "MOVED_ANSWER" <|
    match (s.core core).moved with
    | [] => none
    | m :: rest =>
      let s1 := s.count core .moved 1
      let cl := clusterOf core
      let c := s1.cluster cl
      let s2 := if c.sliceGen < m.gen then s1.setCluster cl { c with sliceMap := s1.pack.map, sliceGen := s1.pack.gen } else s1
      let s3 := s2.hitWatches (fun n w => n == core && w.flat && lineOf w.key == lineOf m.pa) 3
      let h := homeSlice (s3.cluster cl).sliceMap (bucketOf m.pa)
      if s3.servedFrom cl h (bucketOf m.pa) then some ((s3.setCore core { s3.core core with moved := rest }).sliceServe core m.pa m.op)
      else some (s3.setCore core { s3.core core with moved := { m with gen := (s3.slice h).gen } :: rest })

/-- Live slices of the package. -/
def State.liveSlices (s : State) : List Nat := (List.range 50).filter fun h => (s.slice h).state == .live

/-- How many buckets a map gives a slice. -/
def bucketsOf (map : List Nat) (h : Nat) : Nat := (map.filter (· == h)).length

/-- The slice with the fewest buckets of a list, the lowest-numbered of several. -/
def fewest (map : List Nat) : List Nat → Option Nat
  | [] => none
  | h :: t =>
    match fewest map t with
    | none => some h
    | some k => if bucketsOf map h ≤ bucketsOf map k then some h else some k

/-- Each entry that names `gone` takes the live slice with the fewest buckets, counted as the map is being built (R61): the map
and each moved bucket with its new slice. -/
def rebuildMap (gone : Nat) (live : List Nat) : List Nat → List Nat → List Nat × List (Nat × Nat)
  | [], map => (map, [])
  | b :: t, map =>
    if homeSlice map b = gone then
      match fewest map live with
      | some h =>
        let r := rebuildMap gone live t (listSet map b h)
        (r.1, (b, h) :: r.2)
      | none => rebuildMap gone live t map
    else rebuildMap gone live t map

/-- The home slice of a tensor line (R54). -/
def State.lineHome (s : State) (l : TLine) : Nat := homeSlice s.pack.map (tileBucket l.id l.tile)

/-- The queues of a slice are carried to the gaining slices of their buckets (R104). -/
def State.carryQueues (s : State) (h : Nat) (g : List (Nat × Nat)) : State :=
  let qs := s.pack.queues.map fun q => if q.slice = h then { q with slice := (tabGet g (bucketOf q.pa)).getD q.slice } else q
  { s with pack := { s.pack with queues := qs } }

/-- A slice holds a dirty sector (R61). -/
def State.holdsDirty (s : State) (h : Nat) : Bool :=
  (s.pack.tlines.any fun l => s.lineHome l == h && l.dirty != 0)
    || s.pack.flines.any fun e => s.pack.flatHome e.1 == h && e.2.dirty != 0

/-- SLICE_RETIREMENT (R61, R104): the new map is built, the slice is flushing, its dirty sectors are written back, and its queues
are carried to the gaining slices; scope records go with their lines. Until the map is installed, queue operations and scope checks on
those lines are held. -/
def execSliceRetirement (h : Nat) (s : State) : Result :=
  happens "SLICE_RETIREMENT" <|
    let live := s.liveSlices.filter (· != h)
    let x := s.slice h
    if 50 ≤ h ∨ x.state ≠ .live ∨ live.isEmpty ∨ !s.pack.steward.up ∨ s.pack.slices.any (fun y => y.state == .flushing) then none
    else
      let g := (rebuildMap h live (List.range 50) s.pack.map).2
      let s1 := s.setSlice h { x with state := .flushing, gaining := g }
      let s2 := s1.flushLines (fun l => s.lineHome l == h) false
      let s3 := s2.setFlines (s2.pack.flines.map fun e => if s.pack.flatHome e.1 = h then (e.1, s2.cleanFlat e.1 e.2) else e)
      some (s3.carryQueues h g)

/-- What the configuration record says of the machine as it is, where board flash holds none: no partition (R382). -/
def State.ownRecord (s : State) : ConfigRec :=
  { version := 0, sliceMap := s.pack.map, sliceGen := s.pack.gen,
    retiredPlanes := (List.range 4).filter fun p => !s.pack.planes.live.getLsbD p,
    spares := s.clusters.filterMap (fun e => e.2.spareUsed.map fun i => (e.1, i)), rates := s.rates, parts := [] }

/-- The record that Infield writes next: version counter + 1, the channels' rates as they are (R382). -/
def State.nextRecord (s : State) (f : ConfigRec → ConfigRec) : ConfigRec :=
  { f (s.pack.flash.record.getD s.ownRecord) with version := s.pack.flash.counter + 1, rates := s.rates }

/-- Infield writes a new configuration record and increments the counter (R63, R382). -/
def State.writeRecord (s : State) (f : ConfigRec → ConfigRec) : State :=
  let fl := s.pack.flash
  let r := s.nextRecord f
  { s with pack := { s.pack with flash := { fl with record := some r, previous := some r, counter := fl.counter + 1 } } }

/-- Install a map in a slice. -/
def State.installMap (s : State) (map : List Nat) (gen : Nat) (h : Nat) : State :=
  s.setSlice h { s.slice h with map := map, gen := gen }

/-- Operations and checks on lines that have been carried are answered "moved" once the map is installed, and are made again (R62, R104). -/
def State.answerCarried (s : State) (g : List (Nat × Nat)) : State :=
  let on := fun (x : Ctx) => match x.wait with
    | some (.carried line) => x.live && (tabGet g (bucketOf (192 * line))).isSome
    | _ => false
  s.cores.foldl (fun s p =>
    let n := (p.2.ctxs.filter fun q => on q.2).length
    if n = 0 then s
    else
      let s1 := s.count p.1 .moved n
      let c := s1.core p.1
      s1.setCore p.1 { c with ctxs := c.ctxs.map fun q => if on q.2 then (q.1, { q.2 with wait := none, grant := none }) else q }) s

/-- SLICE_MAP_INSTALL (R61, R63, R104, R309, R373): once the slice holds no dirty sector and the queues made on it meanwhile are carried,
generation g + 1 is installed in the gaining slices, in every cluster directory and in the slice, which drops its lines and answers "moved"
from then on. -/
def execSliceMapInstall (h : Nat) (s : State) : Result :=
  happens "SLICE_MAP_INSTALL" <|
    let x := s.slice h
    if 50 ≤ h ∨ x.state ≠ .flushing ∨ !s.pack.steward.up ∨ s.holdsDirty h then none
    else
      let gen := (s.pack.gen + 1) % 2 ^ 32
      let map := x.gaining.foldl (fun m e => listSet m e.1 e.2) s.pack.map
      let mine := (s.pack.flines.filter fun e => s.pack.flatHome e.1 == h).map (·.1)
      let s0 := (mine.foldl (fun s line => s.dropFlat line) (s.flushLines (fun l => s.lineHome l == h) true)).carryQueues h x.gaining
      let s1 := (x.gaining.map (·.2)).foldl (fun s k => s.installMap map gen k) s0
      let s2 := (List.range 50).foldl (fun s c => s.setCluster c { s.cluster c with sliceMap := map, sliceGen := gen }) s1
      let s3 := s2.setSlice h { s2.slice h with map := map, gen := gen, state := .retired, gaining := [] }
      let s4 : State := { s3 with pack := { s3.pack with map := map, gen := gen } }
      let s5 := (s4.hitWatches (fun _ w => w.flat && (tabGet x.gaining (bucketOf w.key)).isSome) 3).answerCarried x.gaining
      let s6 := s5.writeRecord fun r => { r with sliceMap := map, sliceGen := gen }
      some (s6.pack.parts.foldl (fun s p => if p.2.live then s.postEvent p.1 2 h gen else s) s6)

/-! ## Scratchpads and cluster memory (R105, R106, R117–R119) -/

/-- A port performs a write (R105, R117, R157): the units and the watches see it. -/
def State.portWrite (s : State) (k : Nat) (op : PortOp) : State :=
  if op.write then ((s.seen k op.size none).putWindow k (natBytes op.value.toNat op.size)).wakeWatches else s

/-- SCRATCHPAD_ACCESS (R105, R106, R234): the single port of a scratchpad performs an access; a corrected error is counted, an
uncorrectable one poisons the word. A word of the core's accumulator memory may turn out to hold an uncorrectable error meanwhile. -/
def execScratchpadAccess (core off : Nat) (op : PortOp) (s : State) : Result :=
  happens "SCRATCHPAD_ACCESS" <|
    if 1200 ≤ core ∨ !PortSize op.size ∨ off % op.size ≠ 0 ∨ 0x80000 < off + op.size then none
    else
      let k := spKey core off
      let st := s.pack.steward
      let s1 : State := match op.err with
        | .uncorrectable => { s with poison := poisonMark s.poison k }
        | .corrected => { s with pack := { s.pack with steward := { st with corrected := st.corrected + 1 } } }
        | .accumulator w => { s with poison := poisonMark s.poison (accKey core (w / 128 % 512) (w % 128)) }
        | .none => s
      some (s1.portWrite k op)

/-- EXPANDER_ACCESS (R117, R119): the expander serves an access; a pack that it decodes from a sector with an uncorrectable error
enters with all its sectors poisoned. -/
def execExpanderAccess (cl off : Nat) (op : PortOp) (s : State) : Result :=
  happens "EXPANDER_ACCESS" <|
    if 50 ≤ cl ∨ !PortSize op.size ∨ off % op.size ≠ 0 ∨ 33552384 < off + op.size then none
    else
      let k := cmKey cl off
      let miss := !(s.cluster cl).expanded.contains (packOf off)
      let s1 := s.expandKey k
      let base := cmKey cl (packBytes * packOf off)
      let s2 := if miss && op.err == .uncorrectable then
          { s1 with poison := (List.range 64).foldl (fun p i => poisonMark p (base + 48 * i)) s1.poison }
        else s1
      some (s2.portWrite k op)

/-- PACK_COMPACTION (R118): the stored packs are placed one behind the other; no value changes. -/
def execPackCompaction (cl : Nat) (s : State) : Result :=
  happens "PACK_COMPACTION" <|
    if 50 ≤ cl then none
    else some (s.setCluster cl { s.cluster cl with packs := compact (s.cluster cl).packs 0 })

end Sys2Proof.Machine
end

