-- ==== Sys2Proof/Machine/EngineMem.lean ====
section
/-! DEFINITION. How the engines reach memory (R64–R76, R105, R116, R132–R135): operands as pieces of pages and windows, reads,
writes, and the undefined bytes a failed command leaves (R146). -/

namespace Sys2Proof.Machine

/-! ## Errors (R145) -/

def EngErr.of (reason : Nat) (addr : Word) : EngErr := ⟨reason, addr, 0, 0⟩

def errIll : EngErr := EngErr.of 1 0

def errAddr (p : Word) : EngErr := EngErr.of 2 p

def errPoison (p : Word) : EngErr := EngErr.of 6 p

def errUnbacked (p : Word) : EngErr := EngErr.of 5 p

def TFault.eng (f : TFault) (p : Word) : EngErr :=
  match f with
  | .page c => ⟨3, p, 0, c⟩
  | .world => EngErr.of 4 p
  | .unbacked _ => errUnbacked p

/-- Not an error: a line of the operand is held until a request that a slice sent back is performed (R62), and the work waits. -/
def errHeld : EngErr := EngErr.of 0 0

/-- Sequencing of engine work: the first error ends it. -/
abbrev Eng? (α : Type) := Except EngErr α

/-- An ill-formed record, unless a condition holds. -/
def needs (b : Bool) : Eng? Unit := if b then .ok () else .error errIll

/-- The agent of a command: its issuing core, with the workspace active at its issue (R65) and the command's policy. -/
def Cmd.who (c : Cmd) (core : Nat) : Who := ⟨core, c.wp.toNat, c.psize.toNat, c.policy, c.race.took⟩

/-! ## Pieces of an operand -/

/-- A part of an operand within one page or window: its first key, length, memory type, whether the page is discarded, the
pointer of its first byte, the policy of the access, and the bytes that have been read before they changed (R135). -/
structure Piece where
  key : Nat
  len : Nat
  mt : Option MemType
  disc : Bool
  ptr : Word
  pol : Nat
  took : List Host.Cell
deriving DecidableEq, Repr

/-- A line of the piece is held (R62). -/
def State.heldPiece (s : State) (core : Nat) (q : Piece) : Bool :=
  q.key < spBase && (s.core core).moved.any fun m => decide (lineOf q.key ≤ lineOf m.pa) && decide (lineOf m.pa ≤ lineOf (q.key + q.len - 1))

/-- Translate `n` bytes of the local space page by page (fuel: the number of pages they can touch). -/
def State.flatPieces (s : State) (w : Who) (acc : Acc) (sc : Scope) (p : Word) :
    Nat → Nat → Nat → Eng? (List Piece × State)
  | 0, _, _ => .ok ([], s)
  | fuel + 1, va, n =>
    if n = 0 then .ok ([], s)
    else
      let k := min n (page0 - va % page0)
      match s.translate w.core va acc sc with
      | .error f => .error (f.eng p)
      | .ok (t, s1) =>
        match State.flatPieces s1 w acc sc (mkPtr (tagOf p) (lowOf p + k)) fuel (va + k) (n - k) with
        | .error e => .error e
        | .ok (l, s2) => .ok (⟨t.pa, k, some t.mt, t.disc, p, w.pol, w.took⟩ :: l, s2)

/-- The pieces of an operand of this package: `n` bytes at a generic pointer, checked and translated (R64, R70, R105, R116), none of their
lines held (R62). -/
def State.pieces (s : State) (w : Who) (p : Word) (n : Nat) (acc : Acc) (sc : Scope) : Eng? (List Piece × State) :=
  match s.place w p n with
  | some (.window k _) => .ok ([⟨k, n, none, false, p, w.pol, w.took⟩], s)
  | some (.flat va) =>
    if vaLimit < va + n then .error (errAddr p)
    else
      match s.flatPieces w acc sc p (n / page0 + 2) va n with
      | .error e => .error e
      | .ok (l, s1) => if l.any (s.heldPiece w.core) then .error errHeld else .ok (l, s1)
  | _ => .error (errAddr p)

/-- The package that holds an operand, where it is another one (R79). -/
def State.remoteOf (s : State) (w : Who) (p : Word) : Option (Nat × Nat) :=
  match s.place w p 1 with
  | some (.remote pkg va) => some (pkg, va)
  | _ => none

/-! ## Reading -/

/-- Each line of a range reaches its home slice (R54, R62). -/
def State.reachLines (s : State) (core pa n : Nat) : State :=
  (List.range (lineOf (pa + n - 1) + 1 - lineOf pa)).foldl (fun s i => s.reachHome core (bucketOf (pa + 192 * i))) s

/-- Read the register window byte by byte (R377). -/
def State.windowBytes (s : State) (part pa : Nat) : Nat → Option (List Byte)
  | 0 => some []
  | n + 1 =>
    match State.windowBytes s part pa n, s.windowRead part (pa + n) 1 with
    | some l, some b => some (l ++ b)
    | _, _ => none

/-- The piece's page keeps it out of the caches (R76). -/
def Piece.uncached (q : Piece) : Bool := q.mt == some .uncacheable || q.mt == some .device

/-- Whether a piece's bytes are poisoned (R56, R106, R119), where they are read: at the memory controller, or at the home (R76); a discarded
page touches no memory (R74). -/
def State.piecePoison (s : State) (q : Piece) : Bool :=
  !q.disc && (if q.uncached then s.hbmPoison q.key q.len else s.poisonedAt q.key q.len)

/-- An engine's read of a piece passes the home slices of its lines, where its page may be cached (R54, R62, R84). -/
def State.passHomes (s : State) (core : Nat) (q : Piece) : State :=
  let s1 := s.reachLines core q.key q.len
  if q.uncached then s1 else s1.touchFlats q.key q.len .read (retainOf q.pol)

/-- Bytes read at a key, with what has been read of them before it changed (R135). -/
def overTook (took : List Host.Cell) (k : Nat) (bs : List Byte) : List Byte :=
  took.foldl (fun bs c => if k ≤ c.1 ∧ c.1 < k + bs.length then bs.set (c.1 - k) c.2 else bs) bs

/-- The bytes of a piece: a discarded page reads as zero (R74); of memory, what its cluster holds dirty comes first (R326), of a page that is
not cached HBM's (R76), and what an alias of a running copy's destination reaches is undefined (R133). -/
def State.readPiece (s : State) (core : Nat) (q : Piece) : Eng? (List Byte × State) :=
  if q.disc then .ok (List.replicate q.len 0, s)
  else if windowBase ≤ q.key ∧ q.key < windowEnd then
    (match s.windowBytes (s.partOf core) q.key q.len with
    | some b => .ok (b, s)
    | none => .error (errUnbacked q.ptr))
  else if hostBase ≤ q.key ∧ q.key < hostEnd then .ok (freeBytes s.free q.len, { s with free := s.free + 1 })
  else if s.piecePoison q then .error (errPoison q.ptr)
  else if q.key < spBase then
    if s.aliasHit core (lowOf q.ptr) q.key q.len then .ok (freeBytes s.free q.len, { s.passHomes core q with free := s.free + 1 })
    else
      .ok (overTook q.took q.key (if q.uncached then s.hbmBytes q.key q.len else s.agentBytes (clusterOf core) q.key q.len), s.passHomes core q)
  else .ok (overTook q.took q.key (s.bytesAt q.key q.len), s.expandRange q.key q.len)

def State.readPieces (s : State) (core : Nat) (l : List Piece) : Eng? (List Byte × State) :=
  match l with
  | [] => .ok ([], s)
  | q :: t =>
    match s.readPiece core q with
    | .error e => .error e
    | .ok (b, s1) =>
      match State.readPieces s1 core t with
      | .error e => .error e
      | .ok (l, s2) => .ok (b ++ l, s2)

/-- Read an operand (R132). -/
def State.engRead (s : State) (w : Who) (p : Word) (n : Nat) (sc : Scope) : Eng? (List Byte × State) :=
  match s.pieces w p n .read sc with
  | .error e => .error e
  | .ok (l, s1) => s1.readPieces w.core l

/-! ## Writing -/

/-- A range is about to be written: the commands that run meet it, and the units see each of its sectors (R135, R356). -/
def State.seenRange (s : State) (k n : Nat) : State :=
  if s.clusters.any (fun p => !p.2.pfu.isEmpty) then
    (List.range ((n + 94) / 48)).foldl (fun s i => s.unitsSee (min (k + 48 * i) (k + n - 1)) 1 none) (s.meetRaces k n)
  else s.meetRaces k n

/-- Write into the register window, a register at a time (R377; fuel: the number of bytes). -/
def State.windowPut (s : State) (part : Nat) : Nat → Nat → List Byte → Option State
  | 0, _, _ => some s
  | fuel + 1, pa, bs =>
    if bs.isEmpty then some s
    else
      let k := 8 - pa % 8
      match s.windowWrite part pa (bs.take k) with
      | none => none
      | some s1 => State.windowPut s1 part fuel (pa + k) (bs.drop k)

/-- Write to the host, up to 8 bytes a message (fuel: the number of bytes). -/
def State.hostPut (s : State) (part : Nat) : Nat → Nat → List Byte → State
  | 0, _, _ => s
  | fuel + 1, pa, bs =>
    if bs.isEmpty then s
    else
      let b := bs.take (8 - pa % 8)
      State.hostPut (s.emit (.hostWrite part (pa - hostBase) b.length (BitVec.ofNat 64 (bytesToNat b)))) part fuel
        (pa + b.length) (bs.drop b.length)

/-- Write a piece (R128, R132): at the home, where the agent's own cluster and every other agent of the scope see it, after what an atomic
or a release of the cluster left dirty (R331). -/
def State.writePiece (s0 : State) (core : Nat) (q : Piece) (bs : List Byte) : Eng? State :=
  let cl := clusterOf core
  let s := s0.flushSync cl
  if windowBase ≤ q.key ∧ q.key < windowEnd then
    (match s.windowPut (s.partOf core) bs.length q.key bs with
    | some s1 => .ok s1
    | none => .error (errUnbacked q.ptr))
  else if hostBase ≤ q.key ∧ q.key < hostEnd then .ok (s.hostPut (s.partOf core) bs.length q.key bs)
  else if q.key < spBase then
    .ok ((((s.seenRange q.key q.len).reachLines core q.key q.len).homePut cl q.key bs (q.mt.getD .writeBack) q.pol).blur cl q.key q.len)
  else .ok (((s.seenRange q.key q.len).putWindow q.key bs).blur cl q.key q.len)

/-- Write pieces in order. -/
def State.writePieces (s : State) (core : Nat) (l : List Piece) (bs : List Byte) : Eng? State :=
  match l with
  | [] => .ok s.wakeWatches
  | q :: t =>
    match s.writePiece core q (bs.take q.len) with
    | .error e => .error e
    | .ok s1 => State.writePieces s1 core t (bs.drop q.len)

/-- Write an operand (R132): translated whole before the first byte. -/
def State.engWrite (s : State) (w : Who) (p : Word) (bs : List Byte) (sc : Scope) : Eng? State :=
  match s.pieces w p bs.length .write sc with
  | .error e => .error e
  | .ok (l, s1) => s1.writePieces w.core l bs

/-! ## Undefined bytes -/

/-- The bytes of a piece are undefined (R12, R146). -/
def State.scramblePiece (s : State) (core : Nat) (q : Piece) : State :=
  if q.key < spBase then
    if backedEnd ≤ q.key then s
    else (((s.seenRange q.key q.len).purgeRange (clusterOf core) q.key q.len).scramble q.key q.len).wakeWatches
  else (((s.seenRange q.key q.len).expandRange q.key q.len).scramble q.key q.len).wakeWatches

/-- Parts of at most a page, that a failed command could have written. -/
def partsOf (p : Word) : Nat → Nat → List (Word × Nat)
  | 0, _ => []
  | fuel + 1, n =>
    if n = 0 then []
    else
      let k := if 0xF0 ≤ tagOf p then n else min n (page0 - lowOf p % page0)
      (p, k) :: partsOf (mkPtr (tagOf p) (lowOf p + k)) fuel (n - k)

/-- Every byte of a destination range that the command may write is undefined (R146). -/
def State.scrambleRange (s : State) (w : Who) (p : Word) (n : Nat) (sc : Scope) : State :=
  (partsOf p (n / page0 + 2) n).foldl (fun s q =>
    match s.pieces w q.1 q.2 .write sc with
    | .ok (l, s1) => l.foldl (fun s x => s.scramblePiece w.core x) s1
    | .error _ => s) s

/-! ## Completion -/

/-- A command leaves its queue (R126). -/
def Core.dropCmd (c : Core) (e : Eng) (cmd : Cmd) : Core := c.setQueue e ((c.queue e).filter fun x => x.seq != cmd.seq)

/-- The destination range of a copy that has completed, until its increment is observed (R133). -/
def Core.complete (c : Core) (cmd : Cmd) : Core :=
  match cmd.range, cmd.counter with
  | some q, some n =>
    if c.eng.unseen.contains (n, q) then c else { c with eng := { c.eng with unseen := c.eng.unseen ++ [(n, q)] } }
  | _, _ => c

/-- The counter increment of a command that completes (R128, R140): a release at its scope; a leg's command reports to its
relay (R279). -/
def State.finishCmd (s : State) (core : Nat) (e : Eng) (cmd : Cmd) : State :=
  let s1 := s.syncL1 (clusterOf core) cmd.scope
  let s2 := s1.setCore core (((s1.core core).dropCmd e cmd).complete cmd)
  match cmd.leg with
  | some o =>
    let c := s2.core o
    (s2.setCore o { c with relay := c.relay.mark cmd.instNo core fun t => { t with finished := true } }).settleLeg o cmd.instNo
  | none =>
    match cmd.counter with
    | some n => s2.bumpCc core n false cmd.scope
    | none => s2

/-- A command fails, its destination spoilt; where a line is only held (R62), nothing happens yet. -/
def State.failCmd (s : State) (core : Nat) (e : Eng) (cmd : Cmd) (x : EngErr) (spoil : State → State) : State :=
  if x.reason = 0 then s else (spoil s).engineError core e cmd x

/-- The result of an engine's work on a command: done, or an error. -/
def State.endCmd (s : State) (core : Nat) (e : Eng) (cmd : Cmd) (r : Eng? State) (spoil : State → EngErr → State) : State :=
  match r with
  | .ok s1 => s1.finishCmd core e cmd
  | .error x => s.failCmd core e cmd x fun s => spoil s x

/-- A handler's command that reaches its row buffer after RDONE leaves the buffer and the row's destination undefined (R249). -/
def State.misuseCmd (s : State) (core : Nat) (cmd : Cmd) (l : List (Nat × Range)) : State :=
  match cmd.token with
  | some t => s.misuseAt core t (s.placesOf .read l)
  | none => s

/-! ## Bytes while a command runs (R135, R216) -/

/-- Keys at which two memories differ. -/
def changedKeys (m n : List Host.Cell) : List Nat :=
  (m.map (·.1) ++ (n.map (·.1)).filter fun a => (tabGet m a).isNone).filter fun a => memGet m a != memGet n a

/-- A byte takes its new value, at the home and in the cluster's own copy. -/
def State.putByte (s : State) (cl a : Nat) (b : Byte) : State :=
  if a < spBase then ((s.setL1 cl (l1Updates (s.cluster cl).l1 a [b])).writeAt a [b]).wakeWatches else (s.putWindow a [b]).wakeWatches

/-- One byte as an agent of the cluster sees it. -/
def State.seenByte (s : State) (cl a : Nat) : Byte := if a < spBase then ((s.agentBytes cl a 1)[0]?).getD 0 else s.byteAt a

/-- A command has started: of the bytes that its work changes, each is already written or not, as a free bit says, and what the engine needs
of the old ones it has read (R135, R216). `done`: the state that its work would make. -/
def State.early (s : State) (core : Nat) (cmd : Cmd) (done : State) : Cmd × State :=
  let cl := clusterOf core
  (changedKeys s.mem done.mem).foldl (fun (q : Cmd × State) a =>
    let (x, s1) := q.2.fresh
    if x.getLsbD 0 then
      let t := q.1.race.took
      ({ q.1 with race := { q.1.race with took := if (tabGet t a).isNone then tabSet t a (s.seenByte cl a) else t } },
        (s1.seen a 1 none).putByte cl a (done.byteAt a))
    else (q.1, s1)) (cmd, s)

/-- A command has completed: of the bytes that something was stored to meanwhile, each holds what was stored or what the command wrote
(R135, R216). -/
def State.mixHits (done before : State) (core : Nat) (r : Race) : State :=
  let cl := clusterOf core
  r.hit.foldl (fun s a =>
    let (x, s1) := s.fresh
    if x.getLsbD 0 then s1.putByte cl a (before.seenByte cl a) else s1) done

/-- Change a command in its queue. -/
def State.setCmd (s : State) (core : Nat) (e : Eng) (cmd : Cmd) : State :=
  s.setCore core ((s.core core).setQueue e (replaceCmd ((s.core core).queue e) cmd))

/-- A policy field of a record (R129): 0–7, or 8 for the CPR of the issuing context. -/
def polOk (n : Nat) : Bool := decide (n ≤ 8)

def scopeOk (n : Nat) : Bool := decide (n ≤ 6)

/-! ## Issue (R125) -/

/-- A new command, with what its issue records. -/
def State.newCmd (s : State) (op seq : Nat) (record : List Byte) (addr arg : Word) (counter : Option Nat) : Cmd :=
  let x := s.me
  { seq := seq, op := op, record := record, addr := addr, arg := arg, pc := x.pc, ctx := s.curCtx, group := x.group,
    launch := x.launch, counter := counter, fz := fzOf s.viewCtx.fpcr, pol := (s.viewCtx.cpr.extractLsb' 0 3).toNat, wp := x.wp, psize := x.psize,
    status := .queued, reason := 0, range := none, reg := none, instNo := 0, got := [], sent := [], stores := [],
    leg := none, payload := [], exited := false, counted := false, race := Race.none,
    token := x.token }

end Sys2Proof.Machine
end

