-- ==== Sys2Proof/Machine/Pointers.lean ====
section
/-! DEFINITION. NOP (R43), pointer conversions (R108), immediates (R166), control and status registers (R162–R165), TECTL
(R146, R147), and port bindings (R161). -/

namespace Sys2Proof.Machine

/-- NOP (R43). -/
def execNop (o : CROps) (s : State) : Result := runInstr (.nop o) s fun _ s => .ok () s

/-! ## PTRG and PTRL (R108) -/

/-- The package's own number in its pod, 0 outside a pod. -/
def State.pkgNo (s : State) : Nat := s.pack.pkg

def ptrgOf (s : State) (p : Word) : Word :=
  if tagOf p = 0xF1 then mkPtr 0xF0 (indexOf s.curCore * 0x80000 + s.me.wp.toNat + 512 + lowOf p)
  else if tagOf p = 0 then mkPtr (s.pkgNo + 1) (lowOf p)
  else p

def ptrlOf (s : State) (p : Word) : Word :=
  let x := s.me
  if tagOf p = s.pkgNo + 1 then mkPtr 0 (lowOf p)
  else if tagOf p = 0xF0 then
    let o := lowOf p % 0x80000
    let lo := x.wp.toNat + 512
    if lowOf p / 0x80000 = indexOf s.curCore ∧ lo ≤ o ∧ o < lo + 512 * x.psize.toNat then mkPtr 0xF1 (o - lo) else p
  else p

def ptrOp (i : Instr) (d : BitVec 6) (f : State → Word → Word) (s : State) : Result :=
  runInstr i s fun v s => if s.ptrOk s.who v.a then .ok () (s.setReg d.toNat (f s v.a)) else .trap (Trap.address v.a) none

/-- PTRG (R108). -/
def execPtrg (o : CROps) (s : State) : Result := ptrOp (.ptrg o) o.d ptrgOf s

/-- PTRL (R108). -/
def execPtrl (o : CROps) (s : State) : Result := ptrOp (.ptrl o) o.d ptrlOf s

/-! ## LI and LIH (R166) -/

def clImm (o : CLOps) : W32 :=
  match o.lit with
  | some l => l
  | none => o.imm.signExtend 32

/-- LI (R166). -/
def execLi (o : CLOps) (s : State) : Result := runInstr (.li o) s fun _ s => .ok () (s.setReg o.d.toNat ((clImm o).signExtend 64))

/-- LIH (R166). -/
def execLih (o : CLOps) (s : State) : Result :=
  runInstr (.lih o) s fun v s => .ok () (s.setReg o.d.toNat (clImm o ++ v.d.extractLsb' 0 32 : BitVec 64))

/-! ## CSRR and CSRW -/

/-- TECTL as read (R147). -/
def Core.tectl (c : Core) : Word :=
  BitVec.ofNat 64 (bit c.eng.xhalt + bit c.eng.cphalt * 8 + c.eng.xq.length * 2 ^ 8)

/-- CTX (R163). -/
def State.ctxWord (s : State) : Word :=
  BitVec.ofNat 64 (s.me.group.toNat * 2 ^ 32 + s.pack.pkg * 2 ^ 15 + clusterOf s.curCore * 2 ^ 9 + indexOf s.curCore * 2 ^ 4 + s.curCtx)

/-- A counter CSR (R164). -/
def Counter.word (c : Counter) : Word := BitVec.ofNat 64 (c.v.toNat + bit c.e * 2 ^ 32 + c.ps.code * 2 ^ 33)

/-- A CSR as read (R162). -/
def State.csr (s : State) (n : Nat) : Word :=
  let c := s.myCore
  let x := s.viewCtx
  match n with
  | 0 => x.workspaceWord
  | 1 => s.ctxWord
  | 2 => c.regs.ascr
  | 3 => c.regs.eebase.setWidth 64
  | 4 => c.tectl
  | 5 => x.fpcr
  | 6 => x.cpr
  | 7 => BitVec.ofNat 64 (s.cycle - c.cycle0)
  | 8 => BitVec.ofNat 64 ((s.cluster (clusterOf s.curCore)).pace % 256)
  | _ =>
    if n < 0x20 then (c.cc (n - 0x10)).word else ((c.regs.ev[n - 0x20]?).getD 0).setWidth 64

/-- A counter read waits for the counts of the context's earlier producers, which come with their results (R189). -/
def State.countsOwed (s : State) : Bool := s.myCore.owed.any fun o => o.ctx == s.curCtx && o.ev != {}

/-- CSRR (R165): a counter CSR is a long-latency producer (R158). -/
def execCsrr (o : CIOps) (s : State) : Result :=
  runInstr (.csrr o) s fun _ s =>
    match csrNumber o.imm o.lit with
    | none => .trap (Trap.illegal 6) none
    | some n =>
      if csrListed n then
        if 0x20 ≤ n ∧ s.countsOwed then .wait s
        else if 0x10 ≤ n then s.owe o.d.toNat (some (s.csr n)) none else .ok () (s.setReg o.d.toNat (s.csr n))
      else .trap (Trap.illegal 6) none

/-- RES of R146 on the transfer queue. -/
def State.transferRes (s : State) (core : Nat) : State := s.setCore core ((s.core core).res .transfer)

/-- DISC of R146 on the transfer queue. -/
def State.transferDisc (s : State) (core : Nat) : State := s.setCore core ((s.core core).disc .transfer)

/-- CPRES and CPDISC (R147). -/
def State.coproRes (s : State) (core : Nat) : State := s.setCore core ((s.core core).res .copro)

def State.coproDisc (s : State) (core : Nat) : State := s.setCore core ((s.core core).disc .copro)

/-- A write of TECTL (R147): DISC and CPDISC prevail. -/
def State.writeTectl (s : State) (core : Nat) (v : Word) : State :=
  let s1 := if v.getLsbD 2 then s.transferDisc core else if v.getLsbD 1 then s.transferRes core else s
  if v.getLsbD 5 then s1.coproDisc core else if v.getLsbD 4 then s1.coproRes core else s1

/-- A CSR as written (R162). -/
def State.setCsr (s : State) (n : Nat) (v : Word) : State :=
  let c := s.myCore
  match n with
  | 3 => s.setMyCore { c with regs := { c.regs with eebase := v.extractLsb' 0 32 &&& 0x7FFC0 } }
  | 4 => s.writeTectl s.curCore v
  | 5 => s.setMe { s.me with fpcr := v &&& fpcrMask }
  | 6 => s.setMe { s.me with cpr := v &&& 7 }
  | _ => s.setMyCore { c with regs := { c.regs with ev := listSet c.regs.ev (n - 0x20) (v.extractLsb' 0 32) } }

/-- CSRW (R165). -/
def execCsrw (o : CIOps) (s : State) : Result :=
  runInstr (.csrw o) s fun v s =>
    match csrNumber o.imm o.lit with
    | none => .trap (Trap.illegal 6) none
    | some n => if csrWritable n then .ok () (s.setCsr n v.a) else .trap (Trap.illegal 6) none

/-! ## PBIND -/

/-- PBIND (R161): a word written earlier to the port may still be behind stores of its context (R160). -/
def execPbind (o : CROps) (s : State) : Result :=
  runInstr (.pbind o) s fun v s =>
    let w := v.a.toNat
    if w / 2 ^ 16 ≠ 0 ∨ w / 2 ^ 10 % 2 ^ 5 ≠ 0 ∨ w / 2 ^ 5 % 2 ^ 3 ≠ 0 ∨ 24 ≤ w % 32 then .trap (Trap.illegal 6) none
    else if s.myCore.su.wordsBehind (fun p _ _ => p == o.d.toNat) ≠ 0 then .wait s
    else
      let c := s.myCore
      let b : Option Binding := if w / 2 ^ 15 % 2 = 1 then some ⟨w % 32, w / 2 ^ 8 % 4⟩ else none
      .ok () (s.setMyCore { c with regs := { c.regs with binds := listSet c.regs.binds (o.d.toNat - 60) b } })

end Sys2Proof.Machine
end

