-- ==== Sys2Proof/Machine/Transfer.lean ====
section
/-! DEFINITION. The transfer engine (R125–R139): issue, the copy kinds, gather and scatter, completion, parking, and the
requests that arrive from other packages. -/

namespace Sys2Proof.Machine

/-! ## The record of the copy kinds (R129, R130) -/

def opXcopy : Nat := 0x28
def opXconv : Nat := 0x29
def opXtran : Nat := 0x2A
def opXexp : Nat := 0x2B
def opXpack : Nat := 0x2C
def opGetx : Nat := 0x2D
def opPutx : Nat := 0x2E
def opPutacc : Nat := 0x2F

def ptrField (r : List Byte) (o : Nat) : Word := BitVec.ofNat 64 (field r o 8)

def xSfmt (r : List Byte) : Option Fmt := Fmt.ofCode (field r 24 1)

def xDfmt (r : List Byte) : Option Fmt := Fmt.ofCode (field r 25 1)

/-- Element size of XTRAN's formats (R130). -/
def tranSize (f : Fmt) : Option Nat := if f.perUnit = 1 then some f.unitBytes else none

/-- The record of a copy kind is well formed (R129, R130). -/
def xferOk (op : Nat) (r : List Byte) : Bool :=
  let n := field r 28 2
  let cols := field r 30 2
  let lenOk := fun (f : Fmt) (x : Nat) => decide (1 ≤ x) && decide (x ≤ 65536) && x % f.unitBytes == 0
  polOk (field r 40 1) && scopeOk (field r 41 1) && fieldZero r 27 1 && fieldZero r 42 6 && fieldZero r 52 12 &&
  (if op = opXcopy then decide (1 ≤ field r 16 4) && decide (field r 16 4 ≤ 65536) && fieldZero r 20 20
  else if op = opXconv then
    fieldZero r 16 8 && fieldZero r 26 2 && fieldZero r 30 10 && decide (1 ≤ n) && decide (n ≤ 4096) &&
      (match xSfmt r, xDfmt r with
      | some f, some g => n % f.perUnit == 0 && n % g.perUnit == 0
      | _, _ => false)
  else if op = opXtran then
    fieldZero r 16 8 && fieldZero r 25 3 && decide (1 ≤ n) && decide (1 ≤ cols) && decide (n * cols ≤ 4096) &&
      (match xSfmt r with
      | some f =>
        (match tranSize f with
        | some z => decide (cols * z ≤ field r 32 4) && decide (n * z ≤ field r 36 4)
        | none => false)
      | none => false)
  else
    fieldZero r 25 1 && fieldZero r 28 12 && decide (field r 26 1 ≤ 2) &&
      (match xSfmt r with
      | some f =>
        if op = opXexp then decide (1 ≤ field r 16 4) && decide (field r 16 4 ≤ 68640) && lenOk f (field r 20 4)
        else lenOk f (field r 16 4) && decide (48 ≤ field r 20 4) && decide (field r 20 4 ≤ 68640)
      | none => false))

/-- Source and destination of a copy kind as pointers and lengths (R130); empty where a format says nothing. -/
def xferRanges (op : Nat) (r : List Byte) : (Word × Nat) × (Word × Nat) :=
  let n := field r 28 2
  let cols := field r 30 2
  let mk := fun (a b : Nat) => ((ptrField r 0, a), (ptrField r 8, b))
  if op = opXcopy then mk (field r 16 4) (field r 16 4)
  else if op = opXconv then
    mk (match xSfmt r with | some f => f.bytesOf n | none => 0) (match xDfmt r with | some f => f.bytesOf n | none => 0)
  else if op = opXtran then
    match (xSfmt r).bind tranSize with
    | some z =>
      if n = 0 ∨ cols = 0 then mk 0 0 else mk ((n - 1) * field r 32 4 + cols * z) ((cols - 1) * field r 36 4 + n * z)
    | none => mk 0 0
  else mk (field r 16 4) (field r 20 4)

/-! ## Ranges (R126, R133, R134) -/

/-- The normalised range of an operand: none where the pointer fails R64 or the range is empty. -/
def State.normRange (s : State) (w : Who) (p : Word) (n : Nat) : List Range :=
  if n = 0 then []
  else match s.place w p 1 with
    | some q => [rangeOf q.norm n]
    | none => []

def gatherSize (r : List Byte) : Nat := match Fmt.ofCode (field r 26 1) with | some f => f.unitBytes | none => 1

/-- Source and destination ranges of a transfer command in the requester's own space (R126, R130, R134, R136). -/
def State.cmdRanges (s : State) (w : Who) (op : Nat) (r : List Byte) (reg : Bool) : List Range × List Range :=
  if op < opGetx then
    let q := xferRanges op r
    (s.normRange w q.1.1 q.1.2, s.normRange w q.2.1 q.2.2)
  else
    let n := min (field r 24 2) 4096
    let idx := if field r 27 1 % 2 = 1 then [] else s.normRange w (ptrField r 16) (4 * n)
    let loc := s.normRange w (ptrField r 8) (gatherSize r * n)
    if op = opGetx then (idx, if reg then [] else loc) else (idx ++ loc, [])

def anyOverlap (a b : List Range) : Bool := a.any fun x => b.any fun y => x.overlaps y

/-! ## Issue (R125) -/

/-- Scoreboard entries in use (R134). -/
def Core.scoreUsed (c : Core) : Nat := (c.eng.xq.filter fun x => x.range.isSome && x.status != .halted).length

/-- Place a command at the end of the transfer queue. -/
def State.enterTransfer (s : State) (cmd : Cmd) : State :=
  let c := s.myCore
  s.setMyCore { c with eng := { c.eng with xq := c.eng.xq ++ [cmd], xseq := c.eng.xseq + 1 } }

/-- The mould of the eight transfer instructions (R125). `reg`: the destination of GETX in register form. -/
def xferOp (i : Instr) (o : CROps) (reg : Option Nat) (s : State) : Result :=
  runInstr i s fun v s =>
    ((s.readRecord v.a 8 16).bind fun r s =>
      let op := i.opcode
      let rs := s.cmdRanges s.who op r reg.isSome
      if reg.isSome ∧ (field r 24 2 ≠ 1 ∨ field r 8 8 ≠ 0 ∨ field r 26 1 = 15) then .trap (Trap.illegal 6) none
      else if (op = opXconv ∨ op = opXtran ∨ op = opXexp ∨ op = opXpack) ∧ anyOverlap rs.1 rs.2 then
        .trap { code := 8, addr := v.a } none
      else
        let c := s.myCore
        let range := if op < opGetx ∨ (op = opGetx ∧ reg.isNone) then rs.2.head? else none
        if 16 ≤ c.eng.xq.length ∨ (range.isSome ∧ 16 ≤ c.scoreUsed) then .wait s
        else
          afterStores s fun s =>
            let cmd := s.newCmd op c.eng.xseq r v.a 0 (some (lowCc o.d))
            let s1 := s.enterTransfer { cmd with range := range, reg := reg }
            match reg with
            | some n => .ok () (s1.setMe { s1.me with regs := s1.me.regs.clear n })
            | none => .ok () s1).orElseWait s

/-- XCOPY (R125, R132). -/
def execXcopy (o : CROps) (s : State) : Result := xferOp (.xcopy o) o none s

/-- XCONV (R125, R132). -/
def execXconv (o : CROps) (s : State) : Result := xferOp (.xconv o) o none s

/-- XTRAN (R125, R132). -/
def execXtran (o : CROps) (s : State) : Result := xferOp (.xtran o) o none s

/-- XEXP (R125, R132). -/
def execXexp (o : CROps) (s : State) : Result := xferOp (.xexp o) o none s

/-- XPACK (R125, R132). -/
def execXpack (o : CROps) (s : State) : Result := xferOp (.xpack o) o none s

/-- GETX (R125, R138). -/
def execGetx (o : CROps) (s : State) : Result := xferOp (.getx o) o none s

/-- GETX in register form (R125, R136, R138). -/
def execGetxReg (o : CROps) (s : State) : Result := xferOp (.getxReg o) o (some o.b.toNat) s

/-- PUTX (R125, R138). -/
def execPutx (o : CROps) (s : State) : Result := xferOp (.putx o) o none s

/-- PUTACC (R125, R138). -/
def execPutacc (o : CROps) (s : State) : Result := xferOp (.putacc o) o none s

/-! ## The work of the copy kinds (R132) -/

/-- What a copy kind does: the parts it reads in order, the parts it may write in order, and the bytes it makes. -/
structure Plan where
  src : List (Word × Nat)
  dst : List (Word × Nat)
  make : List Byte → Eng? (List Byte × FEv)

/-- A pointer moved within its space. -/
def ptrUp (p : Word) (n : Nat) : Word := mkPtr (tagOf p) (lowOf p + n)

/-- Transpose ROWS × COLS elements of z bytes (R132). -/
def transpose (rows cols z : Nat) (bs : List Byte) : List Byte :=
  (List.range cols).flatMap fun j => (List.range rows).flatMap fun i => (bs.drop ((i * cols + j) * z)).take z

/-- The expansion of a stream as an engine's outcome (R123, R124). -/
def expandEng (c : Nat) (f : Fmt) (x : Nat) (bs : List Byte) : Eng? (List Byte × FEv) :=
  match decodeStream c f x bs with
  | .ok b => .ok (b, {})
  | .err reason n => .error ⟨reason, 0, 0, if reason = 8 then n else 0⟩

/-- The packing of bytes as an engine's outcome (R122, R132). -/
def packEng (c : Nat) (f : Fmt) (cap : Nat) (bs : List Byte) : Eng? (List Byte × FEv) :=
  let out := encodeStream c f bs
  if cap < out.length then .error (EngErr.of 10 0) else .ok (out, {})

/-- The plan of a well-formed copy command. -/
def xferPlan (op : Nat) (r : List Byte) : Plan :=
  let q := xferRanges op r
  let n := field r 28 2
  let cols := field r 30 2
  let f := (xSfmt r).getD .n8
  let whole : Plan := ⟨[q.1], [q.2], fun bs => .ok (bs, {})⟩
  if op = opXcopy then whole
  else if op = opXconv then
    { whole with make := fun bs => .ok (((xDfmt r).getD .n8).encodeUnits .rne (f.decodeUnits bs n)) }
  else if op = opXtran then
    let z := f.unitBytes
    { src := (List.range n).map fun i => (ptrUp q.1.1 (i * field r 32 4), cols * z),
      dst := (List.range cols).map fun j => (ptrUp q.2.1 (j * field r 36 4), n * z),
      make := fun bs => .ok (transpose n cols z bs, {}) }
  else if op = opXexp then { whole with make := expandEng (field r 26 1) f (field r 20 4) }
  else { whole with make := packEng (field r 26 1) f (field r 20 4) }

/-- The pieces of several parts. -/
def State.partPieces (s : State) (w : Who) (acc : Acc) (sc : Scope) : List (Word × Nat) → Eng? (List Piece × State)
  | [] => .ok ([], s)
  | (p, n) :: t =>
    match s.pieces w p n acc sc with
    | .error e => .error e
    | .ok (l, s1) =>
      match State.partPieces s1 w acc sc t with
      | .error e => .error e
      | .ok (m, s2) => .ok (l ++ m, s2)

/-- Keep the first `n` bytes of a list of parts. -/
def cutParts : List (Word × Nat) → Nat → List (Word × Nat)
  | [], _ => []
  | (p, k) :: t, n => if n = 0 then [] else if n ≤ k then [(p, n)] else (p, k) :: cutParts t (n - k)

/-- XEXP and XPACK may not reach device pages (R76). -/
def devicePiece (l : List Piece) : Option Piece := l.find? fun q => q.mt == some .device

/-- The command's outcome at one go: done, parked for answers of other packages, or failed. -/
inductive Run where
  | done (s : State)
  | park (s : State) (cmd : Cmd)
  | fail (s : State) (x : EngErr)
deriving Repr

/-- Ask other packages for the parts of a source that lie there (R79). -/
def State.askParts (s : State) (core : Nat) (cmd : Cmd) (l : List (Word × Nat)) : State :=
  l.foldl (fun s q => match s.remoteOf (cmd.who core) q.1 with
    | some (pkg, _) => s.emit (.remoteRead core cmd.seq pkg q.1 q.2 (s.capOf core) (s.pasOf core))
    | none => s) s

def State.anyRemote (s : State) (w : Who) (l : List (Word × Nat)) : Bool := l.any fun q => (s.remoteOf w q.1).isSome

/-- Read parts in order; those of other packages come from the answers. -/
def State.readParts (s : State) (w : Who) (sc : Scope) (noDev : Bool) : List (Word × Nat) → List Byte → Eng? (List Byte × State)
  | [], _ => .ok ([], s)
  | (p, n) :: t, ans =>
    if (s.remoteOf w p).isSome then
      match State.readParts s w sc noDev t (ans.drop n) with
      | .error e => .error e
      | .ok (l, s2) => .ok (ans.take n ++ l, s2)
    else
      match s.pieces w p n .read sc with
      | .error e => .error e
      | .ok (q, s1) =>
        match if noDev then devicePiece q else none with
        | some d => .error (errAddr d.ptr)
        | none =>
          match s1.readPieces w.core q with
          | .error e => .error e
          | .ok (b, s2) =>
            match State.readParts s2 w sc noDev t ans with
            | .error e => .error e
            | .ok (l, s3) => .ok (b ++ l, s3)

/-- Write parts in order: all local parts are translated first; parts of other packages are sent (R79, R132). -/
def State.writeParts (s : State) (core : Nat) (cmd : Cmd) (noDev : Bool) (l : List (Word × Nat)) (bs : List Byte) : Eng? State :=
  let w := cmd.who core
  match s.partPieces w .write cmd.scope (l.filter fun q => (s.remoteOf w q.1).isNone) with
  | .error e => .error e
  | .ok (qs, s1) =>
    match if noDev then devicePiece qs else none with
    | some d => .error (errAddr d.ptr)
    | none =>
      let step := fun (acc : Eng? State × List Byte) (q : Word × Nat) =>
        (match acc.1 with
        | .error e => .error e
        | .ok s => match s.remoteOf w q.1 with
          | some (pkg, _) =>
            .ok (s.emit (.remoteWrite core cmd.seq pkg q.1 (acc.2.take q.2) (s.capOf core) (s.pasOf core)))
          | none => s.engWrite w q.1 (acc.2.take q.2) cmd.scope, acc.2.drop q.2)
      (l.foldl step (.ok s1, bs)).1

/-- The record's RESULT field is written (R129). -/
def State.writeResult (s : State) (core : Nat) (cmd : Cmd) (off n : Nat) : Eng? State :=
  s.engWrite (cmd.who core) (ptrUp cmd.addr off) (natBytes n 4) cmd.scope

/-- RESULT's place is translated before any write. -/
def State.checkResult (s : State) (core : Nat) (cmd : Cmd) (off : Nat) : Eng? State :=
  match s.pieces (cmd.who core) (ptrUp cmd.addr off) 4 .write cmd.scope with
  | .error e => .error e
  | .ok (_, s1) => .ok s1

/-- Run a copy command. -/
def State.runCopy (s : State) (core : Nat) (cmd : Cmd) : Run :=
  let r := cmd.record
  let w := cmd.who core
  let noDev := cmd.op == opXexp || cmd.op == opXpack
  if !xferOk cmd.op r then .fail s errIll
  else
    let p := xferPlan cmd.op r
    let finish := fun (s : State) (n : Nat) => match s.writeResult core cmd 48 n with
      | .ok s1 => Run.done s1
      | .error e => .fail s e
    if cmd.sent.contains 2 then finish s (cmd.got.headD 0)
    else if s.anyRemote w p.src && !cmd.sent.contains 1 then
      .park (s.askParts core cmd p.src) { cmd with sent := [1] }
    else
      match s.readParts w cmd.scope noDev p.src cmd.payload with
      | .error e => .fail s e
      | .ok (bs, s1) =>
        match p.make bs with
        | .error e => .fail s1 e
        | .ok (out, ev) =>
          match s1.checkResult core cmd 48 with
          | .error e => .fail s1 e
          | .ok s2 =>
            let dst := cutParts p.dst out.length
            match s2.writeParts core cmd noDev dst out with
            | .error e => .fail s2 e
            | .ok s3 =>
              let s4 := s3.countEv core ev
              if s4.anyRemote w dst then .park s4 { cmd with sent := 2 :: cmd.sent, got := [out.length] }
              else finish s4 out.length

/-! ## Gather and scatter (R136–R139) -/

def gTpkg (r : List Byte) : Nat := field r 28 2
def gTclu (r : List Byte) : Nat := field r 30 1
def gTcore (r : List Byte) : Nat := field r 31 1
def gTcc (r : List Byte) : Nat := field r 32 1
def gNotify (op : Nat) (r : List Byte) : Bool := op != opGetx && decide (128 ≤ gTcc r)
def gDirect (r : List Byte) : Bool := field r 27 1 % 2 == 1

def gatherFmtOk (op code : Nat) : Bool :=
  if op = opPutacc then code == 3 || code == 4 || code == 6 else code ≤ 8 || code == 14

/-- The record's own rules (R136), apart from SCOPE. -/
def gatherOk (op : Nat) (r : List Byte) (reg : Bool) : Bool :=
  let z := gatherSize r
  gatherFmtOk op (field r 26 1) && decide (1 ≤ field r 24 2) && decide (field r 24 2 ≤ 4096) && decide (field r 27 1 ≤ 1)
    && scopeOk (field r 33 1) && polOk (field r 34 1) && fieldZero r 35 29
    && (decide (gTpkg r ≤ 191) || gTpkg r == 0xFFFF) && (decide (gTclu r ≤ 49) || gTclu r == 0xFF)
    && field r 0 8 % z == 0 && (reg || field r 8 8 % z == 0) && field r 16 8 % 4 == 0 && (!gDirect r || field r 16 8 == 0)
    && (op == opGetx || (decide (gTcore r ≤ 23) && gTcc r / 16 % 8 == 0))

/-- The target package: none for this one (R136). -/
def State.targetPkg (s : State) (r : List Byte) : Option Nat :=
  if gTpkg r = 0xFFFF ∨ gTpkg r = s.pack.pkg then none else some (gTpkg r)

def targetCluster (r : List Byte) (core : Nat) : Nat := if gTclu r = 0xFF then clusterOf core else gTclu r

/-- The core that a message about RBASE is addressed to (R319): the scratchpad's core, else the notified core (log 19). -/
def targetCore (op : Nat) (r : List Byte) (core : Nat) : Nat :=
  24 * targetCluster r core +
    (if tagOf (ptrField r 0) = 0xF0 then lowOf (ptrField r 0) / 0x80000 % 32 else if op = opGetx then 0 else gTcore r)

/-- The pod around this package contains another package. -/
def State.podHolds (s : State) (pkg : Nat) : Bool := s.pack.inPod && Config.podMember pkg

/-- The scope's instance around the requester contains every target agent (R136, R137). -/
def State.gatherScopeOk (s : State) (core op : Nat) (r : List Byte) : Bool :=
  let sc := Scope.ofCode (field r 33 1)
  let p := ptrField r 0
  let reach := fun (n : Nat) => match s.targetPkg r with
    | some pkg => decide (5 ≤ sc.code) && s.podHolds pkg
    | none => sc.covers core n
  let data :=
    if tagOf p = 0xF0 then reach (targetCore op r core)
    else if tagOf p = 0xF2 then reach (24 * targetCluster r core) && decide (2 ≤ sc.code)
    else if tagOf p = 0 ∨ tagOf p = s.pack.pkg + 1 then decide (4 ≤ sc.code)
    else decide (5 ≤ sc.code)
  data && (!gNotify op r || reach (24 * targetCluster r core + gTcore r))

/-- Element pointers (R137): none where an element leaves RBASE's window or range. -/
def elementPtr (p : Word) (z i : Nat) : Option Word :=
  let a := lowOf p + i * z
  if tagOf p = 0xF0 then (if lowOf p % 0x80000 + i * z + z ≤ 0x80000 then some (mkPtr 0xF0 a) else none)
  else if tagOf p = 0xF2 then (if a + z ≤ 33552384 then some (mkPtr 0xF2 a) else none)
  else if a + z ≤ vaLimit then some (mkPtr (tagOf p) a)
  else none

def elementPtrs (p : Word) (z : Nat) : List Nat → Eng? (List Word)
  | [] => .ok []
  | i :: t =>
    match elementPtr p z i, elementPtrs p z t with
    | some a, .ok l => .ok (a :: l)
    | _, .error e => .error e
    | none, _ => .error (errAddr p)

/-- The indices of a gather (R136). -/
def State.gatherIdx (s : State) (w : Who) (r : List Byte) (sc : Scope) : Eng? (List Nat × State) :=
  let n := field r 24 2
  if gDirect r then .ok (List.range n, s)
  else
    match s.engRead w (ptrField r 16) (4 * n) sc with
    | .error e => .error e
    | .ok (bs, s1) => .ok ((List.range n).map fun i => field bs (4 * i) 4, s1)

/-- PUTACC's sum (R138): f32 and bf16 rounded RNE, FZ as the context held it; i32 modulo 2^32. -/
def accumulate (code : Nat) (fz : Bool) (m v : Nat) : Nat × FEv :=
  if code = 3 then ((m + v) % 2 ^ 32, {})
  else
    let f : FFmt := if code = 4 then .f32 else .bf16
    let a := flushIn fz f (f.decode m)
    let b := flushIn fz f (f.decode v)
    let r := finish f .rne fz (addX .rne a.1 b.1)
    (r.1, (a.2.add b.2).add r.2)

/-- The value that a register receives (R138). -/
def extendElement (code z v : Nat) : Word :=
  if code = 0 ∨ code = 2 ∨ code = 3 then BitVec.ofInt 64 (signed (8 * z) v) else BitVec.ofNat 64 v

/-- Fill the register of a GETX in register form, unless its context has ended. -/
def Core.fillReg (c : Core) (cmd : Cmd) (v : Option Word) : Core :=
  match cmd.reg with
  | some n => if cmd.exited then c else c.setCtx cmd.ctx { c.ctx cmd.ctx with regs := (c.ctx cmd.ctx).regs.fill n v }
  | none => c

/-- Deliver a gather's values: to LBASE, or extended to the register (R138). -/
def State.gatherOut (s : State) (core : Nat) (cmd : Cmd) (bs : List Byte) (psn : Bool) : Eng? State :=
  match cmd.reg with
  | some _ =>
    let z := gatherSize cmd.record
    .ok (s.setCore core ((s.core core).fillReg cmd
      (if psn then none else some (extendElement (field cmd.record 26 1) z (bytesToNat (bs.take z))))))
  | none => s.engWrite (cmd.who core) (ptrField cmd.record 8) bs cmd.scope

/-- Read the elements in this package. For the register form a poisoned element is answered as poison (R138). -/
def State.getElements (s : State) (w : Who) (reg : Bool) : List Piece → Eng? (List Byte × Bool × State)
  | [] => .ok ([], false, s)
  | q :: t =>
    if reg && s.piecePoison q then .ok ([], true, s)
    else
      match s.readPiece w.core q with
      | .error e => .error e
      | .ok (b, s1) =>
        match State.getElements s1 w reg t with
        | .error e => .error e
        | .ok (l, p, s2) => .ok (b ++ l, p, s2)

/-- Store or add the elements in this package, in list order (R138); an error reports how many came before it (R144). -/
def State.putElements (s : State) (w : Who) (op code z : Nat) (fz : Bool) : List Piece → List Byte → Eng? (FEv × State)
  | [], _ => .ok ({}, s.wakeWatches)
  | q :: t, bs =>
    let v := bs.take z
    let new : Eng? (List Byte × FEv × State) :=
      if op = opPutacc then
        match s.readPiece w.core q with
        | .error e => .error e
        | .ok (m, s1) =>
          let a := accumulate code fz (bytesToNat m) (bytesToNat v)
          .ok (natBytes a.1 z, a.2, s1)
      else .ok (v, {}, s)
    match new with
    | .error e => .error e
    | .ok (b, ev, s1) =>
      match s1.writePiece w.core q b with
      | .error e => .error e
      | .ok s2 =>
        match State.putElements s2 w op code z fz t (bs.drop z) with
        | .error e => .error { e with progress := e.progress + 1 }
        | .ok (ev2, s3) => .ok (ev.add ev2, s3)

/-- What became of a notification: given, diverted (R319), or sent to another package, which answers. -/
inductive Notified where
  | given | diverted | sent
deriving DecidableEq, Repr

/-- The notification (R138): the notified core's counter, a release at SCOPE; diverted where the key differs (R319). -/
def State.notifyCore (s : State) (core : Nat) (cmd : Cmd) : State × Notified :=
  let r := cmd.record
  if !gNotify cmd.op r then (s, .given)
  else
    let n := 24 * targetCluster r core + gTcore r
    let s1 := s.syncL1 (clusterOf core) cmd.scope
    match s.targetPkg r with
    | some pkg => (s1.emit (.notify pkg (targetCluster r core) (gTcore r) (gTcc r % 16) (s.capOf core)), .sent)
    | none =>
      if s.accepts (clusterOf core) n (s.capOf core) then (s1.bumpCc n (gTcc r % 16) false cmd.scope, .given) else (s1.contain n (s.capOf core), .diverted)

def remoteKindOf (op : Nat) : RemoteKind := if op = opGetx then .get else if op = opPutx then .put else .acc

/-- Send one request per element to another package (R79, R137). -/
def State.askElements (s : State) (core : Nat) (cmd : Cmd) (pkg : Nat) (z : Nat) : List Word → List Byte → State
  | [], _ => s
  | p :: t, bs =>
    State.askElements
      (s.emit (.request core cmd.seq pkg p (remoteKindOf cmd.op) (BitVec.ofNat 4 (field cmd.record 26 1))
        (BitVec.ofNat 64 (bytesToNat (bs.take z))) (s.capOf core) (s.pasOf core) cmd.fz)) core cmd pkg z t (bs.drop z)

/-- In a scatter's `sent`: its elements are performed, and its notification has gone to another package. -/
def notifySent : Nat := 3

/-- After every element is performed: the notification; a diverted one parks the command for good (R126, R139). -/
def State.afterPut (s : State) (core : Nat) (cmd : Cmd) : Run :=
  match s.notifyCore core cmd with
  | (s1, .given) => .done s1
  | (s1, .diverted) => .park s1 { cmd with sent := [] }
  | (s1, .sent) => .park s1 { cmd with sent := [notifySent] }

/-- A gather or scatter whose elements lie in this package, at a window of cluster `who`. -/
def State.gatherHere (s : State) (core : Nat) (cmd : Cmd) (rw : Who) (ptrs : List Word) : Run :=
  let r := cmd.record
  let z := gatherSize r
  let w := cmd.who core
  let parts := ptrs.map fun p => (p, z)
  if cmd.op = opGetx then
    match s.partPieces rw .read cmd.scope parts with
    | .error e => .fail s e
    | .ok (qs, s1) =>
      match s1.getElements rw cmd.reg.isSome qs with
      | .error e => .fail s1 e
      | .ok (bs, psn, s2) =>
        match s2.gatherOut core cmd bs psn with
        | .error e => .fail s2 e
        | .ok s3 => .done s3
  else
    match s.engRead w (ptrField r 8) (z * ptrs.length) cmd.scope with
    | .error e => .fail s e
    | .ok (bs, s1) =>
      match s1.partPieces rw (if cmd.op = opPutacc then .atomic else .write) cmd.scope parts with
      | .error e => .fail s1 e
      | .ok (qs, s2) =>
        match if cmd.op = opPutacc then devicePiece qs else none with
        | some d => .fail s2 (errAddr d.ptr)
        | none =>
          match s2.putElements rw cmd.op (field r 26 1) z cmd.fz qs bs with
          | .error e => .fail s2 e
          | .ok (ev, s3) => (s3.countEv core ev).afterPut core cmd

/-- A gather or scatter whose elements lie in another package: requests go out, and the command waits for the answers (R80, R127); a
receiver that diverts its request never answers (R139). A scatter waits too, and for its notification's answer, before its counter moves: R138
counts it when its local operands have been read, while R139 lets an answer still fail it (DESIGN CHOICE, log 20). -/
def State.gatherAway (s : State) (core : Nat) (cmd : Cmd) (pkg : Nat) (ptrs : List Word) : Run :=
  let z := gatherSize cmd.record
  let asked := { cmd with sent := [1] }
  if cmd.op = opGetx then .park (s.askElements core cmd pkg z ptrs []) asked
  else
    match s.engRead (cmd.who core) (ptrField cmd.record 8) (z * ptrs.length) cmd.scope with
    | .error e => .fail s e
    | .ok (bs, s1) => .park (s1.askElements core cmd pkg z ptrs bs) asked

/-- The end of a gather or scatter whose answers have arrived (R138). -/
def State.gatherEnd (s : State) (core : Nat) (cmd : Cmd) : Run :=
  if cmd.sent.contains notifySent then .done s
  else if cmd.op = opGetx then
    match s.gatherOut core cmd cmd.payload (cmd.got == [1]) with
    | .error e => .fail s e
    | .ok s1 => .done s1
  else s.afterPut core cmd

/-- Run a gather or scatter (R136–R139). -/
def State.runGather (s : State) (core : Nat) (cmd : Cmd) : Run :=
  let r := cmd.record
  let p := ptrField r 0
  let w := cmd.who core
  if cmd.sent ≠ [] then s.gatherEnd core cmd
  else if !gatherOk cmd.op r cmd.reg.isSome then .fail s errIll
  else if tagOf p = 0xF1 then .fail s (errAddr p)
  else if tagOf p = 0 ∧ (s.targetPkg r).isSome then .fail s errIll
  else
    let win : Bool := decide (0xF0 ≤ tagOf p)
    let n := targetCore cmd.op r core
    match s.place (if win then ⟨24 * targetCluster r core, 0, 0, cmd.policy, []⟩ else w) p 1 with
    | none => .fail s (errAddr p)
    | some place =>
      if !s.gatherScopeOk core cmd.op r then .fail s errIll
      else
        match s.gatherIdx w r cmd.scope with
        | .error e => .fail s e
        | .ok (idx, s1) =>
          match elementPtrs p (gatherSize r) idx with
          | .error e => .fail s1 e
          | .ok ptrs =>
            match win, s.targetPkg r, place with
            | true, some pkg, _ => s1.gatherAway core cmd pkg ptrs
            | true, none, _ =>
              if s.accepts (clusterOf core) n (s.capOf core) then s1.gatherHere core cmd ⟨24 * targetCluster r core, 0, 0, cmd.policy, cmd.race.took⟩ ptrs
              else .park (s1.contain n (s.capOf core)) { cmd with sent := [] }
            | false, _, .remote pkg _ => s1.gatherAway core cmd pkg ptrs
            | false, _, _ => s1.gatherHere core cmd w ptrs

/-! ## The queue (R126–R128) -/

/-- The group that a collective of a core names (R315, R316). -/
def State.groupOf (s : State) (core gid : Nat) : Option Group := tabGet s.pack.groups (64 * s.partOf core + gid)

/-- Source and destination lengths of a collective (R316): `p` members, `op` its op7. -/
def collLens (op p : Nat) (r : List Byte) : Nat × Nat :=
  let n := field r 16 2 * (match Fmt.ofCode (field r 18 1) with | some f => f.unitBytes | none => 1)
  (if op = 0x6B then n else p * n, if op = 0x6C then n else p * n)

/-- Source and destination ranges of a collective; empty where its group is not installed. -/
def State.collRanges (s : State) (w : Who) (op : Nat) (r : List Byte) : List Range × List Range :=
  match s.groupOf w.core (field r 20 1) with
  | none => ([], [])
  | some g =>
    let l := collLens op g.count r
    (s.normRange w (ptrField r 0) l.1, s.normRange w (ptrField r 8) l.2)

/-- A window of another cluster or package is a space of its own. -/
def State.foreign (s : State) (core : Nat) (r : List Byte) (q : Range) : Range :=
  let n := targetCluster r core
  match s.targetPkg r with
  | some pkg => { q with tag := q.tag + 256 * (64 * (pkg + 1) + n) }
  | none => if n = clusterOf core then q else { q with tag := q.tag + 256 * n + 256 * 64 * 256 }

/-- The ranges of a gather's remote elements (R126, R137): one for each index, as the indices stand in memory; `far` places those in
another window. -/
def State.elementRanges (s : State) (far : Range → Range) (core : Nat) (c : Cmd) : List Range :=
  let r := c.record
  let p := ptrField r 0
  let z := gatherSize r
  match s.gatherIdx (c.who core) r c.scope with
  | .error _ => []
  | .ok (idx, _) =>
    let ptrs := idx.filterMap (elementPtr p z)
    if tagOf p = 0xF0 ∨ tagOf p = 0xF2 then ptrs.map fun q => far (rangeOf q z)
    else
      match s.place (c.who core) p 1 with
      | some (.remote _ _) => ptrs.map fun q => rangeOf q z
      | _ => ptrs.flatMap fun q => s.normRange (c.who core) q z

/-- The ranges of a command of the transfer queue. -/
def State.rangesOf (s : State) (core : Nat) (c : Cmd) : List Range × List Range :=
  if opPutacc < c.op then s.collRanges (c.who core) c.op c.record
  else
    let q := s.cmdRanges (c.who core) c.op c.record c.reg.isSome
    if c.op < opGetx then q
    else if c.op = opGetx then (q.1 ++ s.elementRanges (s.foreign core c.record) core c, q.2)
    else (q.1, s.elementRanges (s.foreign core c.record) core c)

/-- An earlier command holds a later one back (R126). -/
def State.holdsBack (s : State) (core : Nat) (e c : Cmd) : Bool :=
  let a := s.rangesOf core e
  let b := s.rangesOf core c
  anyOverlap a.2 (b.1 ++ b.2) || anyOverlap a.1 b.2

def CmdStatus.active (x : CmdStatus) : Bool := x == .running || x == .parked

/-- Command `i` of the transfer queue may start (R126, R146, R372). -/
def State.mayStart (s : State) (core i : Nat) : Bool :=
  let q := (s.core core).eng.xq
  match q[i]? with
  | none => false
  | some c =>
    c.status == .queued && !(s.core core).eng.xhalt && !(s.part (s.partOf core)).paused
      && !(q.take i).any (fun e => e.status == .queued || s.holdsBack core e c)
      && decide ((q.filter fun e => e.status.active).length < 4)

/-- Every byte of a failed command's destination range is undefined (R146, R317): of XTRAN's the bytes between rows too, of a scatter's
the elements. The translation of an overlapping XCOPY (R133) and of PUTACC (R139) leaves the destination its values. -/
def State.spoilTransfer (s : State) (core : Nat) (cmd : Cmd) (x : EngErr) : State :=
  let w := cmd.who core
  let r := cmd.record
  let early := x.reason == 2 || x.reason == 3 || x.reason == 4 || x.reason == 5
  if cmd.op < opGetx then
    let rs := s.cmdRanges w cmd.op r false
    if cmd.op = opXcopy ∧ early ∧ cmd.race.took.isEmpty ∧ anyOverlap rs.1 rs.2 then s
    else if cmd.op = opXtran then s.scrambleRange w (xferRanges cmd.op r).2.1 (xferRanges cmd.op r).2.2 cmd.scope
    else
      let d := (xferRanges cmd.op r).2
      s.scrambleRange w d.1 d.2 cmd.scope
  else if cmd.op = opGetx ∧ cmd.reg.isNone then
    s.scrambleRange w (ptrField r 8) (gatherSize r * min (field r 24 2) 4096) cmd.scope
  else if (cmd.op = opPutx ∨ (cmd.op = opPutacc ∧ !early)) ∧ (s.targetPkg r).isNone ∧ targetCluster r core < 50 then
    match s.gatherIdx w r cmd.scope with
    | .ok (idx, _) =>
      let p := ptrField r 0
      let rw : Who := if 0xF0 ≤ tagOf p then ⟨24 * targetCluster r core, 0, 0, cmd.policy, []⟩ else w
      (idx.filterMap (elementPtr p (gatherSize r))).foldl (fun s q => s.scrambleRange rw q (gatherSize r) cmd.scope) s
    | .error _ => s
  else if 0x6B ≤ cmd.op then
    match s.groupOf core (field r 20 1) with
    | some g => s.scrambleRange w (ptrField r 8) (collLens cmd.op g.count r).2 cmd.scope
    | none => s
  else s

/-- The end of a run: completion, parking, or the error path. -/
def State.endRun (s : State) (core : Nat) (cmd : Cmd) (r : Run) : State :=
  match r with
  | .done s1 => (s1.mixHits s core cmd.race).finishCmd core .transfer cmd
  | .park s1 c => (s1.mixHits s core cmd.race).setCmd core .transfer { c with status := .parked, race := { c.race with hit := [] } }
  | .fail _ x => s.failCmd core .transfer cmd x fun s => s.spoilTransfer core cmd x

/-- The work of a copy, gather or scatter: its own destination is no alias to it (R133), and its own writes do not race with it. -/
def State.workTransfer (s : State) (core : Nat) (c : Cmd) : Run :=
  let s1 := s.setCmd core .transfer { c with range := none, race := Race.none }
  if c.op < opGetx then s1.runCopy core c else s1.runGather core c

/-- A running copy, gather or scatter is performed, all of it at once (R127, R132, R138, log 53). -/
def State.performTransfer (s : State) (core : Nat) (c : Cmd) : State :=
  (s.endRun core c (s.workTransfer core c)).misuseCmd core c (c.race.src ++ c.race.dst)

/-- The places of a window's elements at another core of this package, of which `q` is the range there. -/
def State.racePlace (s : State) (core : Nat) (r : List Byte) (q : Range) : List (Nat × Range) :=
  if q.tag = 0xF0 ∨ q.tag = 0xF2 then
    if (s.targetPkg r).isSome ∨ 50 ≤ targetCluster r core then [] else [(24 * targetCluster r core, q)]
  else if q.tag = 0 then [(core, q)] else []

/-- The ranges that a copy, gather or scatter reads and writes while it runs (R135). The additions of a PUTACC are atomics, each whole
(R138). -/
def State.raceOf (s : State) (core : Nat) (c : Cmd) : Race :=
  let own := fun (l : List Range) => l.map fun q => (core, q)
  let a := s.cmdRanges (c.who core) c.op c.record c.reg.isSome
  let elems := (s.elementRanges (fun q => q) core c).flatMap (s.racePlace core c.record)
  if opPutacc < c.op then Race.none
  else if c.op < opGetx then { c.race with src := own a.1, dst := own a.2 }
  else if c.op = opGetx then { c.race with src := own a.1 ++ elems, dst := own a.2 }
  else { c.race with src := own a.1, dst := if c.op = opPutx then elems else [] }

/-- A command runs: some of its bytes may be written before it completes (R135). -/
def State.runTransfer (s : State) (core : Nat) (c : Cmd) : State :=
  let c1 := { c with status := .running, race := s.raceOf core c }
  let s1 := s.misuseCmd core c (c1.race.src ++ c1.race.dst)
  let q := if opPutx < c.op then (c1, s1)
    else match s1.workTransfer core c1 with
      | .done t => s1.early core c1 t
      | _ => (c1, s1)
  q.2.setCmd core .transfer q.1

/-- TRANSFER_COMMAND_START (R126, R135). -/
def execTransferCommandStart (core i : Nat) (s : State) : Result :=
  happens "TRANSFER_COMMAND_START" <|
    match (s.core core).eng.xq[i]? with
    | some c => if s.mayStart core i then some (s.runTransfer core c) else none
    | none => none

/-- TRANSFER_COMMAND_COMPLETE (R127, R128, R132, R138, R145). -/
def execTransferCommandComplete (core i : Nat) (s : State) : Result :=
  happens "TRANSFER_COMMAND_COMPLETE" <|
    match (s.core core).eng.xq[i]? with
    | some c =>
      if c.status = .running ∧ c.op ≤ opPutacc then some (s.performTransfer core c) else none
    | none => none

/-- In a collective's `sent`: the members of other packages have received its chunks (R317). -/
def collAcked : Nat := 4096

/-- In a collective's `sent`: a source in another package has been asked for (R79). -/
def collAsked : Nat := 4097

/-- In a collective's `sent`: its destination in another package has been written, and the answers are awaited (R128, R317). -/
def collWrote : Nat := 4098

/-- In a collective's `sent`: the answers to the writes of its destination have come. -/
def collAnswered : Nat := 4099

/-- COMMAND_PARK_RESUME (R80, R127, R138, R139, R317): the answers of a parked command have arrived, with the events that its additions
count here. -/
def execCommandParkResume (core i : Nat) (ans : RemoteAnswer) (data : List (BitVec 8)) (s : State) : Result :=
  happens "COMMAND_PARK_RESUME" <|
    match (s.core core).eng.xq[i]? with
    | some c =>
      if c.status = .parked ∧ c.sent ≠ [] ∧ (c.op ≤ opPutacc ∨ c.sent.contains collAsked) then
        match ans with
        | .complete ev =>
          some ((ev.foldl (fun s e => s.countNo core e.1 e.2) s).runTransfer core { c with payload := c.payload ++ data })
        | .failed => some ((s.spoilTransfer core c (EngErr.of 12 0)).engineError core .transfer c (EngErr.of 12 0))
        | .poisoned =>
          if c.reg.isSome then some (s.setCmd core .transfer { c with status := .running, got := [1] })
          else some ((s.spoilTransfer core c (errPoison 0)).engineError core .transfer c (errPoison 0))
      else if c.status = .parked ∧ 0x6B ≤ c.op ∧ c.sent.contains collWrote then
        match ans with
        | .complete _ => some (s.setCmd core .transfer { c with sent := collAnswered :: c.sent.filter (· != collWrote) })
        | .failed => some ((s.spoilTransfer core c (EngErr.of 12 0)).engineError core .transfer c (EngErr.of 12 0))
        | .poisoned => none
      else if c.status = .parked ∧ 0x6B ≤ c.op ∧ !c.sent.contains collAcked ∧ ans = .complete [] then
        some (s.setCmd core .transfer { c with sent := collAcked :: c.sent })
      else none
    | none => none

/-! ## Resumption and discarding (R146, R147) -/

/-- TECTL_RES (R146): no effect while the queue is not halted (R147). -/
def execTectlRes (core : Nat) (s : State) : Result := .next (s.transferRes core)

/-- TECTL_DISC (R146). -/
def execTectlDisc (core : Nat) (s : State) : Result := .next (s.transferDisc core)

/-- TECTL_CPRES (R147). -/
def execTectlCpres (core : Nat) (s : State) : Result := .next (s.coproRes core)

/-- TECTL_CPDISC (R147). -/
def execTectlCpdisc (core : Nat) (s : State) : Result := .next (s.coproDisc core)

/-! ## Requests of other packages (R137, R138, R319) -/

/-- Serve one element in the cluster a request names; an addition's events go back to the requester (R138, R188). -/
def State.serveElement (s : State) (q : RemoteReq) : State :=
  let rw : Who := ⟨24 * q.cluster, 0, 0, 0, []⟩
  let z := match Fmt.ofCode q.fmt.toNat with | some f => f.unitBytes | none => 8
  let answer := fun (s : State) (a : RemoteAnswer) (v : Word) => s.emit (.answer q.srcPkg q.tag a v)
  match s.pieces rw q.va z (if q.kind = .get then .read else .write) (Scope.ofCode q.scope) with
  | .error _ => answer s .failed 0
  | .ok (qs, s1) =>
    match q.kind with
    | .get =>
      (match s1.readPieces rw.core qs with
      | .ok (b, s2) => answer s2 (.complete []) (BitVec.ofNat 64 (bytesToNat b))
      | .error _ => answer s1 .poisoned 0)
    | k =>
      match s1.putElements rw (if k = .acc then opPutacc else opPutx) q.fmt.toNat z q.fz qs (natBytes q.value.toNat z) with
      | .ok (ev, s2) => answer s2 (.complete ev.list) 0
      | .error _ => answer s1 .poisoned 0

/-- REMOTE_REQUEST (R137, R138, R319): a cluster's memory port checks the capability and serves the request. -/
def execRemoteRequest (q : RemoteReq) (s : State) : Result :=
  happens "REMOTE_REQUEST" <|
    if 50 ≤ q.cluster ∨ 24 ≤ q.core ∨ !s.pack.inPod then none
    else
      let n := 24 * q.cluster + (if q.kind ≠ .notify ∧ tagOf q.va = 0xF0 then min (lowOf q.va / 0x80000) 23 else q.core)
      if !s.accepts hubRouter n q.cap then some (s.contain n q.cap)
      else
        match q.kind with
        | .notify => some ((s.bumpCc n (q.cc % 16) false (Scope.ofCode q.scope)).emit (.answer q.srcPkg q.tag (.complete []) 0))
        | _ => if tagOf q.va = 0xF0 ∨ tagOf q.va = 0xF2 then some (s.serveElement q) else none

end Sys2Proof.Machine
end

