-- ==== Sys2Proof/Machine/Counters.lean ====
section
/-! DEFINITION. Completion counters (R140–R143) and the transform coprocessor (R148–R151). -/

namespace Sys2Proof.Machine

/-! ## Completion counters -/

/-- The acquire of a successful observation (R140, R141): at PS, which becomes CORE. A band whose last command the counter has
counted is seen to be complete (R253), and so are the copies it has counted (R133). -/
def State.observe (s : State) (n : Nat) : State :=
  let x := s.myCore.cc n
  let s1 := s.dropL1 (clusterOf s.curCore) x.ps
  let c := (s1.myCore.setCc n { x with ps := .core }).sawBands s.curCtx fun b => b.last == some n && b.pending == 0
  s1.setMyCore { c with eng := { c.eng with unseen := c.eng.unseen.filter fun q => q.1 != n } }

/-- CWAIT (R141). -/
def execCwait (o : CROps) (s : State) : Result :=
  runInstr (.cwait o) s fun v s =>
    let w := crB32 o v
    let n := lowCc o.a
    if (s.myCore.cc n).ready w then .ok () ((s.observe n).endWait) else .wait (s.waitFor (.counter n w))

/-- CWAIT_COMPLETE (R141): the counter is ready, and the waiting bundle issues again. -/
def execCwaitComplete (core k : Nat) (s : State) : Result :=
  s.endWaitOf "CWAIT_COMPLETE" core k (fun w => match w with | .counter n t => ((s.core core).cc n).ready t | _ => false) none

/-- CTEST (R142). -/
def execCtest (o : CROps) (s : State) : Result :=
  runInstr (.ctest o) s fun v s =>
    let n := lowCc o.a
    let x := s.myCore.cc n
    let p := x.ready (v.b.extractLsb' 0 32)
    let s1 := (s.setPred (lowPred o.d) p).setPred (highPred o.d) x.e
    .ok () (if p then s1.observe n else s1)

/-- CSET (R143). -/
def execCset (o : CROps) (s : State) : Result :=
  runInstr (.cset o) s fun v s => .ok () (s.setMyCore (s.myCore.setCc (lowCc o.a) ⟨crB32 o v, false, .core⟩))

/-! ## The transform coprocessor: issue (R148, R151) -/

/-- Unfinished commands of a core at its coprocessor (R148): those not failed for good. -/
def Core.coproCount (c : Core) : Nat := (c.eng.cq.filter fun x => !(x.status == .halted && x.reason != 3)).length

/-- The ticket of a core's command (R148). -/
def ticketWord (core seq : Nat) : Word := BitVec.ofNat 64 (indexOf core * 2 ^ 16 + seq % 2 ^ 16)

/-- The coprocessor that serves a core: its arrival list. -/
def State.coproList (s : State) (cl third : Nat) : List (Nat × Nat) := ((s.cluster cl).coproc[third]?).getD []

def State.setCoproList (s : State) (cl third : Nat) (l : List (Nat × Nat)) : State :=
  let c := s.cluster cl
  s.setCluster cl { c with coproc := listSet c.coproc third l }

/-- The state word of a ticket (R151). -/
def Core.ticketState (c : Core) (core : Nat) (t : Word) : Word :=
  let st := match c.eng.tickets.find? fun x => ticketWord core x.seq == t with
    | some x => x.state
    | none => 0
  BitVec.ofNat 64 (st + bit c.eng.cphalt * 2 ^ 8 + c.coproCount * 2 ^ 9)

/-- XFPOLL (R151). -/
def execXfpoll (o : CROps) (s : State) : Result :=
  runInstr (.xfpoll o) s fun v s => .ok () (s.setReg o.d.toNat (s.myCore.ticketState s.curCore v.a))

/-! ## Transform commands (R149) -/

/-- The geometry of TILE and UNTILE. -/
structure TileGeo where
  d0 : Nat
  d1 : Nat
  z : Nat
  t0 : Nat
  t1 : Nat
  stride : Nat
deriving DecidableEq, Repr

def tileGeo (r : List Byte) : TileGeo :=
  ⟨field r 24 2, field r 26 2, field r 28 1, field r 29 1, field r 30 1, field r 32 4⟩

def TileGeo.n0 (g : TileGeo) : Nat := (g.d0 + g.t0 - 1) / g.t0

def TileGeo.n1 (g : TileGeo) : Nat := (g.d1 + g.t1 - 1) / g.t1

/-- Bytes that the array spans, and bytes of its tiles. -/
def TileGeo.span (g : TileGeo) : Nat := (g.d1 - 1) * g.stride + g.d0 * g.z

def TileGeo.tiled (g : TileGeo) : Nat := 192 * (g.n0 * g.n1)

/-- The parameters are in range (R149); the source covers what the geometry reads, and a dimension of 0, for which R149 states no range, is
out of range (DESIGN CHOICE, log 20). -/
def TileGeo.ok (g : TileGeo) (top len : Nat) (tile : Bool) : Bool :=
  (g.z == 1 || g.z == 2 || g.z == 4 || g.z == 8) && decide (1 ≤ g.t0) && decide (1 ≤ g.t1) && decide (g.t0 * g.t1 * g.z ≤ 192)
    && decide (1 ≤ g.d0) && decide (1 ≤ g.d1) && top == 0
    && decide ((if tile then g.span else g.tiled) ≤ len)

/-- The place of array element (y, x) in the tiles (R87): tile t = c0 + n0 × c1, element e = y0 + T0 × y1. -/
def TileGeo.place (g : TileGeo) (x y : Nat) : Nat :=
  192 * (x / g.t0 + g.n0 * (y / g.t1)) + (x % g.t0 + g.t0 * (y % g.t1)) * g.z

/-- An array becomes tiles: element e of tile t, or zero. -/
def TileGeo.tile (g : TileGeo) (bs : List Byte) : List Byte :=
  (List.range (g.n0 * g.n1)).flatMap fun t =>
    let body := (List.range (g.t0 * g.t1)).flatMap fun e =>
      let x := t % g.n0 * g.t0 + e % g.t0
      let y := t / g.n0 * g.t1 + e / g.t0
      if x < g.d0 ∧ y < g.d1 then (bs.drop (y * g.stride + x * g.z)).take g.z else List.replicate g.z 0
    body ++ List.replicate (192 - g.t0 * g.t1 * g.z) 0

/-- Row `y` of the array that tiles hold. -/
def TileGeo.row (g : TileGeo) (bs : List Byte) (y : Nat) : List Byte :=
  (List.range g.d0).flatMap fun x => (bs.drop (g.place x y)).take g.z

/-- The bytes of the array that more than one row holds: their offset and their count. -/
def TileGeo.shared (g : TileGeo) : Nat × Nat := (g.stride, (g.d1 - 2) * g.stride + g.d0 * g.z - g.stride)

/-- What a transform command does: source length, destination parts, the bytes, RESULT (none: not stated, log 20), and the bytes that it
writes more than once, which are undefined (log 20). -/
structure Transform where
  len : Nat
  dst : List (Word × Nat)
  noDev : Bool
  make : List Byte → Eng? (List Byte)
  result : List Byte → Option Nat
  twice : Option (Word × Nat)

def errFunction : EngErr := EngErr.of 13 0

/-- The transform of a record (R149), or its error. R149 names no range for the parameter bits that a function does not use: P0 above its
codec and P1 above its length for PACK and UNPACK, P1 for CRC, P1 above its stride for TILE and UNTILE are ignored (DESIGN CHOICE,
log 20). -/
def transformOf (r : List Byte) : Eng? Transform :=
  let len := field r 4 4
  let d := ptrField r 16
  let p0 := field r 24 8
  let p1 := field r 32 4
  let f := Fmt.ofCode (p0 % 16)
  let codec := p0 / 16 % 4
  if !(polOk (field r 1 1) && scopeOk (field r 2 1) && fieldZero r 3 1 && fieldZero r 44 20 && decide (1 ≤ len) && decide (len ≤ 65536)) then
    .error errIll
  else
    match field r 0 1 with
    | 1 =>
      if p0 / 2 ^ 32 ≠ 0 then .error errFunction
      else
        .ok ⟨len, [(d, 4)], false, fun bs => .ok (natBytes (crcFrom (~~~(BitVec.ofNat 32 p0)) bs).toNat 4),
          fun b => some (bytesToNat b), none⟩
    | 2 =>
      (match f with
      | some f =>
        if codec = 3 ∨ p1 < 48 ∨ 68640 < p1 then .error errFunction
        else if len % f.unitBytes ≠ 0 then .error errIll
        else .ok ⟨len, [(d, p1)], true, fun bs => (packEng codec f p1 bs).map (·.1), fun b => some b.length, none⟩
      | none => .error errFunction)
    | 3 =>
      (match f with
      | some f =>
        if codec = 3 ∨ p1 = 0 ∨ 65536 < p1 ∨ p1 % f.unitBytes ≠ 0 then .error errFunction
        else .ok ⟨len, [(d, p1)], true, fun bs => (expandEng codec f p1 bs).map (·.1), fun b => some b.length, none⟩
      | none => .error errFunction)
    | 4 =>
      let g := tileGeo r
      if g.ok (field r 31 1) len true then .ok ⟨g.span, [(d, g.tiled)], false, fun bs => .ok (g.tile bs), fun _ => none, none⟩
      else .error errFunction
    | 5 =>
      let g := tileGeo r
      if g.ok (field r 31 1) len false then
        .ok ⟨g.tiled, (List.range g.d1).map fun y => (ptrUp d (y * g.stride), g.d0 * g.z), false,
          fun bs => .ok ((List.range g.d1).flatMap (g.row bs)), fun _ => none,
          if 2 ≤ g.d1 ∧ g.stride < g.d0 * g.z then some (ptrUp d g.shared.1, g.shared.2) else none⟩
      else .error errFunction
    | _ => .error errFunction

/-- The destination of a transform, as the record's fields give it whether or not they are in range (R146, R149). -/
def transformDst (r : List Byte) : List (Word × Nat) :=
  let d := ptrField r 16
  let g := tileGeo r
  match field r 0 1 with
  | 1 => [(d, 4)]
  | 2 | 3 => [(d, field r 32 4)]
  | 4 => [(d, g.tiled)]
  | 5 => (List.range g.d1).map fun y => (ptrUp d (y * g.stride), g.d0 * g.z)
  | _ => []

/-- A transform's destination is undefined: from its issue until its increment (R150), and where it has failed (R146). -/
def State.spoilTransform (s : State) (core : Nat) (cmd : Cmd) : State :=
  (transformDst cmd.record).foldl (fun s q => s.scrambleRange (cmd.who core) q.1 q.2 cmd.scope)
    (s.setCmd core .copro { cmd with race := Race.none })

/-- A transform command is issued (R150): its destination is undefined from now on, and what its source shares with it is read as it
stands. -/
def State.openTransform (s : State) (core : Nat) (cmd : Cmd) : Cmd × State :=
  let cl := clusterOf core
  let w := cmd.who core
  let dst := (transformDst cmd.record).flatMap fun q => s.normRange w q.1 q.2
  let src := s.normRange w (ptrField cmd.record 8) (min (field cmd.record 4 4) 65536)
  let own := fun (l : List Range) => l.map fun q => (core, q)
  let out := s.placesOf .write (own dst)
  let shared := (s.placesOf .read (own src)).flatMap fun q => ((List.range q.2).map (q.1 + ·)).filter (holdsKey out)
  let took := shared.foldl (fun t a => tabSet t a (s.seenByte cl a)) []
  ({ cmd with race := ⟨own src, own dst, took, [], false⟩ }, s.spoilTransform core cmd)

/-- Run a transform command for its core (R149, R150): its destination is undefined where something has been stored to its source since its
issue, and so is a RESULT made of the source. An operand in another package is no operand of the coprocessor's
(log 20). -/
def State.runTransform (s0 : State) (core : Nat) (cmd : Cmd) : Eng? State :=
  let s := s0.setCmd core .copro { cmd with race := Race.none }
  let w := cmd.who core
  match transformOf cmd.record with
  | .error e => .error e
  | .ok t =>
    match s.pieces w (ptrField cmd.record 8) t.len .read cmd.scope with
    | .error e => .error e
    | .ok (q, s1) =>
      match if t.noDev then devicePiece q else none with
      | some d => .error (errAddr d.ptr)
      | none =>
        match s1.readPieces core q with
        | .error e => .error e
        | .ok (bs, s2) =>
          match t.make bs with
          | .error e => .error e
          | .ok out =>
            match s2.checkResult core cmd 40 with
            | .error e => .error e
            | .ok s3 =>
              match s3.partPieces w .write cmd.scope (cutParts t.dst out.length) with
              | .error e => .error e
              | .ok (qs, s4) =>
                match if t.noDev then devicePiece qs else none with
                | some d => .error (errAddr d.ptr)
                | none =>
                  match s4.writePieces core qs out with
                  | .error e => .error e
                  | .ok s0 =>
                    let s5 := if cmd.race.changed then s0.spoilTransform core cmd
                      else match t.twice with
                        | some q => s0.scrambleRange w q.1 q.2 cmd.scope
                        | none => s0
                    match if cmd.race.changed && decide (field cmd.record 0 1 ≤ 2) then none else t.result out with
                    | some n => s5.writeResult core cmd 40 n
                    | none =>
                      let (x, s6) := s5.fresh
                      s6.writeResult core cmd 40 (x.toNat % 2 ^ 32)

/-- XFORM (R148): accepted, or answered busy. -/
def execXform (o : CROps) (s : State) : Result :=
  runInstr (.xform o) s fun v s =>
    ((s.readRecord v.a 8 16).bind fun r s =>
      afterStores s fun s =>
        let c := s.myCore
        if 2 ≤ c.coproCount ∨ c.eng.cphalt then
          .ok () ((s.setPred (guardPred o.g) (o.g.getLsbD 3)).count s.curCore .busy 1)
        else
          let n := c.eng.cseq
          let (cmd, s) := s.openTransform s.curCore (s.newCmd 0x33 n r v.a 0 (some (lowCc o.b)))
          let c := s.myCore
          let ts := (c.eng.tickets ++ [(⟨n, 1⟩ : Ticket)]).drop (c.eng.tickets.length - 15)
          let s1 := s.setMyCore { c with eng := { c.eng with cq := c.eng.cq ++ [cmd], cseq := n + 1, tickets := ts } }
          let cl := clusterOf s.curCore
          let th := thirdOf s.curCore
          let s2 := s1.setCoproList cl th (s1.coproList cl th ++ [(s.curCore, n)])
          .ok () (s2.setReg o.d.toNat (ticketWord s.curCore n))).orElseWait s

/-- The next command that a coprocessor serves (R148): the first in arrival order that is queued at a core whose share runs. -/
def State.nextTransform (s : State) (cl third : Nat) : Option (Nat × Cmd) :=
  (s.coproList cl third).findSome? fun p =>
    let c := s.core p.1
    if c.eng.cphalt || (s.part (s.partOf p.1)).paused then none
    else (c.eng.cq.find? fun x => x.seq == p.2 && x.status == .queued).map fun x => (p.1, x)

/-- TRANSFORM_COMMAND (R148–R150). -/
def execTransformCommand (cl third : Nat) (s : State) : Result :=
  happens "TRANSFORM_COMMAND" <|
    match s.nextTransform cl third with
    | none => none
    | some (core, cmd) =>
      let s := s.misuseCmd core cmd (cmd.race.src ++ cmd.race.dst)
      let s1 := match s.runTransform core cmd with
        | .ok s1 =>
          let s2 := s1.finishCmd core .copro cmd
          s2.setCore core ((s2.core core).setTicket cmd.seq 3)
        | .error x =>
          if x.reason = 0 then s else
          let s2 := (s.spoilTransform core cmd).engineError core .copro cmd x
          if x.reason = 3 then s2.setCore core ((s2.core core).setTicket cmd.seq 2) else s2
      let live := fun (p : Nat × Nat) => ((s1.core p.1).eng.cq.any fun x => x.seq == p.2)
      some ((s1.setCoproList cl third ((s1.coproList cl third).filter live)).misuseCmd core cmd (cmd.race.src ++ cmd.race.dst))

end Sys2Proof.Machine
end

