-- ==== Sys2Proof/Machine/Shape.lean ====
section
/-! DEFINITION. Shape records (R208–R210) and the elements they reach: reading, and writing with conversion (R209, R211,
R407). -/

namespace Sys2Proof.Machine

/-- A shape: `port` is the port field of a stream-backed one (R210). -/
structure Shape where
  base : Word
  fmt : Fmt
  rank : Nat
  dims : List Nat
  strides : List Int
  n : Nat
  port : Option Nat
deriving DecidableEq, Repr

def Shape.dim (h : Shape) (i : Nat) : Nat := (h.dims[i]?).getD 1

def Shape.stride (h : Shape) (i : Nat) : Int := (h.strides[i]?).getD 0

/-- The element offset of coordinates (R209). -/
def Shape.offset (h : Shape) (n : Nat) : Int :=
  let x0 := n % h.dim 0
  let x1 := n / h.dim 0 % h.dim 1
  let x2 := n / (h.dim 0 * h.dim 1) % h.dim 2
  let x3 := n / (h.dim 0 * h.dim 1 * h.dim 2)
  (x0 : Int) * h.stride 0 + x1 * h.stride 1 + x2 * h.stride 2 + x3 * h.stride 3

/-- The byte offset of an element's unit from the base, and its place in the unit. A stream's elements follow one another. -/
def Shape.unit (h : Shape) (n : Nat) : Int × Nat :=
  let e := if h.port.isSome then (n : Int) else h.offset n
  if h.fmt.perUnit = 1 then (e * h.fmt.unitBytes, 0) else (e / h.fmt.perUnit * h.fmt.unitBytes, (e % h.fmt.perUnit).toNat)

def Shape.units (h : Shape) : List (Int × Nat) := (List.range h.n).map h.unit

/-- Lowest and one past the highest byte offset that the shape reaches. -/
def Shape.extent (h : Shape) : Int × Int :=
  match h.units with
  | [] => (0, 0)
  | u :: t =>
    let lo := t.foldl (fun a x => min a x.1) u.1
    let hi := t.foldl (fun a x => max a x.1) u.1
    (lo, hi + h.fmt.unitBytes)

/-- A shape record's bytes, checked (R208): none where it is ill-formed. -/
def shapeOf (r : List Byte) (maxN : Nat) : Option Shape :=
  match Fmt.ofCode (field r 8 1) with
  | none => none
  | some f =>
    let rank := field r 9 1
    let port := field r 10 2 == 1
    let dims := (List.range 4).map fun i => field r (16 + 4 * i) 4
    let strides := (List.range 4).map fun i => fieldS32 r (32 + 4 * i)
    let n := dims.foldl (· * ·) 1
    let tail := (List.range 4).all fun i => decide (i < rank) || ((dims[i]?).getD 1 == 1 && (strides[i]?).getD 0 == 0)
    let base := BitVec.ofNat 64 (field r 0 8)
    let h : Shape := ⟨base, f, rank, dims, strides, n, if port then some (field r 0 1 % 64) else none⟩
    let common := decide (1 ≤ rank) && decide (rank ≤ 4) && decide (field r 10 2 ≤ 1) && fieldZero r 12 4
      && dims.all (fun d => decide (1 ≤ d)) && tail && decide (n ≤ maxN)
    if !common then none
    else if port then
      (if rank = 1 ∧ f.isBlock = false ∧ field r 0 8 < 64 ∧ (f = .i4 → h.dim 0 % 2 = 0) then some h else none)
    else
      let g := f.perUnit
      let blocks := g = 1 ∨ ((strides[0]?).getD 0 = 1 ∧ h.dim 0 % g = 0 ∧ (strides.drop 1).all (fun x => x % (g : Int) == 0)
        ∧ 0 ≤ h.extent.1)
      let span := h.extent.2 - h.extent.1
      if base.toNat % f.align = 0 ∧ blocks ∧ span ≤ 65536 then some h else none

/-- A record's pointer of this package (R208). -/
def State.homePtr (s : State) (p : Word) : Bool :=
  tagOf p == 0 || tagOf p == 0xF0 || tagOf p == 0xF1 || tagOf p == 0xF2 || (tagOf p ≤ 0xC0 && tagOf p == s.pack.pkg + 1)

/-- Read the bytes of a shape record (R208, R215). R208 has records at multiples of 48 and gives one that stands elsewhere no outcome; R398
and R399 rest on records at 16 modulo 48 that are read as they stand, and a multiple of 16 is what all of the spec's own records keep
(DEDUCED, log 21). -/
def State.shapeBytes (s : State) (w : Who) (p : Word) (sc : Scope) : Eng? (List Byte × State) :=
  if placeOf p % 16 ≠ 0 then .error (EngErr.of 1 p)
  else if !s.homePtr p then .error (errAddr p)
  else s.engRead w p 48 sc

/-- Read and check a shape record. -/
def State.readShape (s : State) (w : Who) (p : Word) (maxN : Nat) (sc : Scope) : Eng? (Shape × State) :=
  match s.shapeBytes w p sc with
  | .error e => .error e
  | .ok (r, s1) =>
    match shapeOf r maxN with
    | none => .error (EngErr.of 1 p)
    | some h => if h.port.isNone && !s1.homePtr h.base then .error (errAddr h.base) else .ok (h, s1)

/-! ## Runs of bytes -/

/-- Strictly rising. -/
def rising : List Int → Bool
  | a :: b :: t => decide (a < b) && rising (b :: t)
  | _ => true

/-- Remove neighbours that are equal. -/
def dedup : List Int → List Int
  | a :: b :: t => if a = b then dedup (b :: t) else a :: dedup (b :: t)
  | l => l

/-- The distinct unit offsets in rising order. -/
def Shape.offsets (h : Shape) : List Int :=
  let l := dedup (h.units.map (·.1))
  if rising l then l else dedup (l.mergeSort (fun a b => decide (a ≤ b)))

/-- Join neighbouring units of `k` bytes into runs. -/
def joinRuns (k : Nat) : List Int → List (Int × Nat)
  | [] => []
  | a :: t =>
    match joinRuns k t with
    | (b, n) :: r => if b = a + k then (a, k + n) :: r else (a, k) :: (b, n) :: r
    | [] => [(a, k)]

def Shape.runs (h : Shape) : List (Int × Nat) := joinRuns h.fmt.unitBytes h.offsets

/-- The pointer of a byte offset: none where it leaves the 56 bits of an address. -/
def Shape.at? (h : Shape) (a : Int) : Option Word :=
  let x := (lowOf h.base : Int) + a
  if 0 ≤ x ∧ x < 2 ^ 56 then some (mkPtr (tagOf h.base) x.toNat) else none

/-- The pieces of runs. -/
def State.runPieces (s : State) (w : Who) (h : Shape) (acc : Acc) (sc : Scope) : List (Int × Nat) → Eng? (List Piece × State)
  | [] => .ok ([], s)
  | (a, n) :: t =>
    match h.at? a with
    | none => .error (errAddr h.base)
    | some p =>
      match s.pieces w p n acc sc with
      | .error e => .error e
      | .ok (l, s1) =>
        match State.runPieces s1 w h acc sc t with
        | .error e => .error e
        | .ok (m, s2) => .ok (l ++ m, s2)

/-- The translation phase for a shape (R215): every page it reaches. -/
def State.shapePages (s : State) (w : Who) (h : Shape) (acc : Acc) (sc : Scope) : Eng? State :=
  if h.port.isSome then .ok s
  else
    match s.runPieces w h acc sc h.runs with
    | .error e => .error e
    | .ok (_, s1) => .ok s1

/-- The normalised ranges of a shape's runs (R133). -/
def State.shapeRanges (s : State) (w : Who) (h : Shape) : List Range :=
  if h.port.isSome then []
  else
    match s.place w h.base 1 with
    | none => []
    | some q =>
      h.runs.filterMap fun r =>
        let lo := (lowOf q.norm : Int) + r.1
        if 0 ≤ lo then some ⟨tagOf q.norm, lo.toNat, r.2⟩ else none

/-- Some place lies in both lists. -/
def keysMeet (a b : List (Nat × Nat)) : Bool := a.any fun x => b.any fun y => decide (x.1 < y.1 + y.2) && decide (y.1 < x.1 + x.2)

/-- The places of a shape's bytes. -/
def State.shapeKeys (s : State) (w : Who) (h : Shape) : List (Nat × Nat) := (s.shapeRanges w h).flatMap (s.rangeKeys w.core .write)

/-- An operand's bytes overlap an entry of the core's range scoreboard (R134). -/
def State.rangesHeld (s : State) (core : Nat) (l : List Range) : Bool := l.any (s.scoreHit core)

/-! ## Elements -/

/-- An element as its unit's bytes and its place there. -/
structure Elem where
  unit : List Byte
  slot : Nat
deriving DecidableEq, Repr

def Elem.val (f : Fmt) (e : Elem) : EVal := f.element e.unit e.slot

/-- The bits of an element of a format without blocks. -/
def Elem.raw (f : Fmt) (e : Elem) : Nat := bitsOf e.unit (e.slot * f.bits) f.bits

/-- The bytes that runs read, as arrays by run. -/
abbrev RunData := List (Int × Array Byte)

def RunData.get (d : RunData) (a : Int) (n : Nat) : List Byte :=
  match d.find? fun r => decide (r.1 ≤ a) && decide (a < r.1 + r.2.size) with
  | some r => (List.range n).map fun i => (r.2[(a - r.1).toNat + i]?).getD 0
  | none => List.replicate n 0

/-- Read runs. -/
def State.readRuns (s : State) (w : Who) (h : Shape) (sc : Scope) : List (Int × Nat) → Eng? (RunData × State)
  | [] => .ok ([], s)
  | (a, n) :: t =>
    match h.at? a with
    | none => .error (errAddr h.base)
    | some p =>
      match s.engRead w p n sc with
      | .error e => .error e
      | .ok (b, s1) =>
        match State.readRuns s1 w h sc t with
        | .error e => .error e
        | .ok (l, s2) => .ok ((a, b.toArray) :: l, s2)

/-- The elements of a shape in memory, in element order (R209). -/
def State.readElems (s : State) (w : Who) (h : Shape) (sc : Scope) : Eng? (List Elem × State) :=
  match s.readRuns w h sc h.runs with
  | .error e => .error e
  | .ok (d, s1) => .ok (h.units.map fun u => ⟨d.get u.1 h.fmt.unitBytes, u.2⟩, s1)

/-- The elements of a stream's bytes (R210). -/
def Shape.streamElems (h : Shape) (bs : List Byte) : List Elem :=
  let d : RunData := [(0, bs.toArray)]
  h.units.map fun u => ⟨d.get u.1 h.fmt.unitBytes, u.2⟩

/-! ## Writing elements -/

/-- What is written to an element: a value to convert, bits to move, or the bytes of its whole unit, as they have been converted. -/
inductive WElem where
  | val (v : EVal)
  | raw (bits : Nat)
  | unit (bytes : List Byte)
deriving DecidableEq, Repr

/-- The slots of a unit that a command writes; the last write to a slot stays (R209). -/
abbrev UnitWrites := List (Nat × WElem)

def putSlot (l : UnitWrites) (k : Nat) (x : WElem) : UnitWrites := (l.filter fun y => y.1 != k) ++ [(k, x)]

/-- Collect the writes by unit: the key is the unit's offset above `lo`. -/
def collectWrites (h : Shape) (lo : Int) (ws : List (Nat × WElem)) : Tab UnitWrites :=
  ws.foldr (fun (q : Nat × WElem) t =>
    let u := h.unit q.1
    let k := (u.1 - lo).toNat
    match tabGet t k with
    | some l => if l.any (fun y => y.1 == u.2) then t else tabSet t k ((u.2, q.2) :: l)
    | none => tabSet t k [(u.2, q.2)]) []

/-- Bits and events of one element written (R179–R181, R211). -/
def WElem.encode (f : Fmt) (x : WElem) : Nat × FEv :=
  match x with
  | .val v => f.encode .rne v
  | .raw b => (b, {})
  | .unit b => (bytesToNat b, {})

/-- A result of an engine operation in its destination's format: one conversion (R211), then the flush of a subnormal result (R185);
blocks are encoded whole (R182, R183) and not flushed (log 54). -/
def Fmt.encodeFz (f : Fmt) (fz : Bool) (v : EVal) : Nat × FEv :=
  let r := f.encode .rne v
  match f.float? with
  | some ff =>
    if fz && ff.subnormal r.1 then (r.1 / 2 ^ (ff.width - 1) * 2 ^ (ff.width - 1), { flush := 1, uf := 1, ix := 1 }) else r
  | none => r

/-- Written results with FZ's flush in the destination's format, and its events (R185). -/
def flushWrites (fz : Bool) (f : Fmt) (ws : List (Nat × WElem)) : List (Nat × WElem) × FEv :=
  if fz && f.float?.isSome then
    ws.foldr (fun q acc =>
      match q.2 with
      | .val v =>
        let r := f.encodeFz fz v
        ((q.1, .raw r.1) :: acc.1, r.2.add acc.2)
      | .raw _ | .unit _ => (q :: acc.1, acc.2)) ([], {})
  else (ws, {})

/-- A unit's new bytes from its old ones and the slots written. -/
def unitBytesOf (f : Fmt) (old : List Byte) (ws : UnitWrites) : List Byte × FEv :=
  if f.isBlock then
    match ws with
    | (_, .unit b) :: _ => (b, {})
    | _ =>
    let vs := (List.range f.perUnit).map fun i =>
      match ws.find? fun y => y.1 == i with
      | some (_, .val v) => v
      | _ => f.element old i
    f.encodeUnit .rne vs
  else if f = .i4 then
    let part := fun (i : Nat) => match ws.find? fun y => y.1 == i with
      | some (_, x) => x.encode f
      | none => (bitsOf old (4 * i) 4, {})
    (natBytes ((part 0).1 % 16 + 16 * ((part 1).1 % 16)) 1, (part 0).2.add (part 1).2)
  else
    match ws with
    | (_, x) :: _ => (natBytes (x.encode f).1 f.unitBytes, (x.encode f).2)
    | [] => (old, {})

/-- The events of writes that a later write to the same element replaces are counted too: one conversion per element written
(R188, R211); block formats count by block. -/
def lostEvents (h : Shape) (ws : List (Nat × WElem)) (t : Tab UnitWrites) : FEv :=
  if h.fmt.isBlock ∨ ws.length = (t.map fun u => u.2.length).foldl (· + ·) 0 then {}
  else
    let all := ws.foldl (fun e q => e.add (q.2.encode h.fmt).2) ({} : FEv)
    let kept := t.foldl (fun e u => u.2.foldl (fun e x => e.add (x.2.encode h.fmt).2) e) ({} : FEv)
    { iv := all.iv - kept.iv, dz := 0, of := all.of - kept.of, uf := all.uf - kept.uf, ix := all.ix - kept.ix,
      sat := all.sat - kept.sat, flush := 0, nanblock := 0, trunc := 0, skip := 0 }

/-- The old bytes of a unit that is written in part. A nibble's byte is read without a POISON error (R407). -/
def State.oldUnit (s : State) (w : Who) (h : Shape) (p : Word) (sc : Scope) : Eng? (List Byte × State) :=
  if h.fmt = .i4 then
    match s.pieces w p 1 .write sc with
    | .error e => .error e
    | .ok (q :: _, s1) =>
      .ok (if q.disc then [0] else if q.key < spBase then s1.agentBytes (clusterOf w.core) q.key 1 else s1.bytesAt q.key 1, s1)
    | .ok ([], s1) => .ok ([0], s1)
  else s.engRead w p h.fmt.unitBytes sc

/-- Write units (their offsets above `lo`), in rising order; an error reports the elements written before it (R144). -/
def State.writeUnits (s : State) (w : Who) (h : Shape) (lo : Int) (sc : Scope) (ev : FEv) : Tab UnitWrites → Eng? (FEv × State)
  | [] => .ok (ev, s)
  | (k, ws) :: t =>
    match h.at? (lo + k) with
    | none => .error (errAddr h.base)
    | some p =>
      let whole := decide (h.fmt.perUnit ≤ ws.length)
      match if whole then .ok ([], s) else s.oldUnit w h p sc with
      | .error e => .error e
      | .ok (old, s1) =>
        let r := unitBytesOf h.fmt old ws
        match s1.engWrite w p r.1 sc with
        | .error e => .error e
        | .ok s2 =>
          match State.writeUnits s2 w h lo sc (ev.add r.2) t with
          | .error e => .error { e with progress := e.progress + ws.length }
          | r => r

/-- Write elements of a shape in memory: (element number, value) in order (R209, R211). -/
def State.writeElems (s : State) (w : Who) (h : Shape) (ws : List (Nat × WElem)) (sc : Scope) : Eng? (FEv × State) :=
  let lo := h.extent.1
  let t := collectWrites h lo ws
  s.writeUnits w h lo sc (lostEvents h ws t) t

/-- Bits of which the spec states no value. -/
def freeBits (k f : Nat) : Nat := (Config.freeWord k).toNat % 2 ^ f

/-- Every element of a stream goes out (R210): one that the command writes nothing to holds a free value (log 21). -/
def Shape.allWritten (h : Shape) (free : Nat) (ws : List (Nat × WElem)) : List (Nat × WElem) :=
  ((List.range h.n).filter fun n => !ws.any fun x => x.1 == n).map (fun n => (n, .raw (freeBits (free + n) h.fmt.bits))) ++ ws

/-- The bytes of a stream's elements, zero-padded to whole words (R210). -/
def Shape.streamBytes (h : Shape) (free : Nat) (ws : List (Nat × WElem)) : List Byte × FEv :=
  let t := collectWrites h 0 (h.allWritten free ws)
  let r := t.foldl (fun (acc : List Byte × FEv) u =>
    let b := unitBytesOf h.fmt (List.replicate h.fmt.unitBytes 0) u.2
    (acc.1 ++ b.1, acc.2.add b.2)) ([], {})
  (r.1 ++ List.replicate ((8 - r.1.length % 8) % 8) 0, r.2)

/-- Words of a stream shape. -/
def Shape.words (h : Shape) : Nat := (h.n * h.fmt.bits + 63) / 64

/-- The bytes that a failed command leaves undefined in a shape (R146). -/
def State.spoilShape (s : State) (w : Who) (h : Shape) (sc : Scope) : State :=
  if h.port.isSome then s
  else h.runs.foldl (fun s r => match h.at? r.1 with | some p => s.scrambleRange w p r.2 sc | none => s) s

/-! ## Operands as f32 (R185, R188, R211) -/

/-- A value as an operand of a float operation: widened to f32, flushed with FZ. -/
def operandF (fz : Bool) (v : EVal) : FVal × FEv :=
  let a := widenF32 v.toF
  let b := flushIn fz .f32 a.1
  (b.1, a.2.add b.2)

def Fmt.isFloat (f : Fmt) : Bool := f.int?.isNone

def EVal.int : EVal → Int
  | .i n => n
  | .f _ => 0

end Sys2Proof.Machine
end

