-- ==== Sys2Proof/Machine/MatrixOps.lean ====
section
/-! DEFINITION. The arithmetic of the matrix engine (R233, R241–R244, R247): groups, skipping, the sparse expansion, and words
to and from elements. -/

namespace Sys2Proof.Machine

/-! ## Families (R233) -/

inductive Family where
  | f8 | f4 | f16 | i8
deriving DecidableEq, Repr

def Fmt.family : Fmt → Option Family
  | .e4m3 | .e5m2 | .qe7 => some .f8
  | .qe4 | .qe2 | .e2m1 => some .f4
  | .bf16 | .f16 => some .f16
  | .i8 | .n8 => some .i8
  | _ => none

/-- Group size Gs and window constant G. -/
def Family.group : Family → Nat × Nat
  | .f8 => (16, 20) | .f4 => (32, 19) | .f16 => (4, 47) | .i8 => (1, 0)

/-- Significand width w (R241). -/
def Fmt.sigWidth : Fmt → Nat
  | .e4m3 => 4 | .e5m2 => 3 | .f16 => 11 | .bf16 => 8 | .qe7 => 7 | .qe4 => 4 | _ => 2

/-! ## One group (R241) -/

/-- What the products of a group amount to. -/
inductive GroupSum where
  /-- Every product is zero or skipped: the accumulator is untouched. -/
  | keep
  /-- A value to add, whether invalid is counted, and truncated terms. -/
  | add (v : FVal) (iv : Bool) (trunc : Nat)
deriving DecidableEq, Repr

/-- A product is ∞ × 0. -/
def infZero (p : FVal × FVal) : Bool := (p.1.isInf && p.2.isZero) || (p.1.isZero && p.2.isInf)

/-- A product's sign and, where it is infinite, the fact. -/
def infProd (p : FVal × FVal) (neg : Bool) : Bool :=
  (p.1.isInf || p.2.isInf) && !p.1.isNan && !p.2.isNan && !infZero p && (p.1.neg? != p.2.neg?) == neg

/-- A nonzero finite product: sign, P, e. -/
def finProd (p : FVal × FVal) : Option (Bool × Nat × Int) :=
  match p.1, p.2 with
  | .fin n1 m1 e1, .fin n2 m2 e2 => if m1 * m2 = 0 then none else some (n1 != n2, m1 * m2, e1 + e2)
  | _, _ => none

/-- The largest exponent of a list. -/
def maxExp : List (Bool × Nat × Int) → Int
  | [] => 0
  | [t] => t.2.2
  | t :: r => max t.2.2 (maxExp r)

/-- floor(P × 2^k) and whether a nonzero bit is lost. -/
def windowTerm (P : Nat) (k : Int) : Nat × Bool :=
  if 0 ≤ k then (P * 2 ^ k.toNat, false) else (P / 2 ^ (-k).toNat, P % 2 ^ (-k).toNat != 0)

/-- The sum of a group's products in the window that its largest product sets. -/
def groupSum (G bP : Nat) (ps : List (FVal × FVal)) : GroupSum :=
  let nan := ps.any fun p => p.1.isNan || p.2.isNan
  let snan := ps.any fun p => p.1 == .nan true || p.2 == .nan true
  let bad := ps.any infZero
  let pos := ps.any fun p => infProd p false
  let neg := ps.any fun p => infProd p true
  if nan || bad || (pos && neg) then .add (.nan false) (snan || bad || (pos && neg)) 0
  else if pos || neg then .add (.inf neg) false 0
  else
    let ts := ps.filterMap finProd
    if ts.isEmpty then .keep
    else
      let emax := maxExp ts
      let r := ts.foldl (fun (a : Int × Nat) t =>
        let w := windowTerm t.2.1 (t.2.2 - emax + G - bP)
        (a.1 + (if t.1 then -(w.1 : Int) else w.1), a.2 + if w.2 then 1 else 0)) (0, 0)
      .add (.fin (decide (r.1 < 0)) r.1.natAbs (emax - G + bP)) false r.2

/-- add_group: the single rounding into the accumulator word. -/
def addGroup (fz : Bool) (G bP : Nat) (ps : List (FVal × FVal)) (w : W32) : W32 × FEv :=
  match groupSum G bP ps with
  | .keep => (w, {})
  | .add v iv tr =>
    let r := finish .f32 .rne fz (addX .rne (FFmt.f32.decode w.toNat) v)
    (BitVec.ofNat 32 r.1, r.2.add { iv := if iv then 1 else 0, trunc := tr })

/-! ## Whole products (R240–R243) -/

/-- Operand B: format, K, N and its elements, element (k, n) at k + K × n. -/
structure OperandB where
  fmt : Fmt
  k : Nat
  n : Nat
  v : Array EVal

/-- The groups of K: first element and length. -/
def groupsOf (gs k : Nat) : List (Nat × Nat) := (List.range ((k + gs - 1) / gs)).map fun g => (gs * g, min gs (k - gs * g))

/-- One output of a float family. -/
def dotGroups (fz : Bool) (fam : Family) (bP k : Nat) (a b : Nat → FVal) (w : W32) : W32 × FEv :=
  (groupsOf fam.group.1 k).foldl (fun (acc : W32 × FEv) g =>
    let r := addGroup fz fam.group.2 bP ((List.range g.2).map fun i => (a (g.1 + i), b (g.1 + i))) acc.1
    (r.1, acc.2.add r.2)) (w, {})

/-- Flush the operands of a float family (R185, R241), with the events. -/
def flushAll (fz : Bool) (v : Array EVal) : Array FVal × FEv :=
  v.foldl (fun acc x =>
    let r := flushIn fz .f32 x.toF
    (acc.1.push r.1, acc.2.add r.2)) (#[], {})

/-- Runs of 16 of B that hold a non-finite element (R242). -/
def flaggedRuns (k n : Nat) (b : Nat → FVal) : Nat :=
  ((List.range n).flatMap fun j => (groupsOf 16 k).filter fun g => (List.range g.2).any fun i =>
    let v := b (g.1 + i + k * j)
    v.isNan || v.isInf).length

/-- The accumulator words of a float family as they are read: flushed with FZ (R241). -/
def flushWord (fz : Bool) (w : W32) : W32 × FEv :=
  if fz && FFmt.f32.subnormal w.toNat then (w &&& 0x80000000, { flush := 1 }) else (w, {})

/-- A zero product is skipped; skipping changes no result where the run is not flagged, and a flagged run is computed whole
(R242): every product is therefore taken, and a group of zero products leaves its word. -/
def mulFloat (fz : Bool) (fam : Family) (fa : Fmt) (m : Nat) (a : Array EVal) (b : OperandB) (acc : Array W32) : Array W32 × FEv :=
  let x := flushAll fz a
  let y := flushAll fz b.v
  let get := fun (v : Array FVal) i => (v[i]?).getD (.fin false 0 0)
  let skips := (x.1.filter FVal.isZero).size
  let ev0 := (x.2.add y.2).add { skip := skips, nanblock := flaggedRuns b.k b.n (get y.1) }
  (List.range (m * b.n)).foldl (fun (out : Array W32 × FEv) o =>
    let i := o / b.n
    let n := o % b.n
    let w := flushWord fz ((acc[o]?).getD 0)
    let r := dotGroups fz fam (fa.sigWidth + b.fmt.sigWidth) b.k (fun k => get x.1 (k + b.k * i)) (fun k => get y.1 (k + b.k * n)) w.1
    (out.1.push r.1, (out.2.add w.2).add r.2)) (#[], ev0)

/-- The I8 family (R243). -/
def mulInt (m : Nat) (a : Array EVal) (b : OperandB) (acc : Array W32) : Array W32 × FEv :=
  let get := fun (v : Array EVal) i => ((v[i]?).getD (.i 0)).int
  let skips := (a.filter fun v => v.int == 0).size
  (List.range (m * b.n)).foldl (fun (out : Array W32 × FEv) o =>
    let i := o / b.n
    let n := o % b.n
    let sum := (List.range b.k).foldl (fun s k => s + get a (k + b.k * i) * get b.v (k + b.k * n)) ((acc[o]?).getD 0).toInt
    let r := clampI (-2147483648) 2147483647 sum
    (out.1.push (BitVec.ofInt 32 r.1), out.2.add r.2)) (#[], { skip := skips })

/-- A·B added to accumulator words, row by row (R240). -/
def matMul (fz : Bool) (fa : Fmt) (m : Nat) (a : Array EVal) (b : OperandB) (acc : Array W32) : Array W32 × FEv :=
  match fa.family with
  | some .i8 => mulInt m a b acc
  | some fam => mulFloat fz fam fa m a b acc
  | none => (acc, {})

/-! ## MMAS (R244) -/

/-- Zero of a format's kind. -/
def Fmt.zero (f : Fmt) : EVal := if f.isFloat then .f (.fin false 0 0) else .i 0

/-- Expand the kept values of K × N by the positions: none where a position byte is ill-formed. -/
def expand24 (f : Fmt) (k n : Nat) (v : Array EVal) (q : Array Nat) : Option (Array EVal) :=
  if q.any fun x => decide (16 ≤ x) || decide (x / 4 ≤ x % 4) then none
  else
    some ((List.range (k * n)).map fun e =>
      let c := e / k
      let h := e % k / 4
      let at_ := e % 4
      let x := (q[h + k / 4 * c]?).getD 0
      let base := 2 * h + k / 2 * c
      if at_ = x % 4 then (v[base]?).getD f.zero
      else if at_ = x / 4 then (v[base + 1]?).getD f.zero
      else f.zero).toArray

/-! ## Words and elements (R247) -/

/-- An element becomes a word: floats widened to f32, integers to i32 (MLDA). -/
def loadWord (f : Fmt) (v : EVal) : W32 × FEv :=
  if f.isFloat then
    let a := widenF32 v.toF
    let r := finish .f32 .rne false a.1.toX
    (BitVec.ofNat 32 r.1, a.2.add r.2)
  else
    let r := clampI (-2147483648) 2147483647 v.int
    (BitVec.ofInt 32 r.1, r.2)

/-- A word as the value of an element (MSTA): f32 for a float destination, i32 for an integer one. -/
def storeVal (f : Fmt) (w : W32) : EVal := if f.isFloat then .f (FFmt.f32.decode w.toNat) else .i w.toInt

end Sys2Proof.Machine
end

