-- ==== Sys2Proof/Machine/Matrix.lean ====
section
/-! DEFINITION. The matrix engine (R233–R254): issue, the commands, MDRAIN and its rows, and the instructions on bands. -/

namespace Sys2Proof.Machine

def opMma : Nat := 0x42
def opMmas : Nat := 0x43
def opMzero : Nat := 0x44
def opMlda : Nat := 0x45
def opMsta : Nat := 0x46
def opMdrain : Nat := 0x47

/-! ## Issue (R237, R238) -/

/-- A command enters the matrix queue; the band that it names is owned (R235). -/
def State.enterMatrix (s : State) (core : Nat) (cmd : Cmd) : State :=
  let c := s.core core
  let named := c.mat.bands.any fun b => b.named cmd.handle
  let c1 := c.onBand cmd.handle fun b => { b with pending := b.pending + 1, last := some (cmd.counter.getD 16), seen := [] }
  s.setCore core { c1 with eng := { c1.eng with mq := c1.eng.mq ++ [{ cmd with counted := named }], mseq := c1.eng.mseq + 1 } }

/-- The record is read; the command enters when the queue has room and the context's stores are performed. -/
def matIssue (i : Instr) (o : CROps) (s : State) : Result :=
  runInstr i s fun v s =>
    ((s.readRecord v.a 8 16).bind fun r s =>
      if 8 ≤ s.myCore.eng.mq.length then .wait s
      else
        afterStores s fun s =>
          .ok () (s.enterMatrix s.curCore (s.newCmd i.opcode s.myCore.eng.mseq r v.a 0 (some (lowCc o.d))))).orElseWait s

/-- MMA (R240). -/
def execMma (o : CROps) (s : State) : Result := matIssue (.mma o) o s

/-- MMAS (R244). -/
def execMmas (o : CROps) (s : State) : Result := matIssue (.mmas o) o s

/-- MZERO (R247): no record. -/
def execMzero (o : CROps) (s : State) : Result :=
  runInstr (.mzero o) s fun v s =>
    if 8 ≤ s.myCore.eng.mq.length then .wait s
    else
      afterStores s fun s =>
        .ok () (s.enterMatrix s.curCore (s.newCmd opMzero s.myCore.eng.mseq [] 0 v.a (some (lowCc o.d))))

/-- MLDA (R247). -/
def execMlda (o : CROps) (s : State) : Result := matIssue (.mlda o) o s

/-- MSTA (R247). -/
def execMsta (o : CROps) (s : State) : Result := matIssue (.msta o) o s

/-- MDRAIN (R248). -/
def execMdrain (o : CROps) (s : State) : Result := matIssue (.mdrain o) o s

/-! ## Accumulator memory -/

/-- Row `r` from column 0: `n` words. -/
def State.accRow (s : State) (core row n : Nat) : List W32 :=
  let bs := s.bytesAt (accKey core row 0) (4 * n)
  (List.range n).map fun i => BitVec.ofNat 32 (field bs (4 * i) 4)

/-- Words of a row are poisoned. -/
def State.accPoison (s : State) (core row n : Nat) : Bool := s.poisonedAt (accKey core row 0) (4 * n)

/-- The row that an open reception adds to, and its number of outputs (R261, R267). -/
def Core.receptionRow (c : Core) : Option (Nat × Nat) :=
  if c.judge.state = 1 ∨ c.judge.state = 2 then
    some (handleFirst c.judge.band + field c.judge.record 42 2, field c.judge.record 15 1)
  else none

/-- The words of a band's row that are about to be lost, kept with those that it has held since the band's allocation (R253). -/
def State.keepPast (s : State) (core row : Nat) : State :=
  let c := s.core core
  if c.mat.bands.any fun b => decide (b.first ≤ row) && decide (row < b.first + b.size) then
    let old := tabGetD c.mat.past row []
    let new := (s.accRow core row 128).foldl (fun l w => if l.contains w then l else l ++ [w]) old
    s.setCore core { c with mat := { c.mat with past := tabSet c.mat.past row new } }
  else s

/-- A matrix command writes words of a row; on the row of an open reception, its outputs become undefined (R267). -/
def State.putRow (s : State) (core row : Nat) (ws : List W32) : State :=
  let s1 := (s.keepPast core row).writeAt (accKey core row 0) (ws.flatMap fun w => natBytes w.toNat 4)
  match (s.core core).receptionRow with
  | some (r, n) => if r = row then s1.scramble (accKey core row 0) (4 * n) else s1
  | none => s1

/-- Write rows from `row` upward. -/
def State.putRows (s : State) (core row : Nat) : List (List W32) → State
  | [] => s
  | ws :: t => State.putRows (s.putRow core row ws) core (row + 1) t

/-- Every word of a band becomes +0. -/
def State.zeroBand (s : State) (core : Nat) (b : Band) : State :=
  s.putRows core b.first (List.replicate b.size (List.replicate 128 0))

/-- The band that a handle names. -/
def Core.band? (c : Core) (h : BitVec 16) : Option Band := c.mat.bands.find? fun b => b.named h

/-- The rows of a band are undefined, and the band is invalid (R246). -/
def State.spoilBand (s : State) (core : Nat) (h : BitVec 16) : State :=
  match (s.core core).band? h with
  | some b =>
    let s1 := (List.range b.size).foldl (fun s i => s.keepPast core (b.first + i)) s
    (s1.setCore core ((s1.core core).onBand h fun b => { b with invalid := true })).scramble (accKey core b.first 0) (512 * b.size)
  | none => s

/-! ## Records and shapes (R236) -/

/-- The record's own rules. -/
def mRecordOk (op : Nat) (r : List Byte) : Bool :=
  let rows := field r 28 2
  let moves := op == opMlda || op == opMsta || op == opMdrain
  polOk (field r 48 1) && scopeOk (field r 49 1) && fieldZero r 50 2 && fieldZero r 60 4
    && (if moves then decide (1 ≤ rows) && decide (rows ≤ 128) else rows == 0)
    && (if op = opMma ∨ op = opMmas ∨ op = opMdrain then decide (field r 30 1 ≤ 1) else field r 30 1 == 0)
    && (if op = opMdrain then
          decide (field r 31 1 ≤ 3) && field r 32 8 % 8 == 0 && field r 56 4 % 512 == 0 && decide (field r 56 4 + 2048 ≤ 524288)
        else fieldZero r 31 17 && fieldZero r 56 4)
    && (op == opMma || op == opMmas || op == opMlda || fieldZero r 0 8)
    && (op == opMma || op == opMmas || fieldZero r 8 8)
    && (op == opMmas || op == opMsta || op == opMdrain || fieldZero r 16 8)

def mFrow (r : List Byte) : Nat := field r 26 2

def mRows (r : List Byte) : Nat := field r 28 2

/-- The shapes of a command: A or the source, B or V, positions or the destination. -/
structure MShapes where
  a : Option Shape
  b : Option Shape
  m : Option Shape

def usesA (op : Nat) : Bool := op == opMma || op == opMmas || op == opMlda

def usesB (op : Nat) (leg : Bool) : Bool := (op == opMma || op == opMmas) && !leg

def usesM (op : Nat) (leg : Bool) : Bool := (op == opMmas && !leg) || op == opMsta || op == opMdrain

def State.mShape (s : State) (w : Who) (p : Word) (use : Bool) (maxN : Nat) (sc : Scope) : Eng? (Option Shape × State) :=
  if !use then .ok (none, s)
  else
    match s.readShape w p maxN sc with
    | .error e => .error e
    | .ok (h, s1) => if h.port.isSome then .error (EngErr.of 1 p) else .ok (some h, s1)

/-- The element limit of A and B (R236). -/
def mLimit (op : Nat) : Nat := if op = opMma ∨ op = opMmas then 65536 else 4096

def State.readMShapes (s : State) (w : Who) (cmd : Cmd) : Eng? (MShapes × State) :=
  let leg := cmd.leg.isSome
  match s.mShape w (ptrField cmd.record 0) (usesA cmd.op) (mLimit cmd.op) cmd.scope with
  | .error e => .error e
  | .ok (a, s1) =>
    match s1.mShape w (ptrField cmd.record 8) (usesB cmd.op leg) (mLimit cmd.op) cmd.scope with
    | .error e => .error e
    | .ok (b, s2) =>
      match s2.mShape w (ptrField cmd.record 16) (usesM cmd.op leg) 4096 cmd.scope with
      | .error e => .error e
      | .ok (m, s3) => .ok (⟨a, b, m⟩, s3)

def flatShape (h : Shape) : Bool := decide (h.rank ≤ 2) && decide (h.dim 1 ≤ 128)

/-- The format, K and N of operand B: of the shapes, or of a leg's header (R279). -/
def bGeometry (cmd : Cmd) (v : MShapes) : Option (Fmt × Nat × Nat) :=
  if cmd.leg.isSome then
    (match cmd.got with
    | [f, k, n] => (Fmt.ofCode f).map fun f => (f, k, n)
    | _ => none)
  else
    match v.b with
    | some b => some (b.fmt, if cmd.op = opMmas then 2 * b.dim 0 else b.dim 0, b.dim 1)
    | none => none

/-- The relations between a command's shapes and its band (R236, R240, R244, R247). -/
def mShapesOk (cmd : Cmd) (b : Band) (v : MShapes) : Bool :=
  let frow := mFrow cmd.record
  if cmd.op = opMma ∨ cmd.op = opMmas then
    match v.a, bGeometry cmd v with
    | some a, some (f, k, n) =>
      flatShape a && decide (frow + a.dim 1 ≤ b.size) && a.fmt.family.isSome && a.fmt.family == f.family && a.dim 0 == k
        && decide (n ≤ 128) && (match v.b with | some x => flatShape x | none => true)
        && (cmd.op == opMma || (k % 4 == 0 && (match v.m with
          | some q => decide (q.rank ≤ 2) && q.fmt == .n8 && q.dim 0 * 4 == k && q.dim 1 == n
          | none => cmd.leg.isSome)))
    | _, _ => false
  else if cmd.op = opMzero then true
  else
    match if cmd.op = opMlda then v.a else v.m with
    | some h => decide (h.rank ≤ 2) && decide (h.dim 0 ≤ 128) && h.dim 1 == mRows cmd.record && decide (frow + mRows cmd.record ≤ b.size)
    | none => false

def errBand (cmd : Cmd) : EngErr := ⟨14, 0, 0, cmd.handle.toNat⟩

/-- A command's record, band and shapes, checked in this order (R236, R246). -/
def State.mCheck (s : State) (core : Nat) (cmd : Cmd) : Eng? (Band × MShapes × State) :=
  if cmd.op ≠ opMzero ∧ cmd.leg.isNone ∧ mRecordOk cmd.op cmd.record = false then .error errIll
  else
    match if cmd.counted then (s.core core).band? cmd.handle else none with
    | none => .error (errBand cmd)
    | some b =>
      if b.invalid ∧ cmd.op ≠ opMzero ∧ cmd.op ≠ opMlda then .error (errBand cmd)
      else
        match s.readMShapes (cmd.who core) cmd with
        | .error e => .error e
        | .ok (v, s1) =>
          if !mShapesOk cmd b v then .error errIll
          else if b.invalid ∧ cmd.op = opMlda ∧ ¬(mFrow cmd.record = 0 ∧ mRows cmd.record = b.size) then .error (errBand cmd)
          else .ok (b, v, s1)

/-! ## Completion and failure -/

/-- The band's scope is widened, its count falls, and the command completes (R235, R239). -/
def State.mDone (s : State) (core : Nat) (cmd : Cmd) : State :=
  let c := (s.core core).onBand cmd.handle fun b => { b with bps := b.bps.max cmd.scope }
  (s.setCore core (c.leaveBand cmd)).finishCmd core .matrix cmd

/-- The command fails (R246): an ill-formed command leaves its band invalid, and a destination in memory is undefined. -/
def State.mFail (s : State) (core : Nat) (cmd : Cmd) (e : EngErr) : State :=
  s.failCmd core .matrix cmd e fun s =>
    let s1 := if e.reason = 1 ∧ cmd.counted then s.spoilBand core cmd.handle else s
    if (cmd.op = opMsta ∨ cmd.op = opMdrain) ∧ e.reason ≠ 3 ∧ e.reason ≠ 14 then
      (match s1.readShape (cmd.who core) (ptrField cmd.record 16) 4096 cmd.scope with
      | .ok (h, _) => s1.spoilShape (cmd.who core) h cmd.scope
      | .error _ => s1)
    else s1

/-- RESULT is checked before any effect; legs and MZERO have none. -/
def State.mCheckResult (s : State) (core : Nat) (cmd : Cmd) : Eng? State :=
  if cmd.leg.isSome ∨ cmd.op = opMzero then .ok s else s.checkResult core cmd 52

/-- RESULT is written. -/
def State.mResult (s : State) (core : Nat) (cmd : Cmd) (n : Nat) : Eng? State :=
  if cmd.leg.isSome ∨ cmd.op = opMzero then .ok s else s.writeResult core cmd 52 n

/-! ## MMA and MMAS -/

def bytesArr (bs : List Byte) (o n : Nat) : Array Nat := (((bs.drop o).take n).map (·.toNat)).toArray

/-- The elements of operand B of a leg's payload (R279). -/
def legOperand (cmd : Cmd) (f : Fmt) (k n : Nat) : Option OperandB :=
  if cmd.op = opMma then some ⟨f, k, n, (f.decodeUnits cmd.payload (k * n)).toArray⟩
  else
    let vq := (f.bytesOf (k / 2 * n) + 15) / 16 * 16
    (expand24 f k n (f.decodeUnits cmd.payload (k / 2 * n)).toArray (bytesArr cmd.payload vq (k / 4 * n))).map fun v => ⟨f, k, n, v⟩

/-- Operand B of a command: from its payload, or from its shapes. -/
def State.mOperandB (s : State) (w : Who) (cmd : Cmd) (v : MShapes) : Eng? (OperandB × State) :=
  match bGeometry cmd v with
  | none => .error errIll
  | some (f, k, n) =>
    if cmd.leg.isSome then
      (match legOperand cmd f k n with
      | some b => .ok (b, s)
      | none => .error errIll)
    else
      match v.b with
      | none => .error errIll
      | some hb =>
        match s.readElems w hb cmd.scope with
        | .error e => .error e
        | .ok (l, s1) =>
          let vals := (l.map (Elem.val f)).toArray
          match v.m with
          | none => .ok (⟨f, k, n, vals⟩, s1)
          | some hq =>
            match s1.readElems w hq cmd.scope with
            | .error e => .error e
            | .ok (q, s2) =>
              match expand24 f k n vals (q.map (Elem.raw .n8)).toArray with
              | none => .error errIll
              | some x => .ok (⟨f, k, n, x⟩, s2)

/-- ACC clear or FLAGS.ZERO: the target rows start from +0 (R240, R279); ZBAND zeroes the band first. -/
def mFromZero (cmd : Cmd) : Bool := field cmd.record 30 1 % 2 == 1 || mZband cmd
where
  mZband (cmd : Cmd) : Bool := cmd.leg.isSome && cmd.arg.getLsbD 0

/-- Cut a list into rows of `n`. -/
def rowsOf (n : Nat) (l : List W32) (m : Nat) : List (List W32) := (List.range m).map fun i => (l.drop (n * i)).take n

/-- The product is added into the band (R240, R244). -/
def State.runMma (s : State) (core : Nat) (cmd : Cmd) (b : Band) (v : MShapes) : Eng? State :=
  let w := cmd.who core
  match v.a with
  | none => .error errIll
  | some ha =>
    match s.readElems w ha cmd.scope with
    | .error e => .error e
    | .ok (la, s1) =>
      match s1.mOperandB w cmd v with
      | .error e => .error e
      | .ok (ob, s2) =>
        let m := ha.dim 1
        let first := b.first + mFrow cmd.record
        let zero := mFromZero cmd
        if !zero && (List.range m).any (fun i => s2.accPoison core (first + i) ob.n) then .error (errPoison 0)
        else
          let acc := if zero then List.replicate (m * ob.n) 0 else (List.range m).flatMap fun i => s2.accRow core (first + i) ob.n
          match s2.mCheckResult core cmd with
          | .error e => .error e
          | .ok s3 =>
            let r := matMul cmd.fz ha.fmt m (la.map (Elem.val ha.fmt)).toArray ob acc.toArray
            let s4 := if mFromZero.mZband cmd then s3.zeroBand core b else s3
            ((s4.putRows core first (rowsOf ob.n r.1.toList m)).countEv core r.2).mResult core cmd m

/-- The shadow copy of the target rows (R245). -/
def State.shadowRows (s : State) (core first m : Nat) : State :=
  let c := s.core core
  s.setCore core { c with mat := { c.mat with shadow := (List.range m).map fun i => s.accRow core (first + i) 128 } }

/-! ## MLDA and MSTA -/

/-- Rows are loaded from a shape. -/
def State.runMlda (s : State) (core : Nat) (cmd : Cmd) (b : Band) (h : Shape) : Eng? State :=
  let w := cmd.who core
  match s.shapePages w h .read cmd.scope with
  | .error e => .error e
  | .ok s1 =>
    match s1.readElems w h cmd.scope with
    | .error e => .error e
    | .ok (l, s2) =>
      match s2.mCheckResult core cmd with
      | .error e => .error e
      | .ok s3 =>
        let ws := l.map fun e => loadWord h.fmt (e.val h.fmt)
        let ev := ws.foldl (fun a x => a.add x.2) FEv.none
        let rows := mRows cmd.record
        let s4 := s3.putRows core (b.first + mFrow cmd.record) (rowsOf (h.dim 0) (ws.map (·.1)) rows)
        ((s4.setCore core ((s4.core core).onBand cmd.handle fun x => { x with invalid := false })).countEv core ev).mResult core cmd rows

/-- The writes of row `r` of a destination shape: element (c, r) from word c. -/
def rowWrites (h : Shape) (r : Nat) (ws : List W32) : List (Nat × WElem) :=
  (List.range (h.dim 0)).map fun c => (c + h.dim 0 * r, .val (storeVal h.fmt ((ws[c]?).getD 0)))

/-- Rows are stored to a shape. -/
def State.runMsta (s : State) (core : Nat) (cmd : Cmd) (b : Band) (h : Shape) : Eng? State :=
  let w := cmd.who core
  let rows := mRows cmd.record
  let first := b.first + mFrow cmd.record
  match s.shapePages w h .write cmd.scope with
  | .error e => .error e
  | .ok s1 =>
    if (List.range rows).any (fun r => s1.accPoison core (first + r) (h.dim 0)) then .error (errPoison 0)
    else
      match s1.mCheckResult core cmd with
      | .error e => .error e
      | .ok s2 =>
        let ws := (List.range rows).flatMap fun r => rowWrites h r (s2.accRow core (first + r) (h.dim 0))
        match s2.writeElems w h ws cmd.scope with
        | .error e => .error e
        | .ok (ev, s3) => (s3.countEv core ev).mResult core cmd rows

/-! ## MDRAIN (R248, R249) -/

/-- A row-buffer token (R248). -/
def rowToken (seq j : Nat) : Word := BitVec.ofNat 64 (j + seq % 65536 * 2 ^ 16)

/-- MDRAIN starts: its destination is translated, and it waits for row buffers. -/
def State.startDrain (s : State) (core : Nat) (cmd : Cmd) (h : Shape) : Eng? State :=
  match s.shapePages (cmd.who core) h .write cmd.scope with
  | .error e => .error e
  | .ok s1 =>
    match s1.mCheckResult core cmd with
    | .error e => .error e
    | .ok s2 =>
      match s2.shapeBytes (cmd.who core) (ptrField cmd.record 16) cmd.scope with
      | .error e => .error e
      | .ok (bs, s3) =>
        let run := { cmd with status := .running, payload := bs }
        let s4 := s3.setCmd core .matrix run
        let c := s4.core core
        let mine := (List.range 4).map (rowToken cmd.seq)
        .ok (s4.setCore core { c with mat := { c.mat with
          drains := c.mat.drains ++ [⟨run, 0, List.replicate 4 none, 0, 0, [], false⟩]
          spent := c.mat.spent.filter fun b => !mine.contains b.token } })

def drainRows (d : Drain) : Nat := mRows d.cmd.record

/-- Replace a drain. -/
def State.setDrain (s : State) (core : Nat) (d : Drain) : State :=
  let c := s.core core
  s.setCore core { c with mat := { c.mat with drains := c.mat.drains.map fun x => if x.cmd.seq = d.cmd.seq then d else x } }

def State.dropDrain (s : State) (core : Nat) (seq : Nat) : State :=
  let c := s.core core
  s.setCore core { c with mat := { c.mat with drains := c.mat.drains.filter fun x => x.cmd.seq != seq } }

/-- The destination shape that a drain keeps. -/
def Drain.shape? (d : Drain) : Option Shape := shapeOf d.cmd.payload 4096

/-- Row `r` of a destination. -/
def Shape.rowAt (h : Shape) (r : Nat) : Shape :=
  { h with dims := [h.dim 0], strides := [h.stride 0], n := h.dim 0,
           base := ((h.at? (((r : Int) * h.stride 1) / h.fmt.perUnit * h.fmt.unitBytes)).getD h.base) }

/-- The bytes of row `r` of the destination are undefined. -/
def State.spoilRow (s : State) (core : Nat) (d : Drain) (h : Shape) (r : Nat) : State :=
  s.spoilShape (d.cmd.who core) (h.rowAt r) d.cmd.scope

/-- The engine frees a buffer that it has written (R249). -/
def Core.spend (c : Core) (b : SpentBuf) : Core := { c with mat := { c.mat with spent := b :: c.mat.spent } }

/-- The drain's last row is done: RESULT is written and the counter counts; with a lost row, the counter counts an error and no
RESULT is written. -/
def State.endDrain (s : State) (core : Nat) (d : Drain) : State :=
  let cmd := d.cmd
  let s1 := s.dropDrain core cmd.seq
  let c := (s1.core core).onBand cmd.handle fun b => { b with bps := b.bps.max cmd.scope }
  let s2 := s1.setCore core c
  if d.failed then
    match cmd.counter with
    | some n => s2.bumpCc core n true cmd.scope
    | none => s2
  else
    match s2.writeResult core cmd 52 (drainRows d) with
    | .ok s3 => s3.finishCmd core .matrix cmd
    | .error e => drainFail s2 core d { e with progress := (match d.shape? with | some h => h.dim 0 | none => 0) * d.written }
where
  /-- A row's write fails (R249): the drain ends with an error that cannot be restarted. -/
  drainFail (s : State) (core : Nat) (d : Drain) (e : EngErr) : State :=
    let cmd := d.cmd
    let c := ((s.dropDrain core cmd.seq).core core).leaveBand cmd
    let c1 := (c.dropCmd .matrix cmd).setHalt .matrix true
    let c2 := match cmd.counter with
      | some n => c1.setCc n ((c1.cc n).bump true cmd.scope)
      | none => c1
    (s.setCore core c2).reportError core .matrix cmd e false

/-- The drain ends with an error (R246, R249): a write that does not translate leaves its row undefined, any other error the whole
destination; PROGRESS counts the elements written (R144). -/
def State.stopDrain (s : State) (core : Nat) (d : Drain) (h : Shape) (row : Nat) (e : EngErr) : State :=
  let s1 := if e.reason = 3 then s.spoilRow core d h row else s.spoilShape (d.cmd.who core) h d.cmd.scope
  State.endDrain.drainFail s1 core d { e with progress := h.dim 0 * d.written + e.progress }

/-- A row is done: the drain goes on, or ends. -/
def State.rowDone (s : State) (core : Nat) (d : Drain) : State :=
  if d.done = drainRows d then s.endDrain core d else s.setDrain core d

/-- Where row buffer `j` of a drain stands in its core's scratchpad (R248). -/
def Drain.bufAt (d : Drain) (j : Nat) : Nat := field d.cmd.record 56 4 + 512 * j

/-- A row buffer of a drain meets the core's range scoreboard (R134). -/
def State.bufHeld (s : State) (core : Nat) (d : Drain) (j : Nat) : Bool :=
  s.scoreHit core ⟨0xF0, indexOf core * 0x80000 + d.bufAt j, 512⟩

/-- The engine writes a released buffer to its row, and frees it (R249). None: a copy of the core holds the bytes (R134). -/
def State.writeRow (s : State) (core : Nat) (d : Drain) (h : Shape) (j : Nat) (b : RowBuf) : Option State :=
  let key := spKey core (d.bufAt j)
  let d1 := { d with bufs := listSet d.bufs j none, done := d.done + 1 }
  if s.bufHeld core d j || s.rangesHeld core (s.shapeRanges (d.cmd.who core) h) then none
  else if b.touched then some (((s.scramble key 512).spoilRow core d h b.row).rowDone core d1)
  else if s.poisonedAt key (4 * h.dim 0) then
    some (s.stopDrain core d h b.row (errPoison (mkPtr 0xF0 (indexOf core * 0x80000 + d.bufAt j))))
  else
    let bs := s.bytesAt key (4 * h.dim 0)
    let ws := (List.range (h.dim 0)).map fun i => BitVec.ofNat 32 (field bs (4 * i) 4)
    match s.writeElems (d.cmd.who core) h (rowWrites h b.row ws) d.cmd.scope with
    | .ok (ev, s1) =>
      let dst := (s1.shapeRanges (d.cmd.who core) (h.rowAt b.row)).map fun q => (core, q)
      let s2 := s1.setCore core ((s1.core core).spend ⟨b.token, d.bufAt j, dst⟩)
      some ((s2.countEv core ev).rowDone core { d1 with written := d.written + 1 })
    | .error e => if e.reason = 0 then none else some (s.stopDrain core d h b.row e)

/-- The lowest free buffer. -/
def freeBuf (l : List (Option RowBuf)) : Option Nat := (findIdx (fun b => b.isNone) l).map (·.1)

/-- The handler task of a row (R248). -/
def rowTask (core : Nat) (d : Drain) (j row : Nat) : TaskMsg :=
  let r := d.cmd.record
  { pc := ptrField r 32, p0 := mkPtr 0xF0 (indexOf core * 0x80000 + d.bufAt j), p1 := BitVec.ofNat 64 row,
    p2 := ptrField r 40, p3 := rowToken d.cmd.seq j, pri := field r 31 1, group := d.cmd.group, launch := d.cmd.launch }

/-- The engine copies the next row into buffer `j` (R248, step 2); after the last row the band and the queue go on. A poisoned word is a
POISON error (R234). None: a copy of the core holds the buffer (R134). -/
def State.copyRow (s : State) (core : Nat) (d : Drain) (h : Shape) (first j : Nat) : Option State :=
  let row := first + mFrow d.cmd.record + d.next
  let key := spKey core (d.bufAt j)
  if s.bufHeld core d j then none
  else if s.accPoison core row 128 then some (s.stopDrain core d h d.next (errPoison 0))
  else
    let s2 := (s.seenRange key 512).putWindow key (s.bytesAt (accKey core row 0) 512)
    let s4 := if field d.cmd.record 30 1 = 1 then s2.putRow core row (List.replicate 128 0) else s2
    let last := d.next + 1 = drainRows d
    let c := s4.core core
    let c1 := if last then (c.leaveBand d.cmd).dropCmd .matrix d.cmd else c
    let d1 := { d with
      cmd := { d.cmd with counted := d.cmd.counted && !decide last }
      next := d.next + 1
      bufs := listSet d.bufs j (some ⟨d.next, rowToken d.cmd.seq j, false, false, false⟩) }
    some ((s4.setCore core c1).setDrain core d1).wakeWatches

/-- The task of a copied row enters the run queue (R248, step 3). None: the run queue is full. -/
def State.handRow (s : State) (core : Nat) (d : Drain) (j : Nat) (b : RowBuf) : Option State :=
  (s.enqueueRow core (rowTask core d j b.row) none (some b.token)).map fun s1 =>
    s1.setDrain core { d with bufs := listSet d.bufs j (some { b with queued := true }) }

/-- A buffer of a drain that satisfies a test. -/
def Drain.buf? (d : Drain) (p : RowBuf → Bool) : Option (Nat × RowBuf) :=
  match findIdx (fun (b : Option RowBuf) => b.any p) d.bufs with
  | some (j, some b) => some (j, b)
  | _ => none

/-- The next piece of a drain's work: lost rows, released buffers, the task of the row copied last, the next row. -/
def State.drainWork (s : State) (core : Nat) (d : Drain) : Option State :=
  let resultHeld := d.done + 1 = drainRows d && (match s.checkResult core d.cmd 52 with | .error e => e.reason == 0 | .ok _ => false)
  match if resultHeld then none else d.shape? with
  | none => none
  | some h =>
    match d.lost with
    | r :: t => some ((s.spoilRow core d h r).rowDone core { d with lost := t, done := d.done + 1 })
    | [] =>
      match (d.buf? (·.released)).bind fun q => s.writeRow core d h q.1 q.2 with
      | some s1 => some s1
      | none =>
        match d.buf? fun b => !b.queued with
        | some q => s.handRow core d q.1 q.2
        | none =>
          if d.next < drainRows d then
            match freeBuf d.bufs, (s.core core).band? d.cmd.handle with
            | some j, some b => s.copyRow core d h b.first j
            | _, _ => none
          else none

/-- MDRAIN_ROW (R248, R249): the engine moves one row on. -/
def execMdrainRow (core : Nat) (s : State) : Result :=
  happens "MDRAIN_ROW" <|
    if (s.part (s.partOf core)).paused then none else (s.core core).mat.drains.findSome? fun d => s.drainWork core d

/-- RDONE (R249). -/
def execRdone (o : CROps) (s : State) : Result :=
  runInstr (.rdone o) s fun v s =>
    let held := fun (b : Option RowBuf) => match b with | some x => x.token == v.a && !x.released | none => false
    if (s.myCore.mat.drains.any fun d => d.bufs.any held) = false then .trap (Trap.illegal 6) none
    else
      afterStores s fun s =>
        let c := s.myCore
        let give := fun (b : Option RowBuf) => if held b then b.map fun x => { x with released := true } else b
        .ok () (s.setMyCore { c with mat := { c.mat with drains := c.mat.drains.map fun d => { d with bufs := d.bufs.map give } } })

/-! ## MATRIX_COMMAND -/

/-- The ranges that the shapes of a command cover. -/
def State.mRanges (s : State) (w : Who) (v : MShapes) : List Range :=
  (v.a.toList ++ v.b.toList ++ v.m.toList).flatMap (s.shapeRanges w)

/-- The work of a checked command: done, or an MDRAIN that runs on. -/
def State.runMatrix (s : State) (core : Nat) (cmd : Cmd) (b : Band) (v : MShapes) : Eng? State :=
  if cmd.op = opMzero then
    .ok ((s.zeroBand core b).setCore core (((s.zeroBand core b).core core).onBand cmd.handle fun x => { x with invalid := false }))
  else if cmd.op = opMlda then (match v.a with | some h => s.runMlda core cmd b h | none => .error errIll)
  else if cmd.op = opMsta then (match v.m with | some h => s.runMsta core cmd b h | none => .error errIll)
  else if cmd.op = opMdrain then (match v.m with | some h => s.startDrain core cmd h | none => .error errIll)
  else s.runMma core cmd b v

/-- Start the command at the head. None: an operand meets the range scoreboard (R134, R238). -/
def State.mStart (s : State) (core : Nat) (cmd : Cmd) : Option State :=
  let w := cmd.who core
  let rec48 := fun (o : Nat) (use : Bool) => if use then s.normRange w (ptrField cmd.record o) 48 else []
  let leg := cmd.leg.isSome
  if s.rangesHeld core (rec48 0 (usesA cmd.op) ++ rec48 8 (usesB cmd.op leg) ++ rec48 16 (usesM cmd.op leg)) then none
  else
    match s.mCheck core cmd with
    | .error e => if e.reason = 0 then none else some (s.mFail core cmd e)
    | .ok (b, v, s1) =>
      if s1.rangesHeld core (s1.mRanges w v) then none
      else
        let s1 := s1.misuseCmd core cmd ((s1.mRanges w v).map fun q => (core, q))
        let s2 := match v.a with
          | some h => if cmd.op = opMma ∨ cmd.op = opMmas then s1.shadowRows core (b.first + mFrow cmd.record) (h.dim 1) else s1
          | none => s1
        match s2.runMatrix core cmd b v with
        | .error e => if e.reason = 0 then none else some (s2.mFail core cmd e)
        | .ok s3 => some (if cmd.op = opMdrain then s3 else s3.mDone core cmd)

/-- The command at the head of the matrix queue starts, where it may. -/
def State.matrixHead (s : State) (core : Nat) : Option State :=
  let c := s.core core
  match c.eng.mq.head? with
  | none => none
  | some cmd =>
    if c.eng.mhalt || cmd.status != .queued || (s.part (s.partOf core)).paused then none else s.mStart core cmd

/-- MATRIX_COMMAND (R238–R247): the command at the head of the matrix queue runs to its completion or its halt; an MDRAIN starts. -/
def execMatrixCommand (core : Nat) (s : State) : Result :=
  happens "MATRIX_COMMAND" (s.matrixHead core)

/-! ## Bands (R250–R254) -/

/-- Rows that bands hold. -/
def Matrix.rowUsed (m : Matrix) (r : Nat) : Bool := m.bands.any fun b => decide (b.first ≤ r) && decide (r < b.first + b.size)

/-- The free run of rows that starts at `r`, up to `fuel` rows. -/
def Matrix.freeRun (m : Matrix) : Nat → Nat → Nat
  | 0, _ => 0
  | fuel + 1, r => if m.rowUsed r then 0 else Matrix.freeRun m fuel (r + 1) + 1

/-- The lowest row from which `n` rows are free (R250). -/
def Matrix.fit (m : Matrix) (n : Nat) : Option Nat := (List.range 512).find? fun f => decide (f + n ≤ 512) && decide (n ≤ m.freeRun (512 - f) f)

/-- LFREE (R254). -/
def Matrix.longestFree (m : Matrix) : Nat := (List.range 512).foldl (fun a r => max a (m.freeRun (512 - r) r)) 0

/-- Undefined words, each drawn from this core's accumulator memory (R250). -/
def State.drawWords (s : State) (core first : Nat) (n : Nat) : State :=
  let ws := (List.range n).flatMap fun i =>
    let k := (Config.freeWord (s.free + i)).toNat % 65536
    natBytes (s.natAt (accKey core (k / 128) (k % 128)) 4) 4
  { s with mem := memWrite s.mem (accKey core first 0) ws, free := s.free + n }

/-- MALLOC (R250). -/
def execMalloc (o : CROps) (s : State) : Result :=
  runInstr (.malloc o) s fun v s =>
    let n := v.a.toNat
    if n < 1 ∨ 512 < n then .trap (Trap.illegal 6) none
    else
      let c := s.myCore
      match if 32 ≤ c.mat.bands.length then none else c.mat.fit n with
      | none => .ok () ((s.setReg o.d.toNat 0).setPred (lowPred o.b) false)
      | some f =>
        let b : Band := ⟨f, n, c.mat.serial, 0, false, .core, none, []⟩
        let next := if c.mat.serial = 127 then 1 else c.mat.serial + 1
        let s1 := s.setMyCore { c with mat := { c.mat with
          bands := c.mat.bands ++ [b], serial := next, past := c.mat.past.filter fun q => decide (q.1 < f) || decide (f + n ≤ q.1) } }
        .ok () (((s1.drawWords s.curCore f (128 * n)).setReg o.d.toNat (BitVec.ofNat 64 (c.mat.serial * 512 + f))).setPred
          (lowPred o.b) true)

/-- The band that a register's value names: bits above 15 name none (R235). -/
def Core.bandOf (c : Core) (v : Word) : Option Band := if v.toNat < 65536 then c.band? (v.extractLsb' 0 16) else none

/-- MFREE (R251). -/
def execMfree (o : CROps) (s : State) : Result :=
  runInstr (.mfree o) s fun v s =>
    let c := s.myCore
    match c.bandOf v.a with
    | none => .trap (Trap.illegal 6) none
    | some b =>
      if b.pending ≠ 0 then .wait s
      else .ok () (s.setMyCore { c with mat := { c.mat with bands := c.mat.bands.filter fun x => x.first != b.first } })

/-- MJOIN (R252): the acquire is at BPS. -/
def execMjoin (o : CROps) (s : State) : Result :=
  runInstr (.mjoin o) s fun v s =>
    match s.myCore.bandOf v.a with
    | none => .ok () s.endWait
    | some b =>
      if b.pending ≠ 0 then .wait (s.waitFor (.band (v.a.extractLsb' 0 16)))
      else
        let s1 := s.dropL1 (clusterOf s.curCore) b.bps
        let h := v.a.extractLsb' 0 16
        .ok () ((s1.setMyCore (s1.myCore.onBand h fun x => { x with bps := .core, seen := s.curCtx :: x.seen })).endWait)

/-- MJOIN_COMPLETE (R252): no command that names the band is queued or running. -/
def execMjoinComplete (core k : Nat) (s : State) : Result :=
  s.endWaitOf "MJOIN_COMPLETE" core k (fun w => match w with
    | .band h =>
      (match (s.core core).band? h with
      | some b => b.pending == 0
      | none => true)
    | _ => false) none

/-- The word that MRDROW reads is defined (R253): the band is idle, and the context has joined it, or observed the counter of its last command,
since that command was issued; a band that no command has named needs the MJOIN too. -/
def Band.readable (b : Band) (k : Nat) : Bool := b.pending == 0 && !b.invalid && b.seen.contains k

/-- A word of the accumulator memory, or poison. -/
def State.accWord (s : State) (core row col : Nat) : Option Word :=
  let key := accKey core row col
  if s.poisonedAt key 4 then none else some (BitVec.ofNat 64 (s.natAt key 4))

/-- A draw from the words that a band's rows hold and have held since its allocation (R253). -/
def State.drawn (s : State) (b : Band) (f : Nat) : Option Word :=
  let past := (s.myCore.mat.past.filter fun q => decide (b.first ≤ q.1) && decide (q.1 < b.first + b.size)).flatMap (·.2)
  let k := f % (128 * b.size + past.length)
  if k < 128 * b.size then s.accWord s.curCore (b.first + k / 128) (k % 128) else (past[k - 128 * b.size]?).map (·.setWidth 64)

/-- MRDROW (R253): the word, or a free draw. -/
def execMrdrow (o : CROps) (s : State) : Result :=
  runInstr (.mrdrow o) s fun v s =>
    match s.myCore.bandOf v.a with
    | none => .trap (Trap.illegal 6) none
    | some b =>
      let row := (v.b.extractLsb' 7 9).toNat
      let col := (v.b.extractLsb' 0 7).toNat
      if v.b.extractLsb' 16 48 ≠ 0 ∨ b.size ≤ row then .trap (Trap.illegal 6) none
      else
        if b.readable s.curCtx then s.owe o.d.toNat (s.accWord s.curCore (b.first + row) col) none
        else
          let (f, s1) := s.fresh
          s1.owe o.d.toNat (s.drawn b f.toNat) none

/-- The state code of a band (R235). -/
def Band.code (b : Band) : Nat := if b.invalid then 3 else if b.pending = 0 then 1 else 2

/-- MSTAT (R254). -/
def execMstat (o : CROps) (s : State) : Result :=
  runInstr (.mstat o) s fun v s =>
    let m := s.myCore.mat
    let w := match s.myCore.bandOf v.a with
      | some b => b.pending % 16 * 2 ^ 40 + b.size * 2 ^ 16 + b.first * 2 ^ 7 + b.code
      | none => 0
    .ok () (s.setReg o.d.toNat (BitVec.ofNat 64 (m.longestFree * 2 ^ 48 + w)))

end Sys2Proof.Machine
end

