-- ==== Sys2Proof/Machine/VectorOps.lean ====
section
/-! DEFINITION. What the sixteen vector commands compute (R211, R218–R232): from elements to elements, without memory. -/

namespace Sys2Proof.Machine

def opVchain : Nat := 0x50
def opVred : Nat := 0x51
def opVscan : Nat := 0x52
def opVsort : Nat := 0x53
def opVtopk : Nat := 0x54
def opVsrch : Nat := 0x55
def opVpack24 : Nat := 0x56
def opVconv : Nat := 0x57
def opVrand : Nat := 0x58
def opVgath : Nat := 0x59
def opVscat : Nat := 0x5A
def opVcmp : Nat := 0x5B
def opVsel : Nat := 0x5C
def opVjoin : Nat := 0x5D
def opVfill : Nat := 0x5E
def opVhist : Nat := 0x5F

/-! ## Inputs and outputs -/

/-- The operands of a command: formats and elements of X, Y, M (AUX as a source) and of Z where Z is read. -/
structure VIn where
  fn : Nat
  p0 : Word
  p1 : Word
  fz : Bool
  xf : Fmt
  yf : Fmt
  zf : Fmt
  mf : Fmt
  x : Array Elem
  y : Array Elem
  z : Array Elem
  m : Array Elem
  nz : Nat
  zid : Array Nat
  chain : List Byte
  free : Nat

/-- What a command makes: the elements written to Z and to AUX, in order, RESULT, the events, and free values used. -/
structure VOut where
  z : List (Nat × WElem)
  aux : List (Nat × WElem)
  result : Nat
  ev : FEv
  used : Nat := 0

/-- Element `k` of Z by the first number of its place: two elements at one offset are the same element (R209). -/
def VIn.same (i : VIn) (k : Nat) : Nat := (i.zid[k]?).getD k

def VIn.xs (i : VIn) : List EVal := i.x.toList.map (Elem.val i.xf)
def VIn.ys (i : VIn) : List EVal := i.y.toList.map (Elem.val i.yf)

/-- Values as f32 operands with their events (R211). -/
def operandsF (fz : Bool) (l : List EVal) : List FVal × FEv :=
  let r := l.map (operandF fz)
  (r.map (·.1), r.foldl (fun e x => e.add x.2) {})

/-- Number a list of written values from 0. -/
def numbered (l : List WElem) : List (Nat × WElem) := (List.range l.length).zip l

def floats (l : List FVal) : List (Nat × WElem) := numbered (l.map fun v => .val (.f v))

def ints (l : List Int) : List (Nat × WElem) := numbered (l.map fun v => .val (.i v))

/-! ## Arithmetic (R211) -/

def f32Of (r : Nat × FEv) : FVal × FEv := (FFmt.f32.decode r.1, r.2)

def vAdd (fz : Bool) (a b : FVal) : FVal × FEv := f32Of (finish .f32 .rne fz (addX .rne a b))

def vMul (fz : Bool) (a b : FVal) : FVal × FEv := f32Of (finish .f32 .rne fz (mulX a b))

/-- 64-bit two's complement of an integer. -/
def wrap64 (n : Int) : Int := (BitVec.ofInt 64 n).toInt

/-! ## Chains (R218–R220) -/

structure ChainStep where
  op : Nat
  src : Nat
  c : Nat
deriving DecidableEq, Repr

def chainSteps (r : List Byte) : List ChainStep :=
  (List.range (field r 0 1)).map fun k => ⟨field r (4 + 7 * k) 1, field r (5 + 7 * k) 1, field r (6 + 7 * k) 4⟩

def ChainStep.ok (t : ChainStep) (isF hasY : Bool) : Bool :=
  if 1 ≤ t.op ∧ t.op ≤ 5 then t.src == 2 || (t.src == 1 && hasY)
  else if 6 ≤ t.op ∧ t.op ≤ 7 then t.src == 0
  else decide (8 ≤ t.op) && decide (t.op ≤ 13) && t.src == 0 && isF

/-- The chain record is well formed for the class of its command (R218, R219). -/
def chainOk (r : List Byte) (isF hasY : Bool) : Bool :=
  let n := field r 0 1
  decide (1 ≤ n) && decide (n ≤ 4) && fieldZero r 1 3 && (List.range 4).all (fun k => fieldZero r (10 + 7 * k) 1)
    && fieldZero r (4 + 7 * n) (28 - 7 * n) && (chainSteps r).all fun t => t.ok isF hasY

/-- A special function on an f32 value (R203, R219). -/
def specialV (f : Special) (fz : Bool) (v : FVal) : FVal × FEv :=
  match v with
  | .nan s => (.nan false, { iv := if s then 1 else 0 })
  | _ => f32Of (specialBits f .f32 4 fz (BitVec.ofNat 64 (convF .f32 .rne v).1))

def stepF (fz : Bool) (op : Nat) (v o : FVal) : FVal × FEv :=
  match op with
  | 1 => vAdd fz v o
  | 2 => vAdd fz v o.negate
  | 3 => vMul fz v o
  | 4 => minmax false v o
  | 5 => minmax true v o
  | 6 => (v.abs, {})
  | 7 => (v.negate, {})
  | 8 => minmax true v (.fin false 0 0)
  | 9 => specialV .exp2 fz v
  | 10 => specialV .tanh fz v
  | 11 => specialV .rcp fz v
  | 12 => specialV .rsq fz v
  | _ => f32Of (finish .f32 .rne fz (sqrtX v))

def stepI (op : Nat) (v o : Int) : Int :=
  match op with
  | 1 => wrap64 (v + o)
  | 2 => wrap64 (v - o)
  | 3 => wrap64 (v * o)
  | 4 => min v o
  | 5 => max v o
  | 6 => wrap64 v.natAbs
  | _ => wrap64 (-v)

def ChainStep.operandF (t : ChainStep) (fz : Bool) (y : FVal) : FVal × FEv :=
  if t.src = 1 then (y, {}) else if t.src = 2 then flushIn fz .f32 (FFmt.f32.decode t.c) else (.fin false 0 0, {})

/-- One element through a float chain. Y's element is read, and flushed, once a step takes it. -/
def chainF (fz : Bool) (steps : List ChainStep) (x : FVal) (y : FVal) : FVal × FEv :=
  steps.foldl (fun acc t =>
    let o := t.operandF fz y
    let r := stepF fz t.op acc.1 o.1
    (r.1, (acc.2.add o.2).add r.2)) (x, {})

def chainI (steps : List ChainStep) (x y : Int) : Int :=
  steps.foldl (fun v t => stepI t.op v (if t.src = 1 then y else if t.src = 2 then signed 32 t.c else 0)) x

def vchain (i : VIn) : VOut :=
  let steps := chainSteps i.chain
  let n := i.x.size
  if i.xf.isFloat then
    let a := operandsF i.fz i.xs
    let useY := steps.any fun t => t.src == 1
    let b := if useY then operandsF i.fz i.ys else (List.replicate n (.fin false 0 0), {})
    let r := (a.1.zip b.1).map fun p => chainF i.fz steps p.1 p.2
    ⟨floats (r.map (·.1)), [], n, r.foldl (fun e x => e.add x.2) (a.2.add b.2), 0⟩
  else
    let ys := i.ys.toArray
    let r := (List.range n).map fun k => chainI steps (i.x[k]?.map (fun e => (e.val i.xf).int) |>.getD 0) ((ys[k]?.map EVal.int).getD 0)
    ⟨ints r, [], n, {}, 0⟩

/-! ## Reductions and scans (R221, R222) -/

/-- One level of the fixed tree: neighbours combine, a last one stays. -/
def treeLevel {α : Type} (f : α → α → α × FEv) : List α → List α × FEv
  | a :: b :: t =>
    let r := f a b
    let q := treeLevel f t
    (r.1 :: q.1, r.2.add q.2)
  | l => (l, {})

/-- The tree (fuel: the number of elements). -/
def treeReduce {α : Type} (f : α → α → α × FEv) : Nat → List α → FEv → Option α × FEv
  | _, [], ev => (none, ev)
  | _, [a], ev => (some a, ev)
  | 0, a :: _, ev => (some a, ev)
  | fuel + 1, l, ev =>
    let r := treeLevel f l
    treeReduce f fuel r.1 (ev.add r.2)

def combineF (fz : Bool) (fn : Nat) (a b : FVal) : FVal × FEv :=
  match fn with
  | 0 => vAdd fz a b
  | 2 => minmax false a b
  | _ => minmax true a b

def combineI (fn : Nat) (a b : Int) : Int :=
  match fn with
  | 0 => a + b
  | 2 => min a b
  | _ => max a b

def vred (i : VIn) : VOut :=
  let n := i.x.size
  if i.xf.isFloat then
    let a := operandsF i.fz i.xs
    let l := if i.fn = 3 then a.1.map FVal.abs else a.1
    let r := treeReduce (combineF i.fz i.fn) n l a.2
    ⟨floats r.1.toList, [], n, r.2, 0⟩
  else
    let l := i.xs.map EVal.int
    let l1 := if i.fn = 3 then l.map fun v => wrap64 v.natAbs else l
    let r := treeReduce (fun a b => (combineI i.fn a b, {})) n l1 {}
    ⟨ints r.1.toList, [], n, {}, 0⟩

/-- Running values of a scan, before (EXCL) or after each element. -/
def scanWith {α : Type} (f : α → α → α × FEv) (excl : Bool) : α → List α → FEv → List α × FEv
  | _, [], ev => ([], ev)
  | acc, x :: t, ev =>
    let r := f acc x
    let q := scanWith f excl r.1 t (ev.add r.2)
    ((if excl then acc else r.1) :: q.1, q.2)

def vscan (i : VIn) : VOut :=
  let n := i.x.size
  let op := i.fn % 4
  let excl := decide (128 ≤ i.fn)
  if i.xf.isFloat then
    let a := operandsF i.fz i.xs
    let id0 : FVal := match op with | 0 => .fin false 0 0 | 1 => .inf true | _ => .inf false
    let r := scanWith (combineF i.fz op) excl id0 a.1 a.2
    ⟨floats r.1, [], n, r.2, 0⟩
  else
    let range := (i.xf.int?).getD (0, 0)
    let id0 : Int := match op with | 0 => 0 | 1 => range.1 | _ => range.2
    let r := scanWith (fun a b => (wrap64 (combineI op a b), {})) excl id0 (i.xs.map EVal.int) {}
    ⟨ints r.1, [], n, {}, 0⟩

/-! ## Ordering keys (R223–R228) -/

/-- The order of keys, by value or by magnitude. -/
def keyCmp (mag : Bool) (a b : EVal) : Ordering :=
  match a, b with
  | .i x, .i y => if mag then compare x.natAbs y.natAbs else compare x y
  | a, b =>
    match a.toF, b.toF with
    | .nan _, .nan _ => .eq
    | .nan _, _ => .gt
    | _, .nan _ => .lt
    | u, v =>
      if mag then cmpFin u.abs v.abs
      else
        match cmpFin u v with
        | .eq => if u.neg? = v.neg? then .eq else if u.neg? then .lt else .gt
        | o => o

def keyLe (mag : Bool) (a b : EVal) : Bool := keyCmp mag a b != .gt

/-- Element numbers in order of their keys; equal keys keep their order (R223). -/
def sortKeys (desc mag : Bool) (ks : List EVal) : List Nat :=
  (((List.range ks.length).zip ks).mergeSort fun a b => if desc then keyLe mag b.2 a.2 else keyLe mag a.2 b.2).map (·.1)

/-- The keys rise. -/
def keysSorted : List EVal → Bool
  | a :: b :: t => keyLe false a b && keysSorted (b :: t)
  | _ => true

def rawAt (f : Fmt) (a : Array Elem) (k : Nat) : WElem := .raw ((a[k]?.map (Elem.raw f)).getD 0)

def vsort (i : VIn) : VOut :=
  let o := sortKeys (i.fn == 1) false i.xs
  ⟨numbered (o.map (rawAt i.xf i.x)), numbered (o.map (rawAt i.yf i.y)), i.x.size, {}, 0⟩

def vtopk (i : VIn) : VOut :=
  let k := i.p0.toNat
  let o := (sortKeys true (i.fn == 1) i.xs).take k
  ⟨numbered (o.map (rawAt i.xf i.x)), ints (o.map fun n => (n : Int)), k, {}, 0⟩

/-- X elements that come before a key, or that are not after it. -/
def countBefore (fn : Nat) (xs : List EVal) (k : EVal) : Nat :=
  (xs.filter fun x => if fn = 0 then keyCmp false x k == .lt else keyCmp false x k != .gt).length

def vsrch (i : VIn) : VOut :=
  let xs := i.xs
  let n := i.y.size
  if keysSorted xs then ⟨ints (i.ys.map fun k => (countBefore i.fn xs k : Int)), [], n, {}, 0⟩
  else ⟨ints ((List.range n).map fun k => (((Config.freeWord (i.free + k)).toNat % (xs.length + 1) : Nat) : Int)), [], n, {}, n⟩

/-- Merge two rising lists of numbered keys; the first list's come first among equals (fuel: the number of keys). -/
def mergeKeys : Nat → List (WElem × EVal) → List (WElem × EVal) → List WElem
  | 0, _, _ => []
  | _ + 1, [], b => b.map (·.1)
  | _ + 1, a, [] => a.map (·.1)
  | fuel + 1, x :: a, y :: b =>
    if keyLe false x.2 y.2 then x.1 :: mergeKeys fuel a (y :: b) else y.1 :: mergeKeys fuel (x :: a) b

/-- Keys with what they write to Z: their bits, or their values where Z has another format (R211, log 21). -/
def keyed (f zf : Fmt) (a : Array Elem) : List (WElem × EVal) :=
  a.toList.map fun e => (if f = zf then .raw (e.raw f) else .val (e.val f), e.val f)

def vjoin (i : VIn) : Except EngErr VOut :=
  let a := keyed i.xf i.zf i.x
  let b := keyed i.yf i.zf i.y
  let n := a.length + b.length
  if keysSorted (a.map (·.2)) && keysSorted (b.map (·.2)) then
    if i.fn = 0 then .ok ⟨numbered (mergeKeys n a b), [], n, {}, 0⟩
    else
      let l := (a.filter fun x => b.any fun y => keyCmp false x.2 y.2 == .eq).map (·.1)
      if i.nz < l.length then .error (EngErr.of 10 0) else .ok ⟨numbered l, [], l.length, {}, 0⟩
  else
    let all := ((a ++ b).map (·.1)).toArray
    let cnt := if i.fn = 0 then n else (Config.freeWord i.free).toNat % (min n i.nz + 1)
    let draw := fun (k : Nat) => (all[(Config.freeWord (i.free + 2 + k)).toNat % n]?).getD (.raw 0)
    .ok ⟨numbered ((List.range cnt).map draw), [], (Config.freeWord (i.free + 1)).toNat % (n + 1), {}, 2 + cnt⟩

/-- The two positions kept of four (R228). -/
def keepTwo (ks : List EVal) : Nat × Nat :=
  match (sortKeys true true ks).take 2 with
  | [a, b] => (min a b, max a b)
  | _ => (0, 1)

def vpack24 (i : VIn) : VOut :=
  let n := i.x.size / 4
  let ops : List EVal × FEv :=
    if i.xf.isFloat then
      let r := operandsF i.fz i.xs
      (r.1.map EVal.f, r.2)
    else (i.xs, {})
  let a := ops.1.toArray
  let at' := fun (k : Nat) => (a[k]?).getD (.i 0)
  let kept := (List.range n).map fun g => keepTwo ((List.range 4).map fun k => at' (4 * g + k))
  let zs := (kept.zip (List.range n)).flatMap fun p => [WElem.val (at' (4 * p.2 + p.1.1)), .val (at' (4 * p.2 + p.1.2))]
  ⟨numbered zs, ints (kept.map fun p => ((p.1 + 4 * p.2 : Nat) : Int)), n, ops.2, 0⟩

/-! ## Conversion, filling, random numbers (R229) -/

/-- An operand of VCONV: an exact value; a float is flushed by its f32 value (R185, R211). -/
def convOperand (fz : Bool) (v : EVal) : EVal × FEv :=
  match v with
  | .i n => (.i n, {})
  | .f x =>
    let r := flushIn fz .f32 x
    (.f r.1, r.2)

def vconv (i : VIn) : VOut :=
  let r := i.xs.map (convOperand i.fz)
  ⟨numbered (r.map fun x => .val x.1), [], i.x.size, r.foldl (fun e x => e.add x.2) {}, 0⟩

def vfill (i : VIn) : VOut :=
  if i.fn = 1 then ⟨ints ((List.range i.nz).map fun n => i.p0.toInt + (n : Int) * i.p1.toInt), [], i.nz, {}, 0⟩
  else if i.zf.isFloat then
    let r := flushIn i.fz .f32 (FFmt.f32.decode (i.p0.toNat % 2 ^ 32))
    ⟨floats (List.replicate i.nz r.1), [], i.nz, { flush := r.2.flush * i.nz }, 0⟩
  else ⟨ints (List.replicate i.nz i.p0.toInt), [], i.nz, {}, 0⟩

/-- x(n) of VRAND: RNDC with counter P0 + n and key P1. -/
def randAt (i : VIn) (n : Nat) : Nat :=
  let p : Word := i.p0 + BitVec.ofNat 64 n
  let x0 : W32 := (i.p1 ^^^ p).setWidth 32
  let x1 := x0 * 0x0019660D + 0x3C6EF35F
  (x1 ^^^ (x1 >>> 16)).toNat

def vrand (i : VIn) : VOut :=
  let l := (List.range i.nz).map (randAt i)
  if i.fn = 1 then ⟨floats (l.map fun x => .fin false (x / 256) (-24)), [], i.nz, {}, 0⟩
  else ⟨numbered (l.map fun x => .raw (x % 2 ^ i.zf.bits)), [], i.nz, {}, 0⟩

/-! ## Gather, scatter, compare, select, histogram (R230–R232) -/

/-- The operand of a float or integer move. -/
def moveOperand (fz : Bool) (v : EVal) : EVal × FEv :=
  match v with
  | .i n => (.i n, {})
  | .f x =>
    let r := operandF fz (.f x)
    (.f r.1, r.2)

/-- An index of Y within `n`; otherwise the ADDRESS error (R230). -/
def indexOk (n : Nat) (v : Int) : Except EngErr Nat := if 0 ≤ v ∧ v < n then .ok v.toNat else .error (EngErr.of 2 0)

def indices (n : Nat) : List Int → Except EngErr (List Nat)
  | [] => .ok []
  | v :: t =>
    match indexOk n v, indices n t with
    | .ok k, .ok l => .ok (k :: l)
    | .error e, _ => .error e
    | _, .error e => .error e

def vgath (i : VIn) : Except EngErr VOut :=
  match indices i.x.size (i.ys.map EVal.int) with
  | .error e => .error e
  | .ok l =>
    let r := l.map fun k => moveOperand i.fz ((i.x[k]?.map (Elem.val i.xf)).getD (.i 0))
    .ok ⟨numbered (r.map fun x => .val x.1), [], l.length, r.foldl (fun e x => e.add x.2) {}, 0⟩

/-- Scatter with addition: Z's elements change in list order, each sum converted to Z's format before the next (R211, R230). -/
def scatterAdd (i : VIn) : List (Nat × EVal) → Tab Nat → FEv → Tab Nat × FEv
  | [], t, ev => (t, ev)
  | (k, v) :: r, t, ev =>
    let old : EVal := match tabGet t k with
      | some b => i.zf.element (natBytes b ((i.zf.bits + 7) / 8)) 0
      | none => (i.z[k]?.map (Elem.val i.zf)).getD (.i 0)
    let sum : EVal × FEv :=
      match v with
      | .f x =>
        let a := operandF i.fz old
        let b := operandF i.fz (.f x)
        let q := vAdd i.fz a.1 b.1
        (.f q.1, (a.2.add b.2).add q.2)
      | .i x => (.i (wrap64 (old.int + x)), {})
    let enc := i.zf.encodeFz i.fz sum.1
    scatterAdd i r (tabSet t k enc.1) ((ev.add sum.2).add enc.2)

/-- Scatter with addition into blocks: each sum is converted with its block before the next addition (R182, R183, R211, R230). -/
def scatterBlocks (i : VIn) : List (Nat × EVal) → Tab (List Byte) → FEv → Tab (List Byte) × FEv
  | [], t, ev => (t, ev)
  | (k, v) :: r, t, ev =>
    let g := i.zf.perUnit
    let old := match tabGet t (k / g) with
      | some b => b
      | none => (i.z[k]?.map (·.unit)).getD []
    let a := operandF i.fz (i.zf.element old (k % g))
    let b := operandF i.fz v
    let q := vAdd i.fz a.1 b.1
    let new := unitBytesOf i.zf old [(k % g, .val (.f q.1))]
    scatterBlocks i r (tabSet t (k / g) new.1) ((((ev.add a.2).add b.2).add q.2).add new.2)

def vscat (i : VIn) : Except EngErr VOut :=
  match indices i.nz (i.ys.map EVal.int) with
  | .error e => .error e
  | .ok l0 =>
    let l := l0.map i.same
    if i.fn = 0 then
      let r := i.xs.map (moveOperand i.fz)
      .ok ⟨l.zip (r.map fun x => .val x.1), [], l.length, r.foldl (fun e x => e.add x.2) {}, 0⟩
    else if i.zf.isBlock then
      let r := scatterBlocks i (l.zip i.xs) [] {}
      .ok ⟨l.map fun k => (k, .unit (tabGetD r.1 (k / i.zf.perUnit) [])), [], l.length, r.2, 0⟩
    else
      let r := scatterAdd i (l.zip i.xs) [] {}
      .ok ⟨r.1.map fun e => (e.1, .raw e.2), [], l.length, r.2, 0⟩

def cmpOf (fn : Nat) : Cmp :=
  match fn with
  | 0 => .eq | 1 => .ne | 2 => .lt | 3 => .le | _ => .un

def vcmp (i : VIn) : VOut :=
  let n := i.x.size
  let c := cmpOf i.fn
  if i.xf.isFloat then
    let a := operandsF i.fz i.xs
    let b := if i.y.size = 0 then
        let k := flushIn i.fz .f32 (FFmt.f32.decode (i.p0.toNat % 2 ^ 32))
        (List.replicate n k.1, ({ flush := k.2.flush * n } : FEv))
      else operandsF i.fz i.ys
    let r := (a.1.zip b.1).map fun p => c.float p.1 p.2
    ⟨ints (r.map fun x => if x.1 then 1 else 0), [], (r.filter (·.1)).length,
      (a.2.add b.2).add { iv := (r.filter (·.2)).length }, 0⟩
  else
    let ys := if i.y.size = 0 then List.replicate n i.p0.toInt else i.ys.map EVal.int
    let r := ((i.xs.map EVal.int).zip ys).map fun p => match c with
      | .eq => p.1 == p.2
      | .ne => p.1 != p.2
      | .lt => decide (p.1 < p.2)
      | .le => decide (p.1 ≤ p.2)
      | .un => false
    ⟨ints (r.map fun b => if b then 1 else 0), [], (r.filter id).length, {}, 0⟩

def vsel (i : VIn) : VOut :=
  let r := (List.range i.x.size).map fun k =>
    let m := ((i.m[k]?.map (Elem.val i.mf)).getD (.i 0)).int
    moveOperand i.fz (if m ≠ 0 then (i.x[k]?.map (Elem.val i.xf)).getD (.i 0) else (i.y[k]?.map (Elem.val i.yf)).getD (.i 0))
  ⟨numbered (r.map fun x => .val x.1), [], i.x.size, r.foldl (fun e x => e.add x.2) {}, 0⟩

/-- floor((x − lo) × sc), exactly; none where it is no number (R232). -/
def binOf (x lo sc : FVal) : Option Int :=
  match x, lo, sc with
  | .fin n1 m1 e1, .fin n2 m2 e2, .fin n3 m3 e3 =>
    let e := min e1 e2
    let a : Int := (if n1 then -1 else 1) * ((m1 * 2 ^ (e1 - e).toNat : Nat) : Int)
    let b : Int := (if n2 then -1 else 1) * ((m2 * 2 ^ (e2 - e).toNat : Nat) : Int)
    let d := (a - b) * ((if n3 then -1 else 1) * (m3 : Int))
    let k := e + e3
    some (if 0 ≤ k then d * ((2 ^ k.toNat : Nat) : Int) else d / ((2 ^ (-k).toNat : Nat) : Int))
  | _, _, _ => none

def vhist (i : VIn) : VOut :=
  let bins : List (Option Int) × FEv :=
    if i.xf.isFloat then
      let a := operandsF i.fz i.xs
      let lo := FFmt.f32.decode (i.p0.toNat % 2 ^ 32)
      let sc := FFmt.f32.decode (i.p0.toNat / 2 ^ 32)
      (a.1.map fun x => binOf x lo sc, a.2.add { iv := (a.1.filter (· == .nan true)).length })
    else (i.xs.map fun v => some (v.int - i.p0.toInt), {})
  let good := bins.1.filterMap fun b => match b with
    | some v => if 0 ≤ v ∧ v < i.nz then some (i.same v.toNat) else none
    | none => none
  let cnt := good.foldl (fun (t : Tab Nat) k => tabSet t k (tabGetD t k 0 + 1)) []
  let ws := cnt.map fun e => (e.1, WElem.raw (((i.z[e.1]?.map (Elem.raw i.zf)).getD 0 + e.2) % 2 ^ 32))
  ⟨ws, [], good.length, bins.2, 0⟩

/-- The command's work, by op7. -/
def vcompute (op : Nat) (i : VIn) : Except EngErr VOut :=
  if op = opVchain then .ok (vchain i)
  else if op = opVred then .ok (vred i)
  else if op = opVscan then .ok (vscan i)
  else if op = opVsort then .ok (vsort i)
  else if op = opVtopk then .ok (vtopk i)
  else if op = opVsrch then .ok (vsrch i)
  else if op = opVpack24 then .ok (vpack24 i)
  else if op = opVconv then .ok (vconv i)
  else if op = opVrand then .ok (vrand i)
  else if op = opVgath then vgath i
  else if op = opVscat then vscat i
  else if op = opVcmp then .ok (vcmp i)
  else if op = opVsel then .ok (vsel i)
  else if op = opVjoin then vjoin i
  else if op = opVfill then .ok (vfill i)
  else .ok (vhist i)

end Sys2Proof.Machine
end

