-- ==== Sys2Proof/Machine/Vector.lean ====
section
/-! DEFINITION. Vector commands (R208–R217): their issue, their records, the two phases of the engine, and streams. -/

namespace Sys2Proof.Machine

/-! ## Issue (R213, R214) -/

/-- The mould of the vector instructions: a record of `n` dwords. -/
def vecIssueN (n : Nat) (i : Instr) (o : CROps) (s : State) : Result :=
  runInstr i s fun v s =>
    ((s.readRecord v.a n 16).bind fun r s =>
      if 8 ≤ s.myCore.eng.vq.length then .wait s
      else
        afterStores s fun s =>
          let c := s.myCore
          let cmd := s.newCmd i.opcode c.eng.vseq r v.a 0 (some (lowCc o.d))
          .ok () (s.setMyCore { c with eng := { c.eng with vq := c.eng.vq ++ [cmd], vseq := c.eng.vseq + 1 } })).orElseWait s

/-- The 64-byte record of R212. -/
def vecIssue (i : Instr) (o : CROps) (s : State) : Result := vecIssueN 8 i o s

/-- VCHAIN (R220). -/
def execVchain (o : CROps) (s : State) : Result := vecIssue (.vchain o) o s

/-- VRED (R221). -/
def execVred (o : CROps) (s : State) : Result := vecIssue (.vred o) o s

/-- VSCAN (R222). -/
def execVscan (o : CROps) (s : State) : Result := vecIssue (.vscan o) o s

/-- VSORT (R224). -/
def execVsort (o : CROps) (s : State) : Result := vecIssue (.vsort o) o s

/-- VTOPK (R225). -/
def execVtopk (o : CROps) (s : State) : Result := vecIssue (.vtopk o) o s

/-- VSRCH (R226). -/
def execVsrch (o : CROps) (s : State) : Result := vecIssue (.vsrch o) o s

/-- VPACK24 (R228). -/
def execVpack24 (o : CROps) (s : State) : Result := vecIssue (.vpack24 o) o s

/-- VCONV (R229). -/
def execVconv (o : CROps) (s : State) : Result := vecIssue (.vconv o) o s

/-- VRAND (R229). -/
def execVrand (o : CROps) (s : State) : Result := vecIssue (.vrand o) o s

/-- VGATH (R230). -/
def execVgath (o : CROps) (s : State) : Result := vecIssue (.vgath o) o s

/-- VSCAT (R230). -/
def execVscat (o : CROps) (s : State) : Result := vecIssue (.vscat o) o s

/-- VCMP (R231). -/
def execVcmp (o : CROps) (s : State) : Result := vecIssue (.vcmp o) o s

/-- VSEL (R231). -/
def execVsel (o : CROps) (s : State) : Result := vecIssue (.vsel o) o s

/-- VJOIN (R227). -/
def execVjoin (o : CROps) (s : State) : Result := vecIssue (.vjoin o) o s

/-- VFILL (R229). -/
def execVfill (o : CROps) (s : State) : Result := vecIssue (.vfill o) o s

/-- VHIST (R232). -/
def execVhist (o : CROps) (s : State) : Result := vecIssue (.vhist o) o s

/-! ## The record (R212) -/

def vFn (r : List Byte) : Nat := field r 48 1

/-- A field of the record: required, to be zero, or free. -/
inductive Use where
  | must | zero | may
deriving DecidableEq, Repr

def Use.ok (u : Use) (n : Nat) : Bool :=
  match u with
  | .must => n != 0
  | .zero => n == 0
  | .may => true

/-- Fields a command uses: X, Y, Z, AUX, P0, P1, and the FN values it defines. -/
structure VUse where
  x : Use
  y : Use
  z : Use
  aux : Use
  p0 : Use
  p1 : Use
  fn : Bool

def vUse (op fn : Nat) (hasY : Bool) : VUse :=
  if op = opVchain then ⟨.must, .may, .must, .must, .zero, .zero, fn == 0⟩
  else if op = opVred then ⟨.must, .zero, .must, .zero, .zero, .zero, decide (fn ≤ 3)⟩
  else if op = opVscan then ⟨.must, .zero, .must, .zero, .zero, .zero, decide (fn % 128 ≤ 2)⟩
  else if op = opVsort then ⟨.must, .may, .must, if hasY then .must else .zero, .zero, .zero, decide (fn ≤ 1)⟩
  else if op = opVtopk then ⟨.must, .zero, .must, .may, .may, .zero, decide (fn ≤ 1)⟩
  else if op = opVsrch then ⟨.must, .must, .must, .zero, .zero, .zero, decide (fn ≤ 1)⟩
  else if op = opVpack24 then ⟨.must, .zero, .must, .must, .zero, .zero, fn == 0⟩
  else if op = opVconv then ⟨.must, .zero, .must, .zero, .zero, .zero, fn == 0⟩
  else if op = opVrand then ⟨.zero, .zero, .must, .zero, .may, .may, decide (fn ≤ 1)⟩
  else if op = opVgath then ⟨.must, .must, .must, .zero, .zero, .zero, fn == 0⟩
  else if op = opVscat then ⟨.must, .must, .must, .zero, .zero, .zero, decide (fn ≤ 1)⟩
  else if op = opVcmp then ⟨.must, .may, .must, .zero, if hasY then .zero else .may, .zero, decide (fn ≤ 4)⟩
  else if op = opVsel then ⟨.must, .must, .must, .must, .zero, .zero, fn == 0⟩
  else if op = opVjoin then ⟨.must, .must, .must, .zero, .zero, .zero, decide (fn ≤ 1)⟩
  else if op = opVfill then ⟨.zero, .zero, .must, .zero, .may, if fn = 1 then .may else .zero, decide (fn ≤ 1)⟩
  else ⟨.must, .zero, .must, .zero, .may, .zero, decide (fn ≤ 1)⟩

/-- The record's own rules (R212). -/
def vRecordOk (op : Nat) (r : List Byte) : Bool :=
  let u := vUse op (vFn r) (field r 8 8 != 0)
  u.x.ok (field r 0 8) && u.y.ok (field r 8 8) && u.z.ok (field r 16 8) && u.aux.ok (field r 24 8) && u.p0.ok (field r 32 8)
    && u.p1.ok (field r 40 8) && u.fn && polOk (field r 49 1) && scopeOk (field r 50 1) && fieldZero r 51 1 && fieldZero r 56 8

/-- AUX names a shape, but for VCHAIN. -/
def auxShape (op : Nat) (r : List Byte) : Bool := op != opVchain && field r 24 8 != 0

/-! ## The shapes -/

/-- The shapes and the chain record that a command has read. -/
structure VShapes where
  x : Option Shape
  y : Option Shape
  z : Option Shape
  m : Option Shape
  chain : List Byte

/-- Read the shape of a record's field, where it is used. -/
def State.fieldShape (s : State) (w : Who) (p : Word) (use : Bool) (sc : Scope) : Eng? (Option Shape × State) :=
  if !use then .ok (none, s)
  else
    match s.readShape w p 4096 sc with
    | .error e => .error e
    | .ok (h, s1) => .ok (some h, s1)

/-- Read the chain record: 32 bytes at a multiple of 16 (R218). -/
def State.readChain (s : State) (w : Who) (op : Nat) (p : Word) (sc : Scope) : Eng? (List Byte × State) :=
  if op ≠ opVchain then .ok ([], s)
  else if p.toNat % 16 ≠ 0 then .error (EngErr.of 1 p)
  else if !s.homePtr p then .error (errAddr p)
  else s.engRead w p 32 sc

/-- A command reads its shape records and chain record (R215). -/
def State.readShapes (s : State) (w : Who) (op : Nat) (r : List Byte) (sc : Scope) : Eng? (VShapes × State) :=
  match s.fieldShape w (ptrField r 0) (field r 0 8 != 0) sc with
  | .error e => .error e
  | .ok (x, s1) =>
    match s1.fieldShape w (ptrField r 8) (field r 8 8 != 0) sc with
    | .error e => .error e
    | .ok (y, s2) =>
      match s2.fieldShape w (ptrField r 16) true sc with
      | .error e => .error e
      | .ok (z, s3) =>
        match s3.fieldShape w (ptrField r 24) (auxShape op r) sc with
        | .error e => .error e
        | .ok (m, s4) =>
          match s4.readChain w op (ptrField r 24) sc with
          | .error e => .error e
          | .ok (ch, s5) => .ok (⟨x, y, z, m, ch⟩, s5)

def optN (h : Option Shape) : Nat := match h with | some x => x.n | none => 0

def optF (h : Option Shape) : Fmt := match h with | some x => x.fmt | none => .i32

/-- One class (R211). -/
def sameClass (a b : Fmt) : Bool := a.isFloat == b.isFloat

/-- A key format (R223). -/
def keyFmt (f : Fmt) : Bool := f.perUnit == 1

/-- A stream-backed shape names an inbound port as a source, an outbound port as a destination (R210). -/
def portOk (h : Option Shape) (src : Bool) : Bool :=
  match h with
  | some x =>
    (match x.port with
    | some p => if src then decide (56 ≤ p) && decide (p ≤ 59) else decide (60 ≤ p)
    | none => true)
  | none => true

/-- The relations between a command's shapes (R220–R232). -/
def vShapesOk (op : Nat) (r : List Byte) (v : VShapes) : Bool :=
  let fn := vFn r
  let p0 := field r 32 8
  let nx := optN v.x
  let ny := optN v.y
  let nz := optN v.z
  let nm := optN v.m
  let fx := optF v.x
  let fy := optF v.y
  let fz := optF v.z
  let fm := optF v.m
  let hasY := v.y.isSome
  portOk v.x true && portOk v.y true && portOk v.z false && portOk v.m (op == opVsel) &&
  (if op = opVchain then
    nz == nx && (!hasY || ny == nx) && sameClass fx fz && (!hasY || sameClass fx fy) && chainOk v.chain fx.isFloat hasY
  else if op = opVred then nz == 1 && sameClass fx fz
  else if op = opVscan then nz == nx && sameClass fx fz
  else if op = opVsort then
    keyFmt fx && fz == fx && nz == nx && (!hasY || (ny == nx && nm == nx && fm == fy && sameClass fx fy && !fy.isBlock))
  else if op = opVtopk then
    keyFmt fx && fz == fx && decide (1 ≤ p0) && decide (p0 ≤ nx) && nz == p0 && (v.m.isNone || (fm == .i32 && nm == p0))
  else if op = opVsrch then keyFmt fx && fy == fx && fz == .i32 && nz == ny
  else if op = opVpack24 then nx % 4 == 0 && nz * 2 == nx && sameClass fx fz && fm == .n8 && nm * 4 == nx
  else if op = opVconv then nz == nx
  else if op = opVrand then (if fn = 1 then fz.isFloat else !fz.isFloat)
  else if op = opVgath then fy == .i32 && nz == ny && sameClass fx fz
  else if op = opVscat then fy == .i32 && nx == ny && sameClass fx fz
  else if op = opVcmp then fz == .n8 && nz == nx && (!hasY || (ny == nx && sameClass fx fy))
  else if op = opVsel then
    !fm.isFloat && ny == nx && nm == nx && nz == nx && sameClass fx fy && sameClass fx fz
  else if op = opVjoin then
    keyFmt fx && fy == fx && keyFmt fz && sameClass fx fz && decide (nx + ny ≤ 4096) && (fn == 1 || nz == nx + ny)
  else if op = opVfill then (fn == 0 || !fz.isFloat)
  else fz == .i32 && (if fn = 1 then fx.isFloat else !fx.isFloat))

/-- Z is read as well (R230, R232). -/
def readsZ (op fn : Nat) : Bool := (op == opVscat && fn == 1) || op == opVhist

/-- AUX is a destination. -/
def auxDest (op : Nat) : Bool := op == opVsort || op == opVtopk || op == opVpack24

/-- Sources and destinations of a command. -/
def VShapes.srcs (v : VShapes) (op : Nat) : List Shape := v.x.toList ++ v.y.toList ++ (if auxDest op then [] else v.m.toList)

def VShapes.dsts (v : VShapes) (op : Nat) : List Shape := v.z.toList ++ (if auxDest op then v.m.toList else [])

/-! ## Phases (R215) -/

/-- Translate pages of shapes. -/
def State.pagesOf (s : State) (w : Who) (acc : Acc) (sc : Scope) : List Shape → Eng? State
  | [] => .ok s
  | h :: t =>
    match s.shapePages w h acc sc with
    | .error e => .error e
    | .ok s1 => State.pagesOf s1 w acc sc t

/-- The translation phase: R for what is read, W for what is written. -/
def State.vTranslate (s : State) (w : Who) (op fn : Nat) (v : VShapes) (sc : Scope) : Eng? State :=
  match s.pagesOf w .read sc (v.srcs op ++ (if readsZ op fn then v.z.toList else [])) with
  | .error e => .error e
  | .ok s1 => s1.pagesOf w .write sc (v.dsts op)

/-- Elements of an optional shape, from memory or from the words its port has given. -/
def State.optElems (s : State) (w : Who) (h : Option Shape) (stream : List Byte) (sc : Scope) : Eng? (Array Elem × State) :=
  match h with
  | none => .ok (#[], s)
  | some x =>
    if x.port.isSome then .ok ((x.streamElems stream).toArray, s)
    else
      match s.readElems w x sc with
      | .error e => .error e
      | .ok (l, s1) => .ok (l.toArray, s1)

/-- What a port has given to, or is owed by, a command: 0 X, 1 Y, 2 M, 8 Z, 9 AUX. -/
def Cmd.stream (c : Cmd) (k : Nat) : List Byte := (tabGet c.stores k).getD []

/-- Words of a stream-backed shape. -/
def optWords (h : Option Shape) : Nat := match h with | some x => if x.port.isSome then x.words else 0 | none => 0

/-- The first number of each element's place; nothing where no two elements share one (R209). -/
def sameElems (h : Option Shape) : Array Nat :=
  match h with
  | some x =>
    if x.port.isSome || x.units.Nodup then #[]
    else (x.units.map fun u => (findIdx (· == u) x.units).elim 0 (·.1)).toArray
  | none => #[]

/-- Read every operand (R215's element phase). An outbound port gives no old elements: they are free values (log 21). -/
def State.vInputs (s : State) (w : Who) (cmd : Cmd) (v : VShapes) (sc : Scope) : Eng? (VIn × State) :=
  let r := cmd.record
  match s.optElems w v.x (cmd.stream 0) sc with
  | .error e => .error e
  | .ok (x, s1) =>
    match s1.optElems w v.y (cmd.stream 1) sc with
    | .error e => .error e
    | .ok (y, s2) =>
      match s2.optElems w (if auxDest cmd.op then none else v.m) (cmd.stream 2) sc with
      | .error e => .error e
      | .ok (m, s3) =>
        let old := if readsZ cmd.op (vFn r) then v.z else none
        let n := optWords old
        match s3.optElems w old (freeBytes s3.free (8 * n)) sc with
        | .error e => .error e
        | .ok (z, s) =>
          let s4 : State := { s with free := s.free + n }
          .ok ({ fn := vFn r, p0 := ptrField r 32, p1 := ptrField r 40, fz := cmd.fz, xf := optF v.x, yf := optF v.y, zf := optF v.z,
                 mf := optF v.m, x := x, y := y, z := z, m := m, nz := optN v.z, zid := sameElems v.z, chain := v.chain, free := s4.free }, s4)

/-- Write one destination: to memory, or as bytes that its port is owed. -/
def State.vWrite (s : State) (w : Who) (h : Option Shape) (ws : List (Nat × WElem)) (sc : Scope) : Eng? (List Byte × FEv × State) :=
  match h with
  | none => .ok ([], {}, s)
  | some x =>
    if x.port.isSome then
      let r := x.streamBytes s.free ws
      .ok (r.1, r.2, { s with free := s.free + x.n })
    else
      match s.writeElems w x ws sc with
      | .error e => .error e
      | .ok (ev, s1) => .ok ([], ev, s1)

/-- The place of a unit of a shape: a physical address or a window key. -/
def State.unitKey (s : State) (w : Who) (h : Shape) (a : Int) : Option Nat :=
  match h.at? a with
  | none => none
  | some p =>
    match s.place w p 1 with
    | some (.window k _) => some k
    | some (.flat va) => (s.physParts w.core ⟨0, va, 1⟩).head?.map (·.1)
    | _ => none

/-- Element n of Z occupies exactly the bytes of element n of a source (R216). -/
def State.exactlyOver (s : State) (w : Who) (a b : Shape) : Bool :=
  a.fmt.unitBytes == b.fmt.unitBytes && a.fmt.bits == b.fmt.bits && a.n == b.n
    && (a.units.zip b.units).all fun u => u.1.2 == u.2.2 && s.unitKey w a u.1.1 == s.unitKey w b u.2.1

/-- A destination shares bytes of memory with a source, by whatever addresses, in a way that leaves it undefined (R216). -/
def State.spoiledDst (s : State) (w : Who) (op : Nat) (srcs : List Shape) (d : Shape) : Bool :=
  let inPlace := op == opVchain || op == opVconv || op == opVsel || op == opVfill
  srcs.any fun x => keysMeet (s.shapeKeys w x) (s.shapeKeys w d) && !(inPlace && s.exactlyOver w x d)

/-- The element phase of a command whose streams have come in: operands, work, writes, counts (R211, R215, R216). -/
def State.vElements (s : State) (core : Nat) (cmd : Cmd) (v : VShapes) : Eng? (Cmd × State) :=
  let w := cmd.who core
  let sc := cmd.scope
  match s.vInputs w cmd v sc with
  | .error e => .error e
  | .ok (i, s1) =>
    match vcompute cmd.op i with
    | .error e => .error e
    | .ok o =>
      let s2 : State := { s1 with free := s1.free + o.used }
      -- keys are not flushed (R223)
      let oz := flushWrites (i.fz && cmd.op != opVjoin) i.zf o.z
      match s2.vWrite w v.z oz.1 sc with
      | .error e => .error e
      | .ok (bz, e1, s3) =>
        match s3.vWrite w (if auxDest cmd.op then v.m else none) o.aux sc with
        | .error e => .error { e with progress := e.progress + o.z.length }
        | .ok (bm, e2, s4) =>
          let s5 := s4.countEv core (((o.ev.add oz.2).add e1).add e2)
          let bad := (v.dsts cmd.op).filter fun d => s5.spoiledDst w cmd.op (v.srcs cmd.op) d
          let s6 := bad.foldl (fun s d => s.spoilShape w d sc) s5
          .ok ({ cmd with stores := [(8, bz), (9, bm)], got := [o.result] }, s6)

/-! ## The engine's progress -/

/-- Words that a stream-backed source still needs. -/
def Cmd.wants (c : Cmd) (k : Nat) (h : Option Shape) : Nat :=
  match h with
  | some x => if x.port.isSome then x.words - (c.stream k).length / 8 else 0
  | none => 0

/-- Take the words that a source's port holds, up to what it needs (R210): dequeuing acquires at CLUSTER (R160). -/
def State.takeWords (s : State) (core : Nat) (cmd : Cmd) (k : Nat) (h : Option Shape) : Cmd × State :=
  match h.bind (·.port) with
  | some p =>
    let c := s.core core
    let q := (c.regs.fifos[p - 56]?).getD []
    let n := min (cmd.wants k h) q.length
    ({ cmd with stores := tabSet cmd.stores k (cmd.stream k ++ (q.take n).flatMap fun w => natBytes w.toNat 8) },
      s.setCore core { c with regs := { c.regs with fifos := listSet c.regs.fifos (p - 56) (q.drop n) } })
  | none => (cmd, s)

/-- The FIFO behind an outbound port of a core. -/
def State.portOf (s : State) (core port : Nat) : Option (Nat × Nat) :=
  match (s.core core).regs.binds[port - 60]? with
  | some (some b) => some (24 * clusterOf core + b.core, b.fifo)
  | _ => none

/-- Send the words that a destination's port is owed, as far as there is room (fuel: the number of words). -/
def State.sendWords (s : State) (core port : Nat) : Nat → List Byte → List Byte × State
  | 0, bs => (bs, s)
  | fuel + 1, bs =>
    if bs.isEmpty then ([], s)
    else
      match s.portOf core port with
      | none => (bs, s)
      | some (n, f) =>
        if 16 ≤ s.fifoLen n f then (bs, s)
        else
          let c := s.core n
          let q := (c.regs.fifos[f]?).getD []
          State.sendWords
            (s.setCore n { c with regs := { c.regs with fifos := listSet c.regs.fifos f (q ++ [BitVec.ofNat 64 (bytesToNat (bs.take 8))]) } })
            core port fuel (bs.drop 8)

def optPort (h : Option Shape) : Nat := match h with | some x => x.port.getD 0 | none => 0

/-- Send what both destinations are owed. -/
def State.sendStreams (s : State) (core : Nat) (cmd : Cmd) (v : VShapes) : Cmd × State :=
  let a := s.sendWords core (optPort v.z) ((cmd.stream 8).length / 8) (cmd.stream 8)
  let b := a.2.sendWords core (optPort v.m) ((cmd.stream 9).length / 8) (cmd.stream 9)
  ({ cmd with stores := [(8, a.1), (9, b.1)] }, b.2)

/-- An outbound port that a destination names is unbound (R160). -/
def State.unboundDst (s : State) (core : Nat) (l : List Shape) : Bool :=
  l.any fun h => match h.port with
    | some p => (s.portOf core p).isNone
    | none => false

/-- RESULT is written and the command completes (R216). -/
def State.vFinish (s0 : State) (core : Nat) (cmd : Cmd) : State :=
  let s := s0.setCmd core .vector cmd
  s.endCmd core .vector cmd (s.writeResult core cmd 52 (cmd.got.headD 0)) fun t _ => t

/-- Where the destination shapes stand, their bytes are undefined (R146). -/
def State.spoilDsts (s : State) (core : Nat) (cmd : Cmd) (v : VShapes) : State :=
  (v.dsts cmd.op).foldl (fun s d => s.spoilShape (cmd.who core) d cmd.scope) s

/-- A record whose shapes could not all be read or are ill-formed: the destinations that can be read are undefined (R146, R217). -/
def State.spoilNamed (s : State) (w : Who) (op : Nat) (r : List Byte) (sc : Scope) : State :=
  ([(16, true), (24, auxDest op)].filter fun q => q.2 && field r q.1 8 != 0).foldl (fun s q =>
    match s.readShape w (ptrField r q.1) 4096 sc with
    | .ok (h, _) => s.spoilShape w h sc
    | .error _ => s) s

/-- The command fails in its element phase. -/
def State.vFail (s : State) (core : Nat) (cmd : Cmd) (v : VShapes) (e : EngErr) : State :=
  s.failCmd core .vector cmd e fun s => s.spoilDsts core cmd v

/-- The shapes that a started command keeps, one record after the other. -/
def keepShapes (r : List Byte) (s : State) (w : Who) (op : Nat) (sc : Scope) : List Byte :=
  let one := fun (o : Nat) (use : Bool) => if use then (match s.shapeBytes w (ptrField r o) sc with | .ok (b, _) => b | .error _ => []) else List.replicate 48 0
  one 0 (field r 0 8 != 0) ++ one 8 (field r 8 8 != 0) ++ one 16 true ++ one 24 (auxShape op r)
    ++ (match s.readChain w op (ptrField r 24) sc with | .ok (b, _) => b | .error _ => [])

/-- The shapes of a started command. -/
def keptShapes (r : List Byte) (op : Nat) (k : List Byte) : VShapes :=
  let one := fun (i : Nat) (use : Bool) => if use then shapeOf ((k.drop (48 * i)).take 48) 4096 else none
  ⟨one 0 (field r 0 8 != 0), one 1 (field r 8 8 != 0), one 2 true, one 3 (auxShape op r), k.drop 192⟩

/-- Any stream-backed shape. -/
def VShapes.streams (v : VShapes) : Bool := (v.x.toList ++ v.y.toList ++ v.z.toList ++ v.m.toList).any fun h => h.port.isSome

/-- The element phase, and completion unless a port is still owed words. -/
def State.vRun (s : State) (core : Nat) (cmd : Cmd) (v : VShapes) : State :=
  match s.checkResult core cmd 52 with
  | .error e => s.vFail core cmd v e
  | .ok s0 =>
    match (s0.setCmd core .vector { cmd with race := Race.none }).vElements core cmd v with
    | .error e => s.vFail core cmd v e
    | .ok (c, t) =>
      let c1 := { c with race := Race.none }
      let s1 := (t.mixHits s core cmd.race).misuseCmd core cmd (cmd.race.src ++ cmd.race.dst)
      if v.streams then
        let r := s1.sendStreams core c1 v
        if (r.1.stream 8).isEmpty && (r.1.stream 9).isEmpty then r.2.vFinish core r.1 else r.2.setCmd core .vector r.1
      else s1.vFinish core c1

/-- In a vector command's `sent`: it is in its element phase (R215). -/
def vUnderWay : Nat := 1

/-- The element phase is under way: some bytes may be written before the command completes (R216). -/
def State.vBegin (s : State) (core : Nat) (cmd : Cmd) (v : VShapes) : State :=
  let w := cmd.who core
  let own := fun (l : List Shape) => (l.flatMap (s.shapeRanges w)).map fun q => (core, q)
  let c1 := { cmd with sent := [vUnderWay], race := { cmd.race with src := own (v.srcs cmd.op), dst := own (v.dsts cmd.op) } }
  let s1 := s.misuseCmd core cmd (c1.race.src ++ c1.race.dst)
  let q := match s1.vElements core c1 v with
    | .ok (_, t) => s1.early core c1 t
    | .error _ => (c1, s1)
  q.2.setCmd core .vector q.1

/-- Start the command: its record, its shapes, the translation phase (R215). None: an operand meets the range scoreboard
(R134). -/
def State.vStart (s : State) (core : Nat) (cmd : Cmd) : Option State :=
  let w := cmd.who core
  let r := cmd.record
  let sc := cmd.scope
  let fail := fun (s : State) (e : EngErr) => if e.reason = 0 then none else some (s.engineError core .vector cmd e)
  let rec48 := fun (o : Nat) (n : Nat) => if field r o 8 = 0 then [] else s.normRange w (ptrField r o) n
  if s.rangesHeld core (rec48 0 48 ++ rec48 8 48 ++ rec48 16 48 ++ rec48 24 48) then none
  else if !vRecordOk cmd.op r then fail (s.spoilNamed w cmd.op r sc) errIll
  else
    match s.readShapes w cmd.op r sc with
    | .error e => fail (s.spoilNamed w cmd.op r sc) e
    | .ok (v, s1) =>
      if s1.rangesHeld core ((v.srcs cmd.op ++ v.dsts cmd.op).flatMap (s1.shapeRanges w)) then none
      else if !vShapesOk cmd.op r v then some (s1.vFail core cmd v errIll)
      else if s1.unboundDst core (v.dsts cmd.op) then some (s1.vFail core cmd v (errAddr 0))
      else
        match s1.vTranslate w cmd.op (vFn r) v sc with
        | .error e => fail s1 e
        | .ok s2 =>
          match s2.checkResult core cmd 52 with
          | .error e => fail s2 e
          | .ok s3 =>
            let run := { cmd with status := .running, payload := keepShapes r s1 w cmd.op sc }
            let s4 := s3.setCmd core .vector run
            some (if v.streams then s4 else s4.vBegin core run v)

/-- A running command goes on: words of its streams in, the element phase once no copy of the core holds its operands (R134), words out. None:
nothing can move now. -/
def State.vStream (s : State) (core : Nat) (cmd : Cmd) : Option State :=
  let v := keptShapes cmd.record cmd.op cmd.payload
  if cmd.got.isEmpty then
    let src := if auxDest cmd.op then none else v.m
    let a := s.takeWords core cmd 0 v.x
    let b := a.2.takeWords core a.1 1 v.y
    let c := b.2.takeWords core b.1 2 src
    let left := c.1.wants 0 v.x + c.1.wants 1 v.y + c.1.wants 2 src
    let held := s.rangesHeld core ((v.srcs cmd.op ++ v.dsts cmd.op).flatMap (s.shapeRanges (cmd.who core)))
    if left = 0 ∧ !held then
      let s1 := c.2.setCmd core .vector c.1
      some (if cmd.sent.contains vUnderWay then s1.vRun core c.1 v else s1.vBegin core c.1 v)
    else if left < cmd.wants 0 v.x + cmd.wants 1 v.y + cmd.wants 2 src then some (c.2.setCmd core .vector c.1)
    else none
  else
    let r := s.sendStreams core cmd v
    if (r.1.stream 8).isEmpty && (r.1.stream 9).isEmpty then some (r.2.vFinish core r.1)
    else if r.1 = cmd then none
    else some (r.2.setCmd core .vector r.1)

/-- The next piece of a vector command's work. -/
def State.vCommand (s : State) (core : Nat) (cmd : Cmd) : Option State :=
  if cmd.status = .running then s.vStream core cmd else s.vStart core cmd

end Sys2Proof.Machine
end

