-- ==== Sys2Proof/Machine/FinishOrder.lean ====
section
/-! DEFINITION. Finish-order streams (R255–R273): the encoder, the judge, its instructions, and the backward pass. The vector
queue's event is here, since FOENC and FOGRAD run in it. -/

namespace Sys2Proof.Machine

/-- FOENC (R258). -/
def execFoenc (o : CROps) (s : State) : Result := vecIssueN 8 (.foenc o) o s

/-- FOGRAD (R272). -/
def execFograd (o : CROps) (s : State) : Result := vecIssueN 12 (.fograd o) o s

/-! ## Keys, heats, words (R255, R256) -/

/-- The key of a value. -/
def keyOf (v : FVal) : Nat := (convF .bf16 .rne v.abs).1 % 2 ^ 15

def heatOf (g key : Nat) : Nat := 2 ^ (8 + g) - 1 - key / 2 ^ (7 - g)

def entryWord (g rank key ch : Nat) : W32 := BitVec.ofNat 32 (heatOf g key * 2 ^ 16 + rank * 2 ^ 12 + ch)

def lapWord (n rank : Nat) : W32 := BitVec.ofNat 32 (2 ^ 31 + n * 2 ^ 16 + rank * 2 ^ 12)

/-! ## FOENC (R257, R258) -/

def fFmtOk (f : Fmt) : Bool := f == .f32 || f == .f16 || f == .bf16 || f == .qe7

/-- The encode record. -/
def foencOk (r : List Byte) : Bool :=
  decide (field r 10 1 ≤ 7) && decide (field r 11 1 ≤ 15) && decide (field r 12 2 ≤ 4096)
    && (decide (field r 14 2 ≤ 191) || field r 14 2 == 0xFFFF) && (decide (field r 16 1 ≤ 49) || field r 16 1 == 0xFF)
    && decide (field r 17 1 ≤ 23) && polOk (field r 18 1) && scopeOk (field r 19 1) && fieldZero r 24 40

/-- The entries (key, channel) of a vector, in the order they are sent, with the events. -/
def foList (fz : Bool) (cbase quota : Nat) (xs : List EVal) : List (Nat × Nat) × FEv :=
  let l := (List.range xs.length).zip xs
  let r := l.foldl (fun (acc : List (Nat × Nat) × FEv) q =>
    let o := operandF fz q.2
    if o.1.isNan then (acc.1, (acc.2.add o.2).add { iv := 1 })
    else
      let k := keyOf o.1
      (if k = 0 then acc.1 else (k, cbase + q.1) :: acc.1, acc.2.add o.2)) ([], {})
  let sorted := r.1.mergeSort fun a b => decide (b.1 < a.1) || (a.1 == b.1 && decide (a.2 ≤ b.2))
  (if quota = 0 then sorted else sorted.take quota, r.2)

/-- The words of a stream, little-endian. -/
def foWords (g rank : Nat) (l : List (Nat × Nat)) : List Byte :=
  (l.map (fun q => entryWord g rank q.1 q.2) ++ [lapWord l.length rank]).flatMap fun w => natBytes w.toNat 4

/-- The core that a stream goes to, in this package. -/
def foTarget (r : List Byte) (core : Nat) : Nat := 24 * (if field r 16 1 = 0xFF then clusterOf core else field r 16 1) + field r 17 1

/-- A word enters an input FIFO (R259). None: it is full. -/
def State.pushFifo (s : State) (core rank : Nat) (w : W32) : Option State :=
  let c := s.core core
  let q := tabGetD c.judge.fifos rank []
  if 64 ≤ q.length then none
  else some (s.setCore core { c with judge := { c.judge with fifos := tabSet c.judge.fifos rank (q ++ [w]) } })

/-- Send words while the FIFO has room (fuel: the number of words). -/
def State.sendFifo (s : State) (core rank : Nat) : Nat → List Byte → List Byte × State
  | 0, bs => (bs, s)
  | fuel + 1, bs =>
    if bs.isEmpty then ([], s)
    else
      match s.pushFifo core rank (BitVec.ofNat 32 (bytesToNat (bs.take 4))) with
      | none => (bs, s)
      | some s1 => State.sendFifo s1 core rank fuel (bs.drop 4)

/-- FOENC's words are delivered: RESULT is written and it completes (R258). -/
def State.foencDone (s : State) (core : Nat) (cmd : Cmd) : State :=
  let cmd := { cmd with sent := [streamSent], payload := [] }
  s.endCmd core .vector cmd (s.writeResult core cmd 20 (cmd.got.headD 0)) fun t _ => t

/-- FOENC goes on sending. A diverted stream never completes (R258, R319). The words for another package leave at once, and FOENC stalls
until the notice that its receiver's FIFO has taken them. -/
def State.foencSend (s : State) (core : Nat) (cmd : Cmd) : Option State :=
  let r := cmd.record
  let rank := field r 11 1
  let pkg := field r 14 2
  let target := foTarget r core
  let cap := s.capOf core
  if cmd.sent.contains 1 ∨ cmd.sent.contains streamAway then none
  else if pkg ≠ 0xFFFF ∧ pkg ≠ s.pack.pkg then
    let ws := (List.range (cmd.payload.length / 4)).map fun i => BitVec.ofNat 32 (field cmd.payload (4 * i) 4)
    some ((ws.foldl (fun s w => s.emit (.word pkg (target / 24) (target % 24) rank w cap)) s).setCmd core .vector
      { cmd with sent := [streamAway] })
  else if clusterOf target ≠ clusterOf core ∧ s.accepts (clusterOf core) target cap = false then
    some ((s.contain target cap).setCmd core .vector { cmd with sent := [1] })
  else
    let p := s.sendFifo target rank (cmd.payload.length / 4) cmd.payload
    if p.1.isEmpty then some (p.2.foencDone core cmd)
    else if p.1 = cmd.payload then none
    else some (p.2.setCmd core .vector { cmd with payload := p.1 })

/-- FOENC at the head of its queue sends, or has sent words that must all arrive before a pre-emption (R258); one whose receiver has
diverted it does not move any more. -/
def Cmd.streaming (c : Cmd) : Bool := c.op == 0x60 && c.status == .running && !c.sent.contains 1

/-- FOENC starts: record, shape, translation, encoding. None: an operand meets the range scoreboard. -/
def State.foencStart (s : State) (core : Nat) (cmd : Cmd) : Option State :=
  let w := cmd.who core
  let r := cmd.record
  let sc := cmd.scope
  let fail := fun (s : State) (e : EngErr) => if e.reason = 0 then none else some (s.engineError core .vector cmd e)
  if s.rangesHeld core (s.normRange w (ptrField r 0) 48) then none
  else if foencOk r = false then fail s errIll
  else
    match s.readShape w (ptrField r 0) 4096 sc with
    | .error e => fail s e
    | .ok (h, s1) =>
      if h.port.isSome ∨ fFmtOk h.fmt = false ∨ 4096 < field r 8 2 + h.n then fail s1 errIll
      else if s1.rangesHeld core (s1.shapeRanges w h) then none
      else
        match s1.shapePages w h .read sc with
        | .error e => fail s1 e
        | .ok s2 =>
          match s2.checkResult core cmd 20 with
          | .error e => fail s2 e
          | .ok s3 =>
            match s3.readElems w h sc with
            | .error e => fail s3 e
            | .ok (l, s4) =>
              let q := foList cmd.fz (field r 8 2) (field r 12 2) (l.map (Elem.val h.fmt))
              let run := { cmd with status := .running, got := [q.1.length], payload := foWords (field r 10 1) (field r 11 1) q.1 }
              some ((s4.countEv core q.2).setCmd core .vector run)

/-- STREAM_WORD_ARRIVAL (R259, R319): a word from another package enters the FIFO of its rank. -/
def execStreamWordArrival (core rank : Nat) (cap : BitVec 16) (word : BitVec 32) (s : State) : Result :=
  happens "STREAM_WORD_ARRIVAL" (if s.accepts hubRouter core cap = false then some (s.contain core cap) else s.pushFifo core rank word)

/-! ## The judge's status (R260) -/

def Judge.suspended (j : Judge) : Bool := j.susp.isSome && j.active.isNone

def Judge.status (j : Judge) : Word :=
  BitVec.ofNat 64 (j.ended.toNat * 2 ^ 48 + bit j.suspended * 2 ^ 28 + j.reason * 2 ^ 24 + j.state * 2 ^ 16 + j.fc)

def State.setJudge (s : State) (core : Nat) (j : Judge) : State := s.setCore core { s.core core with judge := j }

/-! ## FOOPEN (R261, R262) -/

/-- Element size of a weight format. -/
def weightFmt (code : Nat) : Option FFmt :=
  match Fmt.ofCode code with
  | some .f32 => some .f32 | some .bf16 => some .bf16 | some .f16 => some .f16 | some .e4m3 => some .e4m3
  | _ => none

def FFmt.bytes (f : FFmt) : Nat := f.width / 8

/-- A pointer passes R64 and is a multiple of its element size. -/
def State.tablePtr (s : State) (p : Word) (z : Nat) : Bool := (s.place s.who p z).isSome && p.toNat % z == 0

/-- The open record keeps R261. -/
def State.openOk (s : State) (r : List Byte) : Bool :=
  match weightFmt (field r 12 1) with
  | none => false
  | some f =>
    let n := field r 15 1
    let early := field r 14 1 / 2 % 2 == 1
    let np := field r 13 1
    let l := field r 32 2
    let mc := field r 35 1
    s.tablePtr (ptrField r 0) f.bytes && decide (n * f.bytes ≤ field r 8 4) && decide (1 ≤ np) && decide (np ≤ 16)
      && decide (field r 14 1 ≤ 3) && decide (1 ≤ n) && decide (n ≤ 128) && s.tablePtr (ptrField r 16) 4
      && (if early then s.tablePtr (ptrField r 24) 4 else field r 24 8 == 0) && decide (1 ≤ l) && decide (l ≤ 1024)
      && decide (2 ≤ mc) && decide (mc ≤ 128) && decide (field r 34 1 + mc ≤ n) && polOk (field r 44 1) && fieldZero r 45 19

/-- FOOPEN (R262). -/
def execFoopen (o : CROps) (s : State) : Result :=
  runInstr (.foopen o) s fun v s =>
    ((s.readRecord v.a 8 16).bind fun r s =>
      let c := s.myCore
      let h := BitVec.ofNat 16 (field r 40 2)
      match if c.judge.state = 1 ∨ c.judge.state = 2 ∨ s.openOk r = false then none else c.band? h with
      | none => .trap (Trap.illegal 6) none
      | some b =>
        if b.invalid ∨ b.size ≤ field r 42 2 then .trap (Trap.illegal 6) none
        else
          let x := s.me
          let j : Judge :=
            { c.judge with state := 1, record := r, band := h, wp := x.wp, psize := x.psize, fc := 0, reason := 0, ended := 0,
                           susp := none, active := none, sheet := [] }
          let c1 := c.onBand h fun b => { b with pending := b.pending + 1 }
          let s1 := s.setMyCore { c1 with judge := j }
          .ok () (if field r 14 1 % 2 = 1 then
            (s1.keepPast s.curCore (b.first + field r 42 2)).writeAt (accKey s.curCore (b.first + field r 42 2) 0)
              (List.replicate (4 * field r 15 1) 0) else s1)).orElseWait s

/-! ## The merge (R263, R264) -/

def jNprod (j : Judge) : Nat := field j.record 13 1
def jN (j : Judge) : Nat := field j.record 15 1
def jRow (j : Judge) : Nat := handleFirst j.band + field j.record 42 2

/-- Ranks whose stream has not ended, with their FIFOs. -/
def Judge.live (j : Judge) : List (Nat × List W32) :=
  ((List.range (jNprod j)).filter fun r => !j.ended.getLsbD r).map fun r => (r, tabGetD j.fifos r [])

def isLap (w : W32) : Bool := w.getLsbD 31

def heatIn (w : W32) : Nat := (w.extractLsb' 16 15).toNat

def channelIn (w : W32) : Nat := (w.extractLsb' 0 12).toNat

/-- Remove the head of a FIFO. -/
def Judge.popHead (j : Judge) (r : Nat) : Judge := { j with fifos := tabSet j.fifos r ((tabGetD j.fifos r []).drop 1) }

/-- A rank's lap marker is consumed or discarded. -/
def Judge.endRank (j : Judge) (r : Nat) : Judge := { j.popHead r with ended := j.ended ||| (1#16 <<< r) }

/-- The smallest heat, the lower rank on equal heats. -/
def earliest : List (Nat × W32) → Option (Nat × W32)
  | [] => none
  | q :: t =>
    match earliest t with
    | some p => if heatIn p.2 < heatIn q.2 then some p else some q
    | none => some q

/-- What the merge finds: nothing yet, the end of every stream, or an arrival; the judge has its lap markers removed. -/
inductive Merge where
  | waits
  | ended (j : Judge)
  | entry (j : Judge) (rank : Nat) (w : W32)

def Judge.merge (j : Judge) : Merge :=
  let heads := j.live.filterMap fun p => p.2.head?.map fun w => (p.1, w)
  if heads.length < j.live.length then .waits
  else
    let j1 := (heads.filter fun p => isLap p.2).foldl (fun j p => j.endRank p.1) j
    match earliest (heads.filter fun p => !isLap p.2) with
    | none => .ended { j1 with reason := 1, state := 2 }
    | some (r, w) => .entry j1 r w

/-- a × b + c in f32, one rounding (R185, R186). -/
def fmaF32 (fz : Bool) (a b c : FVal) : W32 × FEv :=
  let x := flushIn fz .f32 a
  let y := flushIn fz .f32 b
  let z := flushIn fz .f32 c
  let r := finish .f32 .rne fz (fmaX .rne x.1 y.1 z.1)
  (BitVec.ofNat 32 r.1, ((x.2.add y.2).add z.2).add r.2)

def f32 (w : W32) : FVal := FFmt.f32.decode w.toNat

/-- An exact result as a value. -/
def XVal.toF : XVal → FVal
  | .nan _ => .nan false
  | .inf n _ => .inf n
  | .num n m e _ => .fin n m e

/-- The largest and the second largest of a list (R264). -/
def topTwo (l : List FVal) : Option (FVal × FVal) :=
  match l.mergeSort fun a b => cmpFin a b != .lt with
  | a :: b :: _ => some (a, b)
  | _ => none

/-- The margin test (R264): (t1 − t2) ≥ THR + tail, on exact values. -/
def marginMet (lanes : List FVal) (thr tail : FVal) : Bool :=
  if lanes.any FVal.isNan then false
  else
    match topTwo lanes with
    | none => false
    | some (a, b) =>
      let d := (addX .rne a b.negate).toF
      let t := (addX .rne thr tail).toF
      !d.isNan && !t.isNan && cmpFin d t != .lt

/-- The options of the judge's loads (R264). -/
def judgeOpts (s : State) (j : Judge) : MemOpts :=
  let p := field j.record 44 1
  ⟨if p = 8 then (s.me.cpr.extractLsb' 0 3).toNat else p, .cluster, .rlx, 0⟩

/-- A load of the consuming context for the judge. -/
def State.judgeLoad (s : State) (o : MemOpts) (p : Word) (disp : Int) (z : Nat) : Res Nat :=
  match s.target p disp z with
  | .error t => .trap t none
  | .ok t =>
    (s.load t z o).bind fun v s =>
      match v with
      | some x => .ok x s
      | none => .trap { code := 4 } none

/-- `n` elements in a row. -/
def State.judgeRow (s : State) (o : MemOpts) (p : Word) (disp : Int) (z : Nat) : Nat → Res (List Nat)
  | 0 => .ok [] s
  | n + 1 =>
    (s.judgeLoad o p disp z).bind fun x s => (State.judgeRow s o p (disp + z) z n).bind fun l s => .ok (x :: l) s

/-- The reads of an arrival: s[k], the weight row, and the tail bound where EARLY is set. -/
def State.arrivalReads (s : State) (j : Judge) (w : W32) : Res (Nat × List Nat × Option Nat) :=
  let r := j.record
  let o := judgeOpts s j
  let z := match weightFmt (field r 12 1) with | some f => f.bytes | none => 4
  (s.judgeLoad o (ptrField r 16) (4 * j.fc) 4).bind fun sk s =>
    (s.judgeRow o (ptrField r 0) (channelIn w * field r 8 4 : Nat) z (jN j)).bind fun row s =>
      if field r 14 1 / 2 % 2 = 1 then
        (s.judgeLoad o (ptrField r 24) (4 * j.fc) 4).bind fun t s => .ok (sk, row, some t) s
      else .ok (sk, row, none) s

/-- The arrival's arithmetic on the output row (R264). -/
def arrivalRow (fz : Bool) (f : FFmt) (sk : Nat) (row : List Nat) (y : List W32) : List W32 × FEv :=
  (y.zip row).foldl (fun (acc : List W32 × FEv) q =>
    let r := fmaF32 fz (FFmt.f32.decode sk) (f.decode q.2) (f32 q.1)
    (acc.1 ++ [r.1], acc.2.add r.2)) ([], {})

/-- Arrival k is applied (R264); the judge has its head removed. -/
def State.applyArrival (s : State) (core : Nat) (j : Judge) (rank : Nat) (w : W32) (rd : Nat × List Nat × Option Nat) (y : List W32) : State :=
  let r := j.record
  let f := (weightFmt (field r 12 1)).getD .f32
  let out := arrivalRow (fzOf s.me.fpcr) f rd.1 rd.2.1 y
  let lanes := ((out.1.drop (field r 34 1)).take (field r 35 1)).map f32
  let early := match rd.2.2 with
    | some t => marginMet lanes (f32 (BitVec.ofNat 32 (field r 36 4))) (FFmt.f32.decode t)
    | none => false
  let reason := if early then 2 else if j.fc + 1 = field r 32 2 then 3 else 0
  let j1 := { j.popHead rank with
    fc := j.fc + 1
    sheet := j.sheet ++ [w]
    reason := reason
    state := if reason = 0 then 1 else 2
    susp := j.susp.map fun n => n.map (· - 1) }
  let s1 := ((s.keepPast core (jRow j)).writeAt (accKey core (jRow j) 0) (out.1.flatMap fun w => natBytes w.toNat 4)).countEv core out.2
  (if early then s1.count core .early 1 else s1).setJudge core j1

/-- The context that stands in FOSTEP or FORUN, while arrivals are still to be taken. -/
def Judge.consumer (j : Judge) : Option Nat := if j.state = 1 ∧ j.susp.isSome ∧ j.susp ≠ some (some 0) then j.active else none

/-- JUDGE_ARRIVAL (R263, R264, R266): the judge takes the next arrival for the context that consumes. A fault of its reads is
that context's, before the arrival is removed. -/
def execJudgeArrival (core : Nat) (s : State) : Result :=
  let j := (s.core core).judge
  happens "JUDGE_ARRIVAL" <|
    match j.consumer with
    | none => none
    | some k =>
      match j.merge with
      | .waits => none
      | .ended j1 => some (s.setJudge core j1)
      | .entry j1 rank w =>
        let s0 : State := { s with curCore := core, curCtx := k, view := none }
        if !s0.me.live || s0.me.wait == some .away || !s0.nothingOwed || !s0.storesDone core k then none
        else if s0.accPoison core (jRow j) (jN j) then some (s0.takeTrap { code := 4 } false 0)
        else
          match s0.arrivalReads j w with
          | .wait t => if t.me.wait == some .away then some (t.setJudge core ((t.core core).judge.leave k)) else none
          | .trap t q => some ((q.getD s0).takeTrap t false 0)
          | .ok rd s1 => some (s1.applyArrival core j1 rank w rd (s1.accRow core (jRow j) (jN j)))

/-! ## FOSTEP and FORUN (R265, R266) -/

/-- The shape of both: `left` is what a new consumption has to take. A consumption whose reception another context has closed ends: the loop
finds STATE other than OPEN, and its status word is that of the reception as it was closed. -/
def State.consume (s : State) (i : Instr) (d : BitVec 6) (left : Option (Option Nat)) : Res Unit :=
  let j := s.myCore.judge
  let done := fun (s : State) =>
    let j := s.myCore.judge
    let j1 := { j with susp := none, active := none }
    .ok () ((s.setJudge s.curCore j1).setReg d.toNat j1.status)
  match j.ousted.find? fun o => o.1 == s.curCtx with
  | some (_, none) => .wait s
  | some (_, some w) => .ok () ((s.setJudge s.curCore (j.leave s.curCtx)).setReg d.toNat w)
  | none =>
  if j.state = 0 ∨ j.state = 3 then .trap (Trap.illegal 6) none
  else if s.goesOn then
    (if j.state ≠ 1 ∨ j.susp = some (some 0) then done s
    else .wait (s.setJudge s.curCore { j with active := some s.curCtx }))
  else if j.active.isSome then .wait s
  else
    match left with
    | none => .trap (Trap.illegal 6) none
    | some n =>
      if j.state ≠ 1 then done s
      else .wait ((s.dequeue ((s.sources i).map (·.reg))).setJudge s.curCore { j with susp := some n, active := some s.curCtx })

/-- FOSTEP (R265). -/
def execFostep (o : CROps) (s : State) : Result :=
  runInstr (.fostep o) s fun v s =>
    s.consume (.fostep o) o.d (if 1 ≤ v.a.toNat ∧ v.a.toNat ≤ 1024 then some (some v.a.toNat) else none)

/-- FORUN (R265). -/
def execForun (o : CROps) (s : State) : Result := runInstr (.forun o) s fun _ s => s.consume (.forun o) o.d (some none)

/-! ## FOCLOSE, FOSHEET, FOSTAT (R268–R270) -/

/-- Discard a FIFO up to its lap marker (R268). -/
def discardRank (j : Judge) (r : Nat) : Judge :=
  let q := tabGetD j.fifos r []
  match findIdx isLap q with
  | some (i, _) => { j with fifos := tabSet j.fifos r (q.drop (i + 1)), ended := j.ended ||| (1#16 <<< r) }
  | none => { j with fifos := tabSet j.fifos r [] }

/-- FOCLOSE (R268). -/
def execFoclose (o : CROps) (s : State) : Result :=
  runInstr (.foclose o) s fun _ s =>
    let c := s.myCore
    let j := c.judge
    if j.state = 0 ∨ j.state = 3 then .trap (Trap.illegal 6) none
    else
      let out := if j.active = some s.curCtx then none else j.active
      let j1 := { j with reason := if j.state = 1 then 4 else j.reason, susp := none, active := none,
                           ousted := j.ousted ++ (out.map fun k => (k, none)).toList }
      let j2 := j1.live.foldl (fun j p => discardRank j p.1) j1
      if !j2.live.isEmpty then .wait (s.setJudge s.curCore j2)
      else
        let closed := { j2 with state := 3 }
        let j3 := { closed with ousted := closed.ousted.map fun o => (o.1, o.2.orElse fun _ => some closed.status) }
        let c1 := c.onBand j.band fun b => { b with pending := b.pending - 1 }
        .ok () ((s.setMyCore { c1 with judge := j3 }).setReg o.d.toNat closed.status)

/-- The stores of FOSHEET: word k to a + 4k. -/
def sheetStores (s : State) (ts : List Target) (ws : List W32) : List StoreEntry :=
  let x := s.me
  (ts.zip ws).map fun q =>
    { va := q.1.va, norm := q.1.norm, data := q.2.setWidth 64, size := 4, pol := s.recordOpts.pol, scope := .cluster, order := .rlx,
      ctx := s.curCtx, pc := x.pc, bundle := x.bundles, group := x.group, launch := x.launch, phase := .ready,
      ih := x.ih }

/-- The places of the sheet's words: addressed and translated for writing, with precise faults. -/
def State.sheetTargets (s : State) (p : Word) : Nat → Res (List Target)
  | 0 => .ok [] s
  | n + 1 =>
    (State.sheetTargets s p n).bind fun l s =>
      match s.target p (4 * n : Nat) 4 with
      | .error t => .trap t none
      | .ok t =>
        if s.scoreHit s.curCore (rangeOf t.norm 4) then .wait s
        else
          match t.place with
          | .remote pkg _ => (s.migrate t.va pkg).bind fun _ s => .ok l s
          | .window _ _ => .ok (l ++ [t]) s
          | .flat va =>
            match s.translate s.curCore va .write .cluster with
            | .error f => .trap (f.trap t.va .write) none
            | .ok (_, s1) => .ok (l ++ [t]) s1

/-- Perform stores in order; the translations have been made. A line that is held for a moved request holds them all (R62). -/
def State.performAll (s : State) (core : Nat) : List StoreEntry → Res Unit
  | [] => .ok () s.wakeWatches
  | e :: t =>
    match s.performStore core e with
    | none => .wait s
    | some (.ok s1) => State.performAll s1 core t
    | some (.error _) => .trap { code := 9, addr := e.va } none

/-- FOSHEET (R269). -/
def execFosheet (o : CROps) (s : State) : Result :=
  runInstr (.fosheet o) s fun v s =>
    let j := s.myCore.judge
    if j.state = 0 then .trap (Trap.illegal 6) none
    else if v.a.toNat % 4 ≠ 0 then .trap (Trap.address v.a) none
    else if j.fc = 0 then .ok () (s.setReg o.d.toNat 0)
    else
      ((s.sheetTargets v.a j.fc).bind fun ts s =>
        afterStores s fun s =>
          (s.performAll s.curCore (sheetStores s ts j.sheet)).bind fun _ s => .ok () (s.setReg o.d.toNat (BitVec.ofNat 64 j.fc))).orElseWait s

/-- FOSTAT (R270). -/
def execFostat (o : CROps) (s : State) : Result :=
  runInstr (.fostat o) s fun _ s => .ok () (s.setReg o.d.toNat s.myCore.judge.status)

/-! ## FOGRAD (R271, R272) -/

def gK (r : List Byte) : Nat := field r 64 2
def gNx (r : List Byte) : Nat := field r 66 2
def gN (r : List Byte) : Nat := field r 68 1
def gxEn (r : List Byte) : Bool := field r 70 1 % 2 == 1
def gwEn (r : List Byte) : Bool := field r 70 1 / 2 % 2 == 1

/-- The gradient record. -/
def fogradOk (r : List Byte) : Bool :=
  match weightFmt (field r 69 1) with
  | none => false
  | some f =>
    decide (gK r ≤ 1024) && decide (1 ≤ gN r) && decide (gN r ≤ 128) && decide (field r 70 1 ≤ 3)
      && (if gxEn r then decide (1 ≤ gNx r) && decide (gNx r ≤ 4096) else gNx r == 0 && field r 40 8 == 0)
      && (if gwEn r then decide (4 * gN r ≤ field r 60 4) else field r 48 8 == 0 && field r 60 4 == 0)
      && decide (gN r * f.bytes ≤ field r 56 4) && field r 8 8 % f.bytes == 0 && polOk (field r 71 1) && scopeOk (field r 72 1)
      && fieldZero r 73 3 && fieldZero r 80 16

def words32 (bs : List Byte) : List W32 := (List.range (bs.length / 4)).map fun i => BitVec.ofNat 32 (field bs (4 * i) 4)

def wordBytes (ws : List W32) : List Byte := ws.flatMap fun w => natBytes w.toNat 4

/-- Read `n` bytes for an engine, or none. -/
def State.engBytes (s : State) (w : Who) (p : Word) (n : Nat) (sc : Scope) : Eng? (List Byte × State) :=
  if n = 0 then .ok ([], s) else s.engRead w p n sc

/-- Read rows of `n` bytes at a base and stride, by channel. -/
def State.readRowsAt (s : State) (w : Who) (base : Word) (stride n : Nat) (sc : Scope) : List Nat → Eng? (Tab (List Byte) × State)
  | [] => .ok ([], s)
  | c :: t =>
    match s.engRead w (ptrUp base (c * stride)) n sc with
    | .error e => .error e
    | .ok (b, s1) =>
      match State.readRowsAt s1 w base stride n sc t with
      | .error e => .error e
      | .ok (l, s2) => .ok (tabSet l c b, s2)

/-- The rows of grad_W that change, and grad_x. -/
structure Grad where
  gx : Array W32
  gw : Tab (List W32)
  ev : FEv

/-- What FOGRAD reads. -/
structure GradIn where
  fz : Bool
  fmt : FFmt
  chans : List Nat
  gy : List W32
  sb : Array W32
  sgb : Array W32
  rows : Tab (List Byte)

/-- The dot product of grad_y and a weight row, in lane order. -/
def gradDot (fz : Bool) (gy : List W32) (w : List FVal) : W32 × FEv :=
  (gy.zip w).foldl (fun (acc : W32 × FEv) q =>
    let r := fmaF32 fz (f32 q.1) q.2 (f32 acc.1)
    (r.1, acc.2.add r.2)) (0, {})

/-- One sheet word's part (R272). -/
def gradStep (i : GradIn) (gx gw : Bool) (g : Grad) (k c : Nat) : Grad :=
  let z := i.fmt.bytes
  let bs := tabGetD i.rows c []
  let w := (List.range (bs.length / z)).map fun n => i.fmt.decode (field bs (z * n) z)
  let g1 :=
    if gx then
      let d := gradDot i.fz i.gy w
      let r := fmaF32 i.fz (f32 ((i.sgb[k]?).getD 0)) (f32 d.1) (f32 ((g.gx[c]?).getD 0))
      { g with gx := g.gx.setIfInBounds c r.1, ev := (g.ev.add d.2).add r.2 }
    else g
  if gw then
    let old := tabGetD g1.gw c []
    let r := (old.zip i.gy).foldl (fun (acc : List W32 × FEv) q =>
      let x := fmaF32 i.fz (f32 ((i.sb[k]?).getD 0)) (f32 q.2) (f32 q.1)
      (acc.1 ++ [x.1], acc.2.add x.2)) ([], {})
    { g1 with gw := tabSet g1.gw c r.1, ev := g1.ev.add r.2 }
  else g1

/-- The channels of the sheet without repeats. -/
def distinct (l : List Nat) : List Nat := l.foldl (fun a c => if a.contains c then a else a ++ [c]) []

/-- The parts that FOGRAD writes, with their lengths. -/
def gradDsts (r : List Byte) (cs : List Nat) : List (Word × Nat) :=
  (if gxEn r then [(ptrField r 40, 4 * gNx r)] else []) ++
    (if gwEn r then cs.map fun c => (ptrUp (ptrField r 48) (c * field r 60 4), 4 * gN r) else [])

def gradSrcs (r : List Byte) (z : Nat) (cs : List Nat) : List (Word × Nat) :=
  [(ptrField r 0, 4 * gK r), (ptrField r 16, 4 * gN r), (ptrField r 24, 4 * gK r), (ptrField r 32, 4 * gK r)] ++
    cs.map fun c => (ptrUp (ptrField r 8) (c * field r 56 4), gN r * z)

def State.partRanges (s : State) (w : Who) (l : List (Word × Nat)) : List Range := l.flatMap fun q => s.normRange w q.1 q.2

/-- The sheet's channels (R272), checked against NX. -/
def State.gradChans (s : State) (core : Nat) (cmd : Cmd) : Eng? (List Nat × State) :=
  let r := cmd.record
  match s.engBytes (cmd.who core) (ptrField r 0) (4 * gK r) cmd.scope with
  | .error e => .error e
  | .ok (bs, s1) =>
    let cs := (words32 bs).map channelIn
    if gxEn r && cs.any (fun c => decide (gNx r ≤ c)) then .error (errAddr (ptrField r 40)) else .ok (cs, s1)

/-- Read everything but the sheet. -/
def State.gradReads (s : State) (core : Nat) (cmd : Cmd) (f : FFmt) (cs : List Nat) : Eng? (GradIn × Tab (List Byte) × State) :=
  let r := cmd.record
  let w := cmd.who core
  let sc := cmd.scope
  match s.engBytes w (ptrField r 16) (4 * gN r) sc with
  | .error e => .error e
  | .ok (gy, s1) =>
    match s1.engBytes w (ptrField r 24) (if gwEn r then 4 * gK r else 0) sc with
    | .error e => .error e
    | .ok (sb, s2) =>
      match s2.engBytes w (ptrField r 32) (if gxEn r then 4 * gK r else 0) sc with
      | .error e => .error e
      | .ok (sg, s3) =>
        match s3.readRowsAt w (ptrField r 8) (field r 56 4) (gN r * f.bytes) sc (distinct cs) with
        | .error e => .error e
        | .ok (rows, s4) =>
          match s4.readRowsAt w (ptrField r 48) (field r 60 4) (4 * gN r) sc (if gwEn r then distinct cs else []) with
          | .error e => .error e
          | .ok (gw, s5) =>
            .ok (⟨cmd.fz, f, cs, words32 gy, (words32 sb).toArray, (words32 sg).toArray, rows⟩, gw, s5)

/-- The work of FOGRAD. -/
def State.runGrad (s : State) (core : Nat) (cmd : Cmd) (f : FFmt) : Eng? State :=
  let r := cmd.record
  let w := cmd.who core
  match s.gradChans core cmd with
  | .error e => .error e
  | .ok (cs, s1) =>
    let dst := gradDsts r (distinct cs)
    match s1.partPieces w .write cmd.scope dst with
    | .error e => .error e
    | .ok (qs, s2) =>
      match s2.gradReads core cmd f cs with
      | .error e => .error e
      | .ok (i, gw, s3) =>
        match s3.checkResult core cmd 76 with
        | .error e => .error e
        | .ok s4 =>
          let g0 : Grad := ⟨Array.replicate (gNx r) 0, gw.map fun p => (p.1, words32 p.2), {}⟩
          let g := ((List.range cs.length).zip cs).foldl (fun g q => gradStep i (gxEn r) (gwEn r) g q.1 q.2) g0
          let bytes := (if gxEn r then wordBytes g.gx.toList else []) ++
            (if gwEn r then (distinct cs).flatMap fun c => wordBytes (tabGetD g.gw c []) else [])
          match s4.writePieces core qs bytes with
          | .error e => .error e
          | .ok s5 =>
            let keys := fun (l : List (Word × Nat)) => (s5.partRanges w l).flatMap (s5.rangeKeys core .write)
            let src := keys (gradSrcs r f.bytes (distinct cs))
            let bad := dst.filter fun d => keysMeet src (keys [d]) || (dst.any fun e => e.1 != d.1 && keysMeet (keys [e]) (keys [d]))
            let s6 := bad.foldl (fun s d => s.scrambleRange w d.1 d.2 cmd.scope) s5
            (s6.countEv core g.ev).writeResult core cmd 76 (gK r)

/-- The destinations of a failed FOGRAD are undefined (R146): grad_x, and the rows of the sheet where it can be read. -/
def State.spoilGrad (s : State) (core : Nat) (cmd : Cmd) : State :=
  let w := cmd.who core
  let cs := match s.engBytes w (ptrField cmd.record 0) (4 * gK cmd.record) cmd.scope with
    | .ok (bs, _) => distinct ((words32 bs).map channelIn)
    | .error _ => []
  (gradDsts cmd.record cs).foldl (fun s d => s.scrambleRange w d.1 d.2 cmd.scope) s

/-- The ranges that FOGRAD reads and writes (R216, R272). -/
def State.gradRace (s : State) (core : Nat) (cmd : Cmd) (z : Nat) (cs : List Nat) : Race :=
  let own := fun (l : List (Word × Nat)) => (s.partRanges (cmd.who core) l).map fun q => (core, q)
  { cmd.race with src := own (gradSrcs cmd.record z cs), dst := own (gradDsts cmd.record cs) }

/-- FOGRAD starts, or completes: while it runs its bytes are old or new (R216). None: an operand meets the range scoreboard. -/
def State.fogradRun (s : State) (core : Nat) (cmd : Cmd) : Option State :=
  let r := cmd.record
  let w := cmd.who core
  match if fogradOk r then weightFmt (field r 69 1) else none with
  | none => some (s.failCmd core .vector cmd errIll fun s => s.spoilGrad core cmd)
  | some f =>
    let cs := match s.gradChans core cmd with | .ok (l, _) => distinct l | .error _ => []
    if s.rangesHeld core (s.partRanges w (gradSrcs r f.bytes cs ++ gradDsts r cs)) then none
    else
      let work := fun (c : Cmd) => (s.setCmd core .vector { c with race := Race.none }).runGrad core c f
      if cmd.status = .running then
        some (s.endCmd core .vector cmd ((work cmd).map fun t => (t.mixHits s core cmd.race).misuseCmd core cmd (cmd.race.src ++ cmd.race.dst))
          fun s e => if e.reason = 3 then s else s.spoilGrad core cmd)
      else
        let c1 := { cmd with status := .running, race := s.gradRace core cmd f.bytes cs }
        match work c1 with
        | .error e => some (s.failCmd core .vector cmd e fun s => if e.reason = 3 then s else s.spoilGrad core cmd)
        | .ok t =>
          let q := (s.misuseCmd core cmd (c1.race.src ++ c1.race.dst)).early core c1 t
          some (q.2.setCmd core .vector q.1)

/-! ## The vector queue -/

/-- VECTOR_COMMAND (R215–R217, R258, R272): the first command of the vector queue starts and runs, or one with a stream goes
on. -/
def execVectorCommand (core : Nat) (s : State) : Result :=
  happens "VECTOR_COMMAND" <|
    let c := s.core core
    match c.eng.vq.head? with
    | none => none
    | some cmd =>
      if c.eng.vhalt || !(cmd.status == .running || (cmd.status == .queued && !(s.part (s.partOf core)).paused)) then none
      else if cmd.op = 0x60 then
        if cmd.sent.contains streamSent then some (s.foencDone core cmd)
        else if cmd.status = .running then s.foencSend core cmd
        else s.foencStart core cmd
      else if cmd.op = 0x66 then s.fogradRun core cmd
      else s.vCommand core cmd

end Sys2Proof.Machine
end

