-- ==== Sys2Proof/Machine/Ingress.lean ====
section
/-! DEFINITION. The ingress translation unit: pod-global requests of other packages (R79, R80), faults served at the destination
(R371), migrated tasks that arrive and the notices about tasks that left (R370). -/

namespace Sys2Proof.Machine

/-! ## Pod-global requests (R80) -/

def kindAcc : RemoteKind → Acc
  | .get => .read
  | .acc => .atomic
  | .put | .notify => .write

/-- Bytes of a request's element. -/
def reqSize (q : IngressReq) : Nat := match Fmt.ofCode q.fmt.toNat with | some f => f.unitBytes | none => 8

/-- How a translated request ended: answered, or a page fault of R70. -/
inductive Served where
  | answer (a : RemoteAnswer) (v : Word) (s : State)
  | fault (code : Nat)
deriving Repr

/-- Read `n` bytes at the home, through its slice, or at the memory controller (R76): none where they are poisoned or a reserved register offset. -/
def State.ingressRead (s : State) (p : Nat) (t : Trans) (n : Nat) : Option (List Byte × State) :=
  if windowBase ≤ t.pa ∧ t.pa < windowEnd then (s.windowBytes p t.pa n).map fun b => (b, s)
  else if t.mt = .writeBack ∨ t.mt = .writeThrough then
    if s.poisonedAt t.pa n then none else some (s.bytesAt t.pa n, s.touchFlats t.pa n .read .normal)
  else if s.hbmPoison t.pa n then none
  else some (s.hbmBytes t.pa n, s)

/-- Write bytes at the home, through its slice, as an agent of no cluster. -/
def State.ingressWrite (s : State) (p : Nat) (t : Trans) (bs : List Byte) : Option State :=
  if windowBase ≤ t.pa ∧ t.pa < windowEnd then s.windowPut p bs.length t.pa bs
  else
    let s1 := s.seenRange t.pa bs.length
    let s2 := match t.mt with
      | .writeBack => s1.slicePut t.pa bs .write .normal
      | .writeThrough => s1.slicePut t.pa bs .through .normal
      | .uncacheable | .device => s1.controllerPut t.pa bs
    some s2.wakeWatches

/-- Perform a request where its translation points (R80, R138); a sum's events are counted at the requester. -/
def State.ingressPerform (s : State) (p : Nat) (q : IngressReq) (t : Trans) : Served :=
  let z := reqSize q
  match q.kind with
  | .get =>
    (match s.ingressRead p t z with
    | some (b, s1) => .answer (.complete []) (BitVec.ofNat 64 (bytesToNat b)) s1
    | none => .answer .poisoned 0 s)
  | .acc =>
    (match s.ingressRead p t z with
    | some (m, s1) =>
      let a := accumulate q.fmt.toNat q.fz (bytesToNat m) (q.value.toNat % 256 ^ z)
      (match s1.ingressWrite p t (natBytes a.1 z) with
      | some s2 => .answer (.complete a.2.list) 0 s2
      | none => .answer .failed 0 s)
    | none => .answer .poisoned 0 s)
  | _ =>
    match s.ingressWrite p t (natBytes q.value.toNat z) with
    | some s1 => .answer (.complete []) 0 s1
    | none => .answer .failed 0 s

/-- Translate under an entry of the table (R66–R74, R80) by the unit's own 4,096 entries, else by a walk, which fills them and sets A and
D (R72, R73). -/
def State.ingressTranslate (s : State) (e : PodSpace) (va : Nat) (acc : Acc) : Except TFault (Trans × State) :=
  let sec := (s.part e.part).world
  let hit := (findIdx (fun t => TlbEntry.hits t e.part e.asid va && !(acc.writes && !eD t.leaf && !eDsc t.leaf)) s.pack.itu).map (·.2)
  match hit with
  | some t => (s.judgeLeaf sec t.leaf t.size va acc .pod).map fun r => (r, s)
  | none =>
    match s.walkFrom (ascrRoot e.root) va with
    | .error c => .error (.page c)
    | .ok (l, path) =>
      match s.judgeLeaf sec l.entry l.size va acc .pod with
      | .error f => .error f
      | .ok r =>
        let (s1, leaf) := (s.touchEntries (path.map (·.entry) ++ [l.pa])).setAD l acc.writes
        let t : TlbEntry := ⟨va / l.size * l.size, l.size, e.part, e.asid, eG leaf, leaf, l.pa⟩
        .ok (r, { s1 with pack := { s1.pack with itu := (t :: s1.pack.itu.filter fun x => x.leafPa != l.pa).take 4096 } })

/-- Translate and perform. A violation that R70 gives no code is answered "failed"; a read of a discarded page gives zero bytes (R74). -/
def State.ingressServe (s : State) (e : PodSpace) (q : IngressReq) : Served :=
  let va := lowOf q.va
  if vaLimit ≤ va then .answer .failed 0 s
  else
    match s.ingressTranslate e va (kindAcc q.kind) with
    | .error (.page c) => .fault c
    | .error _ => .answer .failed 0 s
    | .ok (t, s1) =>
      if t.mt = .device ∧ q.kind = .acc then .answer .failed 0 s1
      else if t.disc then .answer (.complete []) 0 s1
      else s1.ingressPerform e.part q t

/-- The answer leaves for the requester (R80). -/
def State.answerReq (s : State) (q : IngressReq) (a : RemoteAnswer) (v : Word) : State := s.emit (.answer q.srcPkg q.tag a v)

/-- The lowest fault id that is not open; 256 are open at most (R371). -/
def State.freeFid (s : State) : Option Nat := (List.range 256).find? fun i => !s.pack.deferred.any fun d => d.fid == i

/-- The service task of a deferred request (R371). -/
def serviceTask (fid : Nat) (q : IngressReq) (code : Nat) (handler : Word) (group : BitVec 16) (launch : Option Nat) : TaskMsg :=
  { pc := handler, p0 := BitVec.ofNat 64 fid, p1 := BitVec.ofNat 64 (lowOf q.va),
    p2 := BitVec.ofNat 64 (code + (kindAcc q.kind).arg * 256), p3 := BitVec.ofNat 64 (q.srcPkg % 256), pri := 0, group := group, launch := launch }

/-- The partition serves faults here (R371): SETFSVC has named a core, and a launch of the partition stands on it. -/
def State.servesFaults (s : State) (p : Nat) : Bool :=
  match (s.part p).fsvc with
  | none => false
  | some (core, _) => s.partOf core == p && (s.core core).launch.isSome

/-- Post the service task (R341, R371): none where the run queue is full; `some none` where the partition serves no faults. -/
def State.postService (s : State) (p fid : Nat) (q : IngressReq) (code : Nat) : Option (Option State) :=
  match (s.part p).fsvc with
  | none => some none
  | some (core, handler) =>
    let c := s.core core
    if !s.servesFaults p then some none
    else (s.enqueue core (serviceTask fid q code handler c.group c.launch) none).map some

/-- The line of a request's address, as requests to one line are ordered (R80). -/
def reqLine (q : IngressReq) : Nat := lowOf q.va / 192

/-- A request to an address space that the table does not name, or with another key (R80, R319): the containment record, and
the event to the partition that the space belongs to. No core of the package is addressed (log 19). -/
def State.divertReq (s : State) (owner : Option Nat) (cap : BitVec 16) : State :=
  let st := s.pack.steward
  let s1 := { s with pack := { s.pack with steward := { st with containment := st.containment ++ [(1200, owner.getD 8, cap)] } } }
  match owner with
  | some p => s1.postEvent p 6 0 cap.toNat
  | none => s1

/-- Two requests of one requester to one line keep their order (R80). -/
def sameLine (a b : IngressReq) : Bool := a.srcPkg == b.srcPkg && a.srcCore == b.srcCore && a.pas == b.pas && reqLine a == reqLine b

/-- A request that may go on now (R80, R371): performed and answered, or answered "deferred" and raised to the handler. None: no fault id,
no place in the run queue, or the steward cores are in reset. -/
def State.ingressGo (s : State) (e : PodSpace) (q : IngressReq) : Option State :=
  match s.ingressServe e q with
  | .answer a v s1 => some (s1.answerReq q a v)
  | .fault code =>
    match if !s.servesFaults e.part then some 0 else if s.pack.steward.up then s.freeFid else none with
    | none => none
    | some fid =>
      match s.postService e.part fid q code with
      | none => none
      | some none => some (s.answerReq q .failed 0)
      | some (some s1) =>
        let d : Deferred := ⟨fid, e.part, q, code⟩
        let s2 : State := { s1 with pack := { s1.pack with deferred := s1.pack.deferred ++ [d] } }
        some (s2.emit (.deferred q.srcPkg q.tag))

/-- A request behind the deferred ones and the waiting ones in `w`. -/
def State.ingressHeld (s : State) (w : List IngressReq) (q : IngressReq) : Bool :=
  s.pack.deferred.any (fun d => sameLine d.req q) || w.any fun x => sameLine x q

/-- INGRESS_REQUEST (R80, R319, R371, R381). A request that may not go on yet waits at the unit, behind the others of its requester to its
line. -/
def execIngressRequest (q : IngressReq) (s : State) : Result :=
  happens "INGRESS_REQUEST" <|
    if !s.pack.inPod ∨ q.kind = .notify then none
    else
      match tabGet s.pack.podSpaces q.pas with
      | none => some (s.divertReq none q.cap)
      | some e =>
        if (s.part e.part).pkey ≠ q.cap then some (s.divertReq (some e.part) q.cap)
        else
          match if s.ingressHeld s.pack.waiting q then none else s.ingressGo e q with
          | some s1 => some s1
          | none => some { s with pack := { s.pack with waiting := s.pack.waiting ++ [q] } }

/-- Waiting request `i` goes on (R80, R371). -/
def State.ingressAgain (i : Nat) (s : State) : Result :=
  happens "INGRESS_REQUEST" <|
    match s.pack.waiting[i]? with
    | none => none
    | some q =>
      if s.ingressHeld (s.pack.waiting.take i) q then none
      else
        let s1 : State := { s with pack := { s.pack with waiting := listDrop s.pack.waiting i } }
        match tabGet s.pack.podSpaces q.pas with
        | none => some (s1.divertReq none q.cap)
        | some e => if (s.part e.part).pkey ≠ q.cap then some (s1.divertReq (some e.part) q.cap) else s1.ingressGo e q

/-- A deferred request leaves the unit. -/
def State.dropDeferred (s : State) (fid : Nat) : State :=
  { s with pack := { s.pack with deferred := s.pack.deferred.filter fun d => d.fid != fid } }

/-- The request is translated again after service (R80): performed and answered, or, where it faults again, raised to the
handler once more under its fault id; where the run queue is full, it waits ahead of the others of its line. -/
def State.retryDeferred (s : State) (d : Deferred) : State :=
  match tabGet s.pack.podSpaces d.req.pas with
  | none => (s.dropDeferred d.fid).answerReq d.req .failed 0
  | some e =>
    match s.ingressServe e d.req with
    | .answer a v s1 => (s1.dropDeferred d.fid).answerReq d.req a v
    | .fault code =>
      match s.postService e.part d.fid d.req code with
      | some (some s1) => s1
      | some none => (s.dropDeferred d.fid).answerReq d.req .failed 0
      | none =>
        let s1 := s.dropDeferred d.fid
        { s1 with pack := { s1.pack with waiting := d.req :: s1.pack.waiting } }

/-! ## Migration (R370) -/

/-- The partition whose key a message from another package carries. -/
def State.partOfKey (s : State) (cap : BitVec 16) : Option Nat :=
  (s.pack.parts.find? fun p => p.2.live && p.2.pkey == cap).map (·.1)

/-- The core that the ingress chooses for a migrated task (R370). -/
def State.migrationCore (s : State) (p cluster core : Nat) : Option Nat :=
  let owned := fun (c : Nat) => (s.cluster c).owner == some p
  if owned cluster then some (24 * cluster + core)
  else ((List.range 50).find? owned).map fun c => 24 * c + core

/-- The task of a migration: the program counter of its image, its priority, group and the launch of the core it enters. -/
def migratedTask (m : Migration) (launch : Option Nat) : TaskMsg :=
  { pc := BitVec.ofNat 64 (field m.bytes 512 8), p0 := 0, p1 := 0, p2 := 0, p3 := 0, pri := m.pri % 4, group := m.group, launch := launch }

/-- What a migration ships (R370): a task that has come from elsewhere keeps its first origin (log 41). -/
def Migration.shipped (m : Migration) : Shipped := ⟨m.bytes, m.psize, m.srcPkg, m.tag, m.origin.getD ⟨m.srcPkg, m.tag, m.launch⟩⟩

/-- MIGRATION_ARRIVAL (R319, R370): the task enters the run queue, under back-pressure, or is refused. -/
def execMigrationArrival (m : Migration) (s : State) : Result :=
  happens "MIGRATION_ARRIVAL" <|
    if !s.pack.inPod ∨ 24 ≤ m.core ∨ 50 ≤ m.cluster ∨ m.bytes.length ≠ 512 + 512 * m.psize ∨ m.psize = 0 ∨ 8 < m.psize then none
    else
      match s.partOfKey m.cap with
      | none => some (s.contain (24 * m.cluster + m.core) m.cap)
      | some p =>
        match s.migrationCore p m.cluster m.core with
        | none => some (s.emit (.notice m.srcPkg m.tag .refused))
        | some n =>
          let c := s.core n
          if c.launch.isNone ∨ c.tpsize < m.psize then some (s.emit (.notice m.srcPkg m.tag .refused))
          else s.enqueue n (migratedTask m none) (some (Migration.shipped m))

/-- FOENC at the head of a core's vector queue has sent all its words: they are with the judge of another package (R258). -/
def State.streamTaken (s : State) (core : Nat) : Option State :=
  match (s.core core).eng.vq.head? with
  | some cmd =>
    if cmd.op == 0x60 && cmd.status == .running && cmd.sent.contains streamAway then
      some (s.setCmd core .vector { cmd with sent := [streamSent], payload := [] })
    else none
  | none => none

/-- MIGRATION_NOTICE (R258, R339, R364, R370): acceptance frees the helper, whose pending traps pass on as at its end, and counts the task
as away from the launch it belongs to here; a refusal traps it at the access's bundle; an end releases the origin launch; words of a
stream may have been taken, and a group may be terminated elsewhere. -/
def execMigrationNotice (n : Notice) (s : State) : Result :=
  happens "MIGRATION_NOTICE" <|
    let x := s.ctx n.core n.ctx
    match n.kind with
    | .accepted =>
      if x.live && x.wait == some .away then
        let c := (s.core n.core).forgetCtx n.ctx
        let dead := { Ctx.reset with wp := x.wp, psize := x.psize, group := x.group }
        let s1 := s.setCore n.core (c.setCtx n.ctx dead)
        let s2 := x.pend.foldl (fun s p => s.sendTrap n.core n.ctx x.group p) s1
        some (if x.origin.isSome then s2 else s2.addAway x.launch (· + 1))
      else none
    | .refused =>
      if x.live && x.wait == some .away then some (s.setCtx n.core n.ctx { x with wait := none, grant := some .refused }) else none
    | .taken => s.streamTaken n.core
    | .terminated =>
      if x.live && x.wait == some .terminate then some (s.setCtx n.core n.ctx { x with wait := none, grant := some .done }) else none
    | .ended l => some (s.addAway (l.orElse fun _ => (s.core n.core).launch) (· - 1))

end Sys2Proof.Machine
end

