-- ==== Sys2Proof/Machine/Invalidate.lean ====
section
/-! DEFINITION. Invalidations (R77, R78, R306), discarded pages (R74, R75) and the walk as an event (R70, R73). -/

namespace Sys2Proof.Machine

/-- The size of the region that INVPG covers (R77). -/
def giant : Nat := 201326592

/-- A TLB entry of the partition is covered (R75, R77). -/
def Inval.tlb (v : Inval) (t : TlbEntry) : Bool :=
  match v with
  | .page a asid => decide (t.base ≤ a) && decide (a < t.base + t.size) && (t.glob || t.asid == asid)
  | .space asid => !t.glob && t.asid == asid
  | .all => true
  | .pages a n asid => decide (t.base < a + n) && decide (a < t.base + t.size) && (t.glob || t.asid == asid)

/-- A walk-cache entry of the partition is covered: whatever its ASID where an address is named, since a global page may stand below
it. -/
def Inval.walk (v : Inval) (w : WalkEntry) : Bool :=
  match v with
  | .page a _ => decide (w.base ≤ a) && decide (a < w.base + w.size)
  | .space x => w.asid == x
  | .all => true
  | .pages a n _ => decide (w.base < a + n) && decide (a < w.base + w.size)

/-- A registered tensor of the partition is covered (R77). -/
def Inval.tensor (v : Inval) (t : Tensor) : Bool :=
  match v with
  | .page a _ =>
    let lo := a / giant * giant
    decide (t.lo < lo + giant) && decide (lo < t.hi + 192)
  | .space asid => t.asid == asid
  | .all => true
  | .pages _ _ _ => false

/-- A watch of the partition is covered (R306). -/
def Inval.watch (v : Inval) (w : Watch) : Bool :=
  w.flat &&
    (match v with
    | .page a asid => lowOf w.va / giant == a / giant && (w.glob || w.asid == asid)
    | .space asid => !w.glob && w.asid == asid
    | .all => true
    | .pages a n asid => decide (a ≤ lowOf w.va) && decide (lowOf w.va < a + n) && w.asid == asid)

/-- Covered entries leave every TLB and walk cache of the package, and the ingress translation unit (R77). -/
def State.dropTlbs (s : State) (p : Nat) (v : Inval) : State :=
  let keep := fun (l : List TlbEntry) => l.filter fun t => !(t.part == p && v.tlb t)
  let keepW := fun (l : List WalkEntry) => l.filter fun w => !(w.part == p && v.walk w)
  { s with
    cores := s.cores.map (fun c => (c.1, { c.2 with dtlb := keep c.2.dtlb, itlb := keep c.2.itlb }))
    clusters := s.clusters.map (fun c => (c.1, { c.2 with l2tlb := keep c.2.l2tlb, walks := keepW c.2.walks }))
    pack := { s.pack with itu := keep s.pack.itu } }

/-- An invalidation acts on every structure of the package (R77, R306): TLBs, tensor lines, watches. -/
def State.invalidate (s : State) (p : Nat) (v : Inval) : State :=
  let ids := (s.pack.tensors.filter fun t => t.2.part == p && v.tensor t.2).map (·.1)
  let s1 := (s.dropTlbs p v).flushLines (fun l => ids.contains l.id) true
  s1.hitWatches (fun core w => s.partOf core == p && v.watch w) 2

/-- The issuing context has one more invalidation to be acknowledged (R77). -/
def State.awaitAck (s : State) (v : Inval) : State := s.setMe { s.me with invals := s.me.invals ++ [v] }

/-- Every earlier store of the context is performed at PACKAGE, those that a photo-finish unit holds for it too (R75, R77): a speculative
task waits until it is oldest, and is irrevocable from then on. -/
def afterAllStores (s : State) (k : State → Res Unit) : Res Unit :=
  match s.irrevocable with
  | none => .wait s
  | some s => afterStores s k

/-- The mould of INVPG, INVAS and INVALL (R77). -/
def invOp (i : Instr) (f : Vals → State → Except Trap Inval) (s : State) : Result :=
  runInstr i s fun v s =>
    if ascrTc s.myCore.regs.ascr = false then .trap (Trap.illegal 6) none
    else
      trapOr (f v s) fun x =>
        afterAllStores s fun s =>
          .ok () (((s.syncL1 (clusterOf s.curCore) .package).invalidate (s.partOf s.curCore) x).awaitAck x)

/-- INVPG (R77). -/
def execInvpg (o : CXOps) (s : State) : Result :=
  invOp (.invpg o) (fun v s => match s.place s.who v.a 1 with
    | some (.flat va) => .ok (.page va (ascrAsid s.myCore.regs.ascr))
    | _ => .error (Trap.address v.a)) s

/-- INVAS (R77). -/
def execInvas (o : CXOps) (s : State) : Result := invOp (.invas o) (fun v _ => .ok (.space (v.a.extractLsb' 0 15))) s

/-- INVALL (R77). -/
def execInvall (o : CXOps) (s : State) : Result := invOp (.invall o) (fun _ _ => .ok .all) s

/-- TLBSYNC (R78). -/
def execTlbsync (o : CXOps) (s : State) : Result :=
  runInstr (.tlbsync o) s fun _ s => if s.me.invals = [] then .ok () s else .wait (s.waitFor .inval)

/-- A held write was translated through an entry that an invalidation covers (R78). -/
def Inval.held (v : Inval) (h : HeldWrite) : Bool := h.mt.isSome && v.tlb ⟨h.page, h.pageSize, 0, h.asid, h.glob, 0, 0⟩

/-- A task of a unit still holds a write for which an invalidation by a context is not acknowledged (R78): its core belongs to the
partition. -/
def State.holdsFor (s : State) (p : Nat) (v : Inval) (t : PfuTask) : Bool := s.partOf t.core == p && t.held.any v.held

/-- A task that commits only after the task of a context waits behind it (R353). -/
def State.waitsBehind (s : State) (core k cl : Nat) (t : PfuTask) : Bool :=
  match s.taskOf core k with
  | some (c, u) => c == cl && u.before t
  | none => false

/-- INVALIDATION_ACKNOWLEDGE (R78): every structure of the package has acknowledged the oldest invalidation. The writes that units hold
through a covered translation are performed first; a task that can commit only after the issuer's own is aborted instead (log 37). -/
def execInvalidationAcknowledge (core k : Nat) (s : State) : Result :=
  let x := s.ctx core k
  happens "INVALIDATION_ACKNOWLEDGE" <|
    match x.invals with
    | [] => none
    | v :: rest =>
      let p := s.partOf core
      let behind := fun (cl : Nat) (t : PfuTask) => s.holdsFor p v t && s.waitsBehind core k cl t
      if s.clusters.any fun q => q.2.pfu.any fun t => s.holdsFor p v t && !s.waitsBehind core k q.1 t then none
      else
        let s1 : State := { s with clusters := s.clusters.map fun q =>
          (q.1, { q.2 with pfu := q.2.pfu.map fun t => if behind q.1 t then { t with doomed := true } else t }) }
        some (s1.setCtx core k { x with invals := rest, wait := if rest = [] ∧ x.wait = some .inval then none else x.wait })

/-! ## DISCARD (R75) -/

/-- The walk of one page: its leaf, or the page fault. -/
def State.discardLeaf (s : State) (va : Nat) : Except TFault Leaf :=
  let a := s.myCore.regs.ascr
  match s.walkFrom (ascrRoot a) va with
  | .error c => .error (.page c)
  | .ok (l, _) =>
    if l.size ≠ page0 then .error (.page 7)
    else if !eW l.entry then .error (.page 3)
    else
      match s.judgeLeaf (ascrSec a) (l.entry &&& ~~~0x200) l.size va .write .package with
      | .error e => .error e
      | .ok _ => .ok l

/-- One page is discarded: D := 0, DSC := 1; every L1 sector, flat and tensor line of its frame leaves without write-back; its
bytes are undefined. -/
def State.discardPage (s : State) (l : Leaf) : State :=
  let frame := eFrame l.entry
  let inFrame := fun (a : Nat) => decide (frame ≤ a) && decide (a < frame + page0)
  let e := (l.entry &&& ~~~0x100) ||| 0x200
  let s1 := s.clusters.foldl (fun s c => s.forgetL1 c.1 fun line => inFrame (192 * line)) s
  let s2 := (s1.setTlines (s1.pack.tlines.filter fun t => !inFrame t.fill)).setFlines (s1.pack.flines.filter fun b => !inFrame (192 * b.1))
  let s3 := s2.slicePut l.pa (natBytes e.toNat 8) .write .normal
  if eDsc l.entry then s3 else s3.scramble frame page0

/-- Discard pages in order; a fault leaves the earlier ones discarded. A page past the end of the address space is an address trap
(log 50). -/
def State.discardPages (s : State) (p : Word) : List Nat → Except (Trap × State) State
  | [] => .ok s
  | k :: t =>
    let va := lowOf p + k * page0
    let ptr := mkPtr (tagOf p) va
    if vaLimit ≤ va then .error (Trap.address ptr, s)
    else
      match s.discardLeaf va with
      | .error e => .error (e.trap ptr .write, s)
      | .ok l => State.discardPages (s.discardPage l) p t

/-- DISCARD (R75): a holds the start, d the count. -/
def execDiscard (o : CXOps) (s : State) : Result :=
  runInstr (.discard o) s fun v s =>
    let n := v.d.toNat
    match s.place s.who v.a 1 with
    | some (.flat va) =>
      if va % page0 ≠ 0 then .trap (Trap.address v.a) none
      else if n = 0 ∨ 64 < n then .trap (Trap.illegal 6) none
      else if s.me.discarded = some s.bundlePc then
        (if s.me.invals = [] then .ok () (s.setMe { s.me with discarded := none }) else .wait (s.waitFor .inval))
      else
        afterAllStores s fun s =>
          match (s.syncL1 (clusterOf s.curCore) .package).discardPages v.a (List.range n) with
          | .error (t, s1) => .trap t (some s1)
          | .ok s1 =>
            let x := Inval.pages va (n * page0) (ascrAsid s.myCore.regs.ascr)
            let s2 := (s1.invalidate (s.partOf s.curCore) x).awaitAck x
            .wait (s2.setMe { s2.me with discarded := some s.bundlePc, wait := some .inval })
    | _ => .trap (Trap.address v.a) none

/-- TABLE_WALK (R70–R73): a walker of the core's cluster translates an address for a context, sets A or D and fills the TLBs.
A walk that fails changes nothing: its fault is raised by the instruction that needed it. -/
def execTableWalk (core k : Nat) (va : Word) (kind : WalkKind) (s : State) : Result :=
  let acc : Acc := match kind with
    | .read => .read
    | .write => .write
    | .fetch => .fetch
    | .leg => .leg
  happens "TABLE_WALK" <|
    if (s.ctx core k).live then
      match s.place ((s.ctx core k).who core) va 1 with
      | some (.flat a) =>
        some (match s.translate core a acc .cluster with
          | .ok (_, s1) => s1
          | .error _ => s)
      | _ => none
    else none

end Sys2Proof.Machine
end

