-- ==== Sys2Proof/Machine/Network.lean ====
section
/-! DEFINITION. The network and the collectives: routing (R308, R309), planes (R312, R313), groups (R314, R315), collectives
(R316–R318), hurdles (R320, R321) and counter sums (R322). -/

namespace Sys2Proof.Machine

/-! ## Routing (R308, R309) -/

/-- The router that a port of a router leads to (R308); 50 is the hub die. -/
def routerNeighbour (c port : Nat) : Option Nat :=
  let x := c % 25 / 5
  let y := c % 5
  let mk := fun (s x y : Nat) => 25 * s + 5 * x + y % 5
  if c < 25 then
    if port = 0 then some (mk 0 x (y + 1))
    else if port = 1 then some (mk 0 x (y + 4))
    else if 2 ≤ port ∧ port ≤ 6 then some (mk 1 (port - 2) (y + 25 - (port - 2) * x))
    else if port = 7 ∧ y = 0 then some 50
    else none
  else if c < 50 then
    if port = 0 then some (mk 1 x (y + 2))
    else if port = 1 then some (mk 1 x (y + 3))
    else if 2 ≤ port ∧ port ≤ 6 then some (mk 0 (port - 2) ((port - 2) * x + y))
    else none
  else none

/-- First port and step count of the route between two routers: the port itself, or the lowest port to a common
neighbour (R308). -/
def routePort (src dst : Nat) : Nat × Bool :=
  if src = dst then (8, false)
  else
    match (List.range 7).find? fun p => routerNeighbour src p == some dst with
    | some p => (p, false)
    | none =>
      match (List.range 7).find? fun p => match routerNeighbour src p with
        | some m => (List.range 7).any fun q => routerNeighbour m q == some dst
        | none => false with
      | some p => (p, true)
      | none => (8, false)

/-- The routing table entry of R309. -/
def routeEntry (src dst : Nat) (live : Bool) : Byte :=
  let r := routePort src dst
  BitVec.ofNat 8 (r.1 + bit r.2 * 16 + bit live * 32)

/-- A cluster or its slice is live, as the steward's tables say (R309). -/
def State.routerLive (s : State) (c : Nat) : Bool := (s.slice c).state != .retired || !(s.cluster c).withheld

/-- HUBSEL (R309): port 7 of a hub-linked router; else the port of the route to the nearest one, the lowest-numbered of
several. -/
def hubPort (c : Nat) : Nat :=
  let linked := [0, 5, 10, 15, 20]
  if linked.contains c then 7
  else
    match linked.find? fun h => !(routePort c h).2 with
    | some h => (routePort c h).1
    | none => (routePort c 0).1

/-- The steward writes every routing table (R309). -/
def State.writeRoutes (s : State) : State :=
  let all := (List.range 50).flatMap fun a => (List.range 50).map fun b => (a * 50 + b, routeEntry a b (s.routerLive b))
  { s with pack := { s.pack with routes := all, hubsel := (List.range 50).map fun c => (c, BitVec.ofNat 8 (hubPort c)) } }

/-! ## Planes (R312, R313) -/

def linkKey (plane router port : Nat) : Nat := plane * 512 + router * 8 + port

/-- A plane that a link has failed sixteen times in a row. -/
def Planes.broken (q : Planes) (plane : Nat) : Bool := q.retries.any fun e => e.1 / 512 == plane && decide (16 ≤ e.2)

/-- LINK_RETRY (R313): a retry of a link of a live, powered plane passes its check or fails it. -/
def execLinkRetry (plane router port : Nat) (ok : Bool) (s : State) : Result :=
  happens "LINK_RETRY" <|
    let q := s.pack.planes
    let k := linkKey plane router port
    if plane < 4 ∧ q.live.getLsbD plane ∧ q.on.getLsbD plane ∧ (routerNeighbour router port).isSome ∧ !q.broken plane then
      let r := if ok then tabErase q.retries k else tabSet q.retries k (tabGetD q.retries k 0 + 1)
      some { s with pack := { s.pack with planes := { q with retries := r } } }
    else none

/-- The lowest live plane. -/
def lowestLive (live : BitVec 4) : Option Nat := (List.range 4).find? fun n => live.getLsbD n

/-- PLANE_RETIREMENT (R313, R373, R381): the plane leaves the set; if it was the ordered plane, the lowest live plane is, powered;
the steward rewrites the routing tables and posts event TYPE 3 to every partition. -/
def execPlaneRetirement (plane : Nat) (s : State) : Result :=
  happens "PLANE_RETIREMENT" <|
    let q := s.pack.planes
    if plane < 4 ∧ q.live.getLsbD plane ∧ q.broken plane ∧ s.pack.steward.up then
      let off := ~~~(1#4 <<< plane)
      let live := q.live &&& off
      let ord := if q.ord = plane then (lowestLive live).getD q.ord else q.ord
      let on := (q.on &&& off) ||| (if live.getLsbD ord then 1#4 <<< ord else 0)
      let planes : Planes :=
        { ord := ord, on := on, live := live, hold := q.hold, powering := q.powering &&& off &&& ~~~(1#4 <<< ord),
          retries := q.retries.filter fun e => e.1 / 512 != plane }
      let s1 : State := { s with pack := { s.pack with planes := planes } }
      some (s.pack.parts.foldl (fun s p => if p.2.live then s.postEvent p.1 3 plane 0 else s) s1.writeRoutes)
    else none

/-- The next lower and the next higher live plane. -/
def Planes.below (q : Planes) (n : Nat) : Option Nat := ((List.range n).filter fun m => q.live.getLsbD m).getLast?

def Planes.above (q : Planes) (n : Nat) : Option Nat := (List.range 4).find? fun m => decide (n < m) && q.live.getLsbD m

/-- PLANE_POWER_ON (R312, R313): occupancy of the plane below, or HOLD, starts a live plane; the planes power on in
ascending order. -/
def execPlanePowerOn (plane : Nat) (s : State) : Result :=
  happens "PLANE_POWER_ON" <|
    let q := s.pack.planes
    let lower : Bool := match q.below plane with
      | some m => q.on.getLsbD m
      | none => true
    if plane < 4 ∧ q.live.getLsbD plane ∧ !q.on.getLsbD plane ∧ !q.powering.getLsbD plane ∧ (lower ∨ q.hold.getLsbD plane) then
      some { s with pack := { s.pack with planes := { q with powering := q.powering ||| (1#4 <<< plane) } } }
    else none

/-- PLANE_POWERED (R312): the 2,048 network cycles of powering on have passed. -/
def execPlanePowered (plane : Nat) (s : State) : Result :=
  happens "PLANE_POWERED" <|
    let q := s.pack.planes
    if plane < 4 ∧ q.powering.getLsbD plane then
      some { s with pack := { s.pack with planes :=
        { q with powering := q.powering &&& ~~~(1#4 <<< plane), on := q.on ||| (1#4 <<< plane) } } }
    else none

/-- PLANE_POWER_OFF (R312, R313): a plane that has carried no flit for its idle count powers off, while the plane above is
off; never the ordered plane nor one that HOLD keeps. -/
def execPlanePowerOff (plane : Nat) (s : State) : Result :=
  happens "PLANE_POWER_OFF" <|
    let q := s.pack.planes
    let upper := match q.above plane with
      | some m => q.on.getLsbD m || q.powering.getLsbD m
      | none => false
    if plane < 4 ∧ q.on.getLsbD plane ∧ plane ≠ q.ord ∧ !q.hold.getLsbD plane ∧ !upper then
      some { s with pack := { s.pack with planes := { q with on := q.on &&& ~~~(1#4 <<< plane) } } }
    else none

/-- PLCTL (R313). -/
def Planes.plctl (q : Planes) : Word :=
  BitVec.ofNat 64 (q.hold.toNat + q.live.toNat * 16 + q.on.toNat * 256 + q.ord * 4096)

/-! ## Groups (R314, R315) -/

/-- A member record: package, participant (cluster and core), rank, capability. -/
structure Member where
  pkg : Nat
  cluster : Nat
  core : Nat
  rank : Nat
  cap : BitVec 16
deriving DecidableEq, Repr

/-- The member that the record at an offset names; `own` is this package's number. -/
def memberAt (own : Nat) (r : List Byte) (o : Nat) : Member :=
  let p := field r o 2
  let c := field r (o + 3) 1
  ⟨if p = 0xFFFF then own else p, field r (o + 2) 1, if c = 0xFF then 0 else c, field r (o + 4) 2, BitVec.ofNat 16 (field r (o + 6) 2)⟩

def membersOf (own : Nat) (r : List Byte) (n : Nat) : List Member := (List.range n).map fun i => memberAt own r (16 * i)

def Member.key (m : Member) : Nat := (m.pkg * 50 + m.cluster) * 24 + m.core

def Member.global (m : Member) : Nat := 24 * m.cluster + m.core

def allDistinct : List Nat → Bool
  | [] => true
  | a :: t => !t.contains a && allDistinct t

/-- The fields of a record are in range (R314). -/
def memberOk (r : List Byte) (o n : Nat) : Bool :=
  (decide (field r o 2 ≤ 191) || field r o 2 == 0xFFFF) && decide (field r (o + 2) 1 ≤ 49)
    && (decide (field r (o + 3) 1 ≤ 23) || field r (o + 3) 1 == 0xFF) && decide (field r (o + 4) 2 < n) && fieldZero r (o + 8) 8

/-- The records obey R314 and name no core of this package outside the issuer's partition (R315). -/
def State.groupOk (s : State) (core : Nat) (r : List Byte) (n : Nat) : Bool :=
  let l := membersOf s.pack.pkg r n
  ((List.range n).all fun i => memberOk r (16 * i) n) && allDistinct (l.map (·.rank)) && allDistinct (l.map Member.key)
    && l.all fun m => m.pkg != s.pack.pkg || s.partOf m.global == s.partOf core

/-- A collective of the partition on a group is unfinished in this package (R315). -/
def State.collBusy (s : State) (p gid : Nat) : Bool :=
  s.cores.any fun c => s.partOf c.1 == p && c.2.eng.xq.any fun x =>
    decide (0x6B ≤ x.op) && field x.record 20 1 == gid && (x.status != .halted || x.reason == 3)

/-- The group's table entry is replaced or removed; the issue numbers of its collectives start again. -/
def State.setGroup (s : State) (p gid : Nat) (g : Option Group) : State :=
  let k := 64 * p + gid
  let gs := match g with
    | some x => tabSet s.pack.groups k x
    | none => tabErase s.pack.groups k
  { s with
    pack := { s.pack with groups := gs },
    cores := s.cores.map fun c =>
      if s.partOf c.1 = p then (c.1, { c.2 with eng := { c.2.eng with collNo := tabErase c.2.eng.collNo gid } }) else c }

/-- GROUP (R315). -/
def execGroup (o : CROps) (s : State) : Result :=
  runInstr (.group o) s fun v s =>
    let b := v.b.toNat
    let n := b / 2 ^ 16 % 2 ^ 13
    let gid := b % 64
    let del := b / 256 % 2 = 1
    if b / 2 ^ 29 ≠ 0 ∨ b / 2 ^ 9 % 2 ^ 7 ≠ 0 ∨ b / 64 % 4 ≠ 0 ∨ (¬del ∧ (n = 0 ∨ 4096 < n)) then .trap (Trap.illegal 6) none
    else if s.collBusy (s.partOf s.curCore) gid then .wait s
    else if del then .ok () (s.setGroup (s.partOf s.curCore) gid none)
    else
      ((s.readRecord v.a (2 * n) 16).bind fun r s =>
        if s.groupOk s.curCore r n then .ok () (s.setGroup (s.partOf s.curCore) gid (some ⟨r, n, crc32c r⟩))
        else .trap (Trap.illegal 6) none).orElseWait s

/-! ## Collectives (R316–R318) -/

/-- The mould of AGATH, RSCAT and ATOA (R125, R317). -/
def collOp (i : Instr) (o : CROps) (s : State) : Result :=
  runInstr i s fun v s =>
    ((s.readRecord v.a 8 16).bind fun r s =>
      let c := s.myCore
      let range := (s.collRanges s.who i.opcode r).2.head?
      if 16 ≤ c.eng.xq.length ∨ (range.isSome ∧ 16 ≤ c.scoreUsed) then .wait s
      else
        afterStores s fun s =>
          let gid := field r 20 1
          let no := tabGetD c.eng.collNo gid 0
          let cmd := s.newCmd i.opcode c.eng.xseq r v.a 0 (some (lowCc o.d))
          let s1 := s.enterTransfer { cmd with range := range, instNo := no }
          let c1 := s1.myCore
          .ok () (s1.setMyCore { c1 with eng := { c1.eng with collNo := tabSet c1.eng.collNo gid (no + 1) } })).orElseWait s

/-- AGATH (R317). -/
def execAgath (o : CROps) (s : State) : Result := collOp (.agath o) o s

/-- RSCAT (R317). -/
def execRscat (o : CROps) (s : State) : Result := collOp (.rscat o) o s

/-- ATOA (R317). -/
def execAtoa (o : CROps) (s : State) : Result := collOp (.atoa o) o s

/-- A collective as its record and its group say (R316): members, the issuer's own, bytes of a chunk, source and
destination lengths. -/
structure Coll where
  members : List Member
  me : Member
  chunk : Nat
  src : Nat
  dst : Nat
deriving DecidableEq, Repr

/-- The instance of a scope around a core contains a member (R316). -/
def State.memberIn (s : State) (sc : Scope) (core : Nat) (m : Member) : Bool :=
  if m.pkg = s.pack.pkg then sc.covers core m.global else decide (5 ≤ sc.code) && s.pack.inPod && Config.podMember m.pkg

/-- The rules of R316 for a record at an issuer. -/
def State.collPlan (s : State) (core : Nat) (cmd : Cmd) : Eng? Coll :=
  let r := cmd.record
  let n := field r 16 2
  let code := field r 18 1
  let w := cmd.who core
  match s.groupOf core (field r 20 1), Fmt.ofCode code with
  | some g, some f =>
    let ms := membersOf s.pack.pkg g.records g.count
    match ms.find? fun m => m.pkg == s.pack.pkg && m.global == core with
    | none => .error errIll
    | some me =>
      let z := f.unitBytes
      let l := collLens cmd.op g.count r
      let rs := s.collRanges w cmd.op r
      if !(decide (1 ≤ n) && decide (n ≤ 4096)
          && (if cmd.op = 0x6C then code == 3 || code == 4 || code == 6 else decide (code ≤ 8) || code == 14)
          && (if cmd.op = 0x6C then decide (field r 19 1 ≤ 2) else field r 19 1 == 0)
          && decide (field r 20 1 < 64) && scopeOk (field r 21 1) && polOk (field r 22 1) && fieldZero r 23 1 && fieldZero r 28 36
          && ms.all (s.memberIn cmd.scope core)
          && decide (l.1 ≤ 65536) && (cmd.op == 0x6B || decide (g.count * n ≤ 4096))
          && field r 0 8 % z == 0 && field r 8 8 % z == 0) then .error errIll
      else
        match s.place w (ptrField r 0) 1, s.place w (ptrField r 8) 1 with
        | none, _ => .error (errAddr (ptrField r 0))
        | _, none => .error (errAddr (ptrField r 8))
        | _, _ => if anyOverlap rs.1 rs.2 then .error errIll else .ok ⟨ms, me, n * z, l.1, l.2⟩
  | _, _ => .error errIll

/-- The chunk of a source that goes to a rank (R317). -/
def chunkFor (op n rank : Nat) (bs : List Byte) : List Byte := if op = 0x6B then bs else (bs.drop (rank * n)).take n

/-- Keep a contribution, and write it where its kind writes each as it comes (R317). -/
def State.takeChunk (s : State) (core : Nat) (cmd : Cmd) (q : Coll) (rank : Nat) (bs : List Byte) : Eng? (State × Cmd) :=
  let cmd1 := { cmd with got := rank :: cmd.got, stores := cmd.stores ++ [(rank, bs)] }
  if cmd.op = 0x6C then .ok (s, cmd1)
  else
    match s.writeParts core cmd false [(ptrUp (ptrField cmd.record 8) (rank * q.chunk), q.chunk)] bs with
    | .error e => .error e
    | .ok s1 => .ok (s1, cmd1)

/-- Chunks already held are written again after a restart. -/
def State.rewrite (s : State) (core : Nat) (cmd : Cmd) (q : Coll) : List (Nat × List Byte) → Eng? State
  | [] => .ok s
  | (rank, bs) :: t =>
    match s.writeParts core cmd false [(ptrUp (ptrField cmd.record 8) (rank * q.chunk), q.chunk)] bs with
    | .error e => .error e
    | .ok s1 => State.rewrite s1 core cmd q t

/-- The contribution for a member of another package: it carries the group's digest, what the command is, its instance and the member's
capability (R315, R317, R319). -/
def State.chunkOf (s : State) (core : Nat) (cmd : Cmd) (q : Coll) (m : Member) (bs : List Byte) : CollPart :=
  let r := cmd.record
  { gid := field r 20 1, rank := q.me.rank, ext := some (chunkFor cmd.op q.chunk m.rank bs),
    digest := (match s.groupOf core (field r 20 1) with | some g => g.digest | none => 0),
    kind := cmd.op, count := field r 16 2, fmt := BitVec.ofNat 4 (field r 18 1), op := field r 19 1, inst := cmd.instNo, cap := m.cap }

/-- Chunks for members of other packages leave (R317). -/
def State.sendChunks (s : State) (core : Nat) (cmd : Cmd) (q : Coll) (bs : List Byte) : State :=
  q.members.foldl (fun s m =>
    if m.pkg = s.pack.pkg then s
    else s.emit (.chunk m.pkg m.cluster m.core (s.chunkOf core cmd q m bs))) s

/-- The engine's own part (R317): the source is read, its chunks are sent, the own one is taken, and the command parks. -/
def State.collBegin (s : State) (core : Nat) (cmd : Cmd) : Run :=
  let w := cmd.who core
  match s.collPlan core cmd with
  | .error e => .fail s e
  | .ok q =>
    let parts := [(ptrField cmd.record 0, q.src)]
    if s.anyRemote w parts && !cmd.sent.contains collAsked then
      .park (s.askParts core cmd parts) { cmd with sent := collAsked :: cmd.sent }
    else
      match s.readParts w cmd.scope false parts cmd.payload with
      | .error e => .fail s e
      | .ok (bs, s1) =>
        match s1.checkResult core cmd 24 with
        | .error e => .fail s1 e
        | .ok s2 =>
          match if cmd.op = 0x6C then .ok s2 else s2.rewrite core cmd q cmd.stores with
          | .error e => .fail s2 e
          | .ok s3 =>
            let cmd1 := { cmd with sent := cmd.sent.filter (· != collAsked), payload := bs }
            let s4 := if cmd.got.isEmpty then s3.sendChunks core cmd q bs else s3
            if cmd.got.contains q.me.rank then .park s4 cmd1
            else
              match s4.takeChunk core cmd1 q q.me.rank (chunkFor cmd.op q.chunk q.me.rank bs) with
              | .error e => .fail s4 e
              | .ok (s5, cmd2) => .park s5 cmd2

/-- The sender's command of the same instance, once it has sent its chunks (R317). -/
def State.collSender (s : State) (cmd : Cmd) (m : Member) : Option Cmd :=
  (s.core m.global).eng.xq.find? fun x =>
    decide (0x6B ≤ x.op) && field x.record 20 1 == field cmd.record 20 1 && x.instNo == cmd.instNo && !x.payload.isEmpty
      && !x.sent.contains collAsked

/-- In a sender's `sent`: the chunk for a rank was diverted (R319). -/
def diverted (rank : Nat) : Nat := rank + 8192

/-- A contribution reaches a parked collective (R317): kind, COUNT, FMT and OP must be the receiver's own. None: a line of its destination is
held (R62). -/
def State.collTake (s : State) (core : Nat) (cmd : Cmd) (q : Coll) (rank op count fmt fn : Nat) (bs : List Byte) :
    Option State :=
  let r := cmd.record
  if op ≠ cmd.op ∨ count ≠ field r 16 2 ∨ fmt ≠ field r 18 1 ∨ fn ≠ field r 19 1 ∨ bs.length ≠ q.chunk then
    some (s.endRun core cmd (.fail s errIll))
  else
    match s.takeChunk core cmd q rank bs with
    | .error e => if e.reason = 0 then none else some (s.endRun core cmd (.fail s e))
    | .ok (s1, cmd1) => some (s1.setCmd core .transfer cmd1)

/-- A contribution of a member of this package. -/
def State.collLocal (s : State) (core : Nat) (cmd : Cmd) (q : Coll) (m : Member) : Option State :=
  match s.collSender cmd m with
  | none => none
  | some x =>
    if x.sent.contains (diverted q.me.rank) ∨ x.sent.contains q.me.rank then none
    else if clusterOf core ≠ m.cluster ∧ !s.accepts m.cluster core q.me.cap then
      some ((s.contain core q.me.cap).setCmd m.global .transfer { x with sent := diverted q.me.rank :: x.sent })
    else
      let r := x.record
      (s.collTake core cmd q m.rank x.op (field r 16 2) (field r 18 1) (field r 19 1) (chunkFor x.op q.chunk q.me.rank x.payload)).map
        fun s1 => s1.setCmd m.global .transfer { x with sent := q.me.rank :: x.sent }

/-- A parked collective that still lacks the contribution of a rank, with its plan. -/
def State.collParked (s : State) (core i rank : Nat) : Option (Cmd × Coll) :=
  match (s.core core).eng.xq[i]? with
  | none => none
  | some c =>
    if c.op < 0x6B ∨ c.status ≠ .parked ∨ c.sent.contains collAsked ∨ c.got.contains rank then none
    else
      match s.collPlan core c with
      | .error _ => none
      | .ok q => some (c, q)

/-- A contribution of a member of another package, at the port of the addressed core (R315, R319): its capability must be the key there and
its digest that of the receiver's group, whether or not a command waits for it; then the command of its instance takes it. -/
def State.collExt (s : State) (core i : Nat) (part : CollPart) (bs : List Byte) : Option State :=
  let same := match s.groupOf core part.gid with
    | some g => g.digest == part.digest
    | none => false
  if !s.pack.inPod then none
  else if !same || !s.accepts hubRouter core part.cap then some (s.contain core part.cap)
  else
    match s.collParked core i part.rank with
    | none => none
    | some (c, q) =>
      if field c.record 20 1 = part.gid ∧ c.instNo = part.inst ∧ (q.members.any fun m => m.rank == part.rank && m.pkg != s.pack.pkg) then
        s.collTake core c q part.rank part.kind part.count part.fmt.toNat part.op bs
      else none

/-- COLLECTIVE_CONTRIBUTION (R317): a running collective contributes its own part; a parked one receives another member's. -/
def execCollectiveContribution (core i : Nat) (part : CollPart) (s : State) : Result :=
  happens "COLLECTIVE_CONTRIBUTION" <|
    match part.ext with
    | some bs => s.collExt core i part bs
    | none =>
      match (s.core core).eng.xq[i]? with
      | none => none
      | some c =>
        if 0x6B ≤ c.op ∧ c.status = .running then some (s.endRun core c (s.collBegin core c))
        else
          match s.collParked core i part.rank with
          | none => none
          | some (c, q) => (q.members.find? fun m => m.rank == part.rank && m.pkg == s.pack.pkg).bind (s.collLocal core c q)

/-! ### The reduction tree (R318) -/

/-- The order of placement: package, die, cluster, core. -/
def Member.placeKey (m : Member) : Nat := ((m.pkg * 5 + dieOf m.cluster) * 50 + m.cluster) * 24 + m.core

def insertKey {α : Type} (x : Nat × α) : List (Nat × α) → List (Nat × α)
  | [] => [x]
  | y :: t => if x.1 ≤ y.1 then x :: y :: t else y :: insertKey x t

/-- Neighbours with one key, together. -/
def runsBy {α : Type} (f : Nat → Nat) (l : List (Nat × α)) : List (Nat × List α) :=
  l.foldr (fun x acc => match acc with
    | (k, vs) :: t => if f x.1 = k then (k, x.2 :: vs) :: t else (f x.1, [x.2]) :: acc
    | [] => [(f x.1, [x.2])]) []

/-- One level: each run is combined with the tree of R221. -/
def placeLevel {α : Type} (op : α → α → α × FEv) (f : Nat → Nat) (l : List (Nat × α)) : List (Nat × α) × FEv :=
  (runsBy f l).foldr (fun x acc =>
    let r := treeReduce op x.2.length x.2 FEv.none
    match r.1 with
    | some v => ((x.1, v) :: acc.1, r.2.add acc.2)
    | none => acc) ([], FEv.none)

/-- The four levels of R318 over contributions by placement. -/
def placeReduce {α : Type} (op : α → α → α × FEv) (l : List (Nat × α)) : Option α × FEv :=
  let l0 := l.foldr insertKey []
  let a := placeLevel op (fun k => k / 24) l0
  let b := placeLevel op (fun k => k / 50) a.1
  let c := placeLevel op (fun k => k / 5) b.1
  let d := placeLevel op (fun _ => 0) c.1
  ((d.1.head?).map (·.2), ((a.2.add b.2).add c.2).add d.2)

/-- One element of RSCAT from the members' bit patterns by placement (R318). -/
def scatElement (fz : Bool) (code fn : Nat) (l : List (Nat × Nat)) : Nat × FEv :=
  if code = 3 then
    let r := placeReduce (fun a b => (combineI fn a b, FEv.none)) (l.map fun p => (p.1, signed 32 p.2))
    (unsignedBits 32 (r.1.getD 0), r.2)
  else
    let f : FFmt := if code = 4 then .f32 else .bf16
    let ops := l.map fun p => (p.1, flushIn fz f (f.decode p.2))
    let ev := ops.foldl (fun e p => e.add p.2.2) FEv.none
    let r := placeReduce (combineF fz fn) (ops.map fun p => (p.1, p.2.1))
    let v : FVal := match r.1 with
      | some (.nan _) => .nan false
      | some v => v
      | none => .fin false 0 0
    let out := finish f .rne fz v.toX
    (out.1, (ev.add r.2).add out.2)

/-- RSCAT's destination bytes (R318). -/
def scatter (fz : Bool) (code fn z n : Nat) (l : List (Nat × List Byte)) : List Byte × FEv :=
  (List.range n).foldl (fun acc i =>
    let e := scatElement fz code fn (l.map fun p => (p.1, field p.2 (z * i) z))
    (acc.1 ++ natBytes e.1 z, acc.2.add e.2)) ([], FEv.none)

/-- Every contribution has come, and every other member has received this one's (R317). -/
def State.collDone (s : State) (cmd : Cmd) (q : Coll) : Bool :=
  q.members.all fun m => cmd.got.contains m.rank &&
    (m.rank == q.me.rank || (if m.pkg = s.pack.pkg then cmd.sent.contains m.rank else cmd.sent.contains collAcked))

/-- The end of a collective: RSCAT's reduction, the answers of a destination in another package (R79, R128), RESULT. -/
def State.collEnd (s : State) (core : Nat) (cmd : Cmd) (q : Coll) : Run :=
  let r := cmd.record
  let key := fun (rank : Nat) => match q.members.find? fun m => m.rank == rank with
    | some m => m.placeKey
    | none => 0
  let out := if cmd.op = 0x6C then
      scatter cmd.fz (field r 18 1) (field r 19 1) (q.chunk / field r 16 2) (field r 16 2) (cmd.stores.map fun p => (key p.1, p.2))
    else ([], FEv.none)
  let dst := [(ptrField r 8, q.dst)]
  match if cmd.op = 0x6C ∧ !cmd.sent.contains collAnswered then s.writeParts core cmd false dst out.1 else .ok s with
  | .error e => .fail s e
  | .ok s1 =>
    let s2 := if cmd.sent.contains collAnswered then s1 else s1.countEv core out.2
    if s.anyRemote (cmd.who core) dst && !cmd.sent.contains collAnswered then .park s2 { cmd with sent := collWrote :: cmd.sent }
    else
      match s2.writeResult core cmd 24 q.dst with
      | .error e => .fail s1 e
      | .ok s3 => .done s3

/-- COLLECTIVE_COMPLETE (R317, R318): not while the partition is pre-empted. -/
def execCollectiveComplete (core i : Nat) (s : State) : Result :=
  happens "COLLECTIVE_COMPLETE" <|
    match (s.core core).eng.xq[i]? with
    | none => none
    | some c =>
      if c.op < 0x6B ∨ c.status ≠ .parked ∨ (s.part (s.partOf core)).paused ∨ c.sent.contains collWrote then none
      else
        match s.collPlan core c with
        | .error _ => none
        | .ok q => if s.collDone c q then some (s.endRun core c (s.collEnd core c q)) else none

/-! ## Hurdles (R320–R322) -/

/-- What an arrival names (R320): level, id, partition or pod address-space number, instance, n. -/
structure HurdleKey where
  level : Nat
  id : Nat
  part : Nat
  inst : Nat
  n : Nat
deriving DecidableEq, Repr

/-- The hurdle instance of the issuing context (R320): none for a POD level without an entry in the table of R80. -/
def State.hurdleKey (s : State) (level id n : Nat) : Option HurdleKey :=
  let c := s.curCore
  if level = 5 then (s.pasOf c).map fun p => ⟨5, id, p, 0, n⟩
  else
    some ⟨level, id, s.partOf c, match level with
      | 1 => quadOf c
      | 2 => clusterOf c
      | 3 => dieOf (clusterOf c)
      | _ => 0, n⟩

def Episode.of (e : Episode) (k : HurdleKey) : Bool :=
  e.level == k.level && e.id == k.id && e.part == k.part && e.inst == k.inst

/-- The episode that the next arrival joins: open, with an arrival still to come (R320). -/
def Episode.joins (e : Episode) (k : HurdleKey) : Bool :=
  e.of k && !e.complete && decide (e.arrived.length + e.remote < e.n)

def sat64 (n : Nat) : Nat := min n (2 ^ 64 - 1)

/-- A snapshot added to the sums (R322): zeros where the core has contributed already. -/
def Episode.add (e : Episode) (core : Nat) (ev : List W32) : Episode :=
  if e.contributed.contains core then e
  else
    { e with
      sums := (List.range 16).map (fun i => sat64 ((e.sums[i]?).getD 0 + ((ev[i]?).getD 0).toNat)),
      contributed := core :: e.contributed }

/-- The episode that an arrival opens. -/
def HurdleKey.fresh (k : HurdleKey) (serial : Nat) : Episode :=
  { serial := serial, level := k.level, id := k.id, part := k.part, inst := k.inst, n := k.n, arrived := [], remote := 0,
    sums := List.replicate 16 0, contributed := [], complete := false }

/-- The issuing context arrives (R320–R322); `count` says whether it contributes its counters, and `clr` whether it clears
them. -/
def State.arriveAt (s : State) (k : HurdleKey) (count clr : Bool) : State :=
  let core := s.curCore
  let pk := s.pack
  let old := pk.episodes.find? fun e => e.joins k
  let e0 := old.getD (k.fresh pk.nextEpisode)
  let first := !e0.contributed.contains core
  let ev := s.myCore.regs.ev
  let e1 := if count then e0.add core ev else e0
  let e2 := { e1 with arrived := (core, s.curCtx) :: e1.arrived }
  let es := match old with
    | some o => pk.episodes.map fun e => if e.serial = o.serial then e2 else e
    | none => pk.episodes ++ [e2]
  let next := if old.isSome then pk.nextEpisode else pk.nextEpisode + 1
  let s1 : State := { s with pack := { pk with episodes := es, nextEpisode := next } }
  let s2 := if k.level = 5 ∧ s.pack.inPod then s1.emit (.hurdle k.level k.id k.part k.n (if count && first then ev.map (·.toNat) else [])) else s1
  let c := s2.myCore
  let s3 := if count && clr && first then s2.setMyCore { c with regs := { c.regs with ev := List.replicate 16 0 } } else s2
  s3.setMe { s3.me with arrivals := ⟨s3.bundlePc, e2.serial⟩ :: s3.me.arrivals }

/-- The arrival that the issuing bundle has made. -/
def State.myArrival (s : State) : Option Nat := (s.me.arrivals.find? fun a => a.pc == s.bundlePc).map (·.episode)

/-- The context leaves a complete episode; an episode that all have left is forgotten. -/
def State.leaveEpisode (s : State) (serial : Nat) : State :=
  let es := (s.pack.episodes.map fun e =>
    if e.serial = serial then { e with arrived := e.arrived.filter fun a => a != (s.curCore, s.curCtx) } else e).filter
      fun e => !(e.complete && e.arrived.isEmpty)
  let s1 : State := { s with pack := { s.pack with episodes := es } }
  s1.setMe { s1.me with arrivals := s1.me.arrivals.filter fun a => a.episode != serial }

/-- Arrival and wait of HURDLE and CNTSUM (R321, R322): `k` goes on with the episode once it is complete. -/
def State.hurdle (s : State) (level id n : Nat) (count clr : Bool) (k : Episode → State → Res Unit) : Res Unit :=
  let sc := Scope.ofCode level
  match s.myArrival with
  | some serial =>
    (match s.pack.episodes.find? fun e => e.serial == serial with
    | some e => if e.complete then k e s else .wait (s.waitFor (.hurdle serial))
    | none => .wait (s.setMe { s.me with arrivals := s.me.arrivals.filter fun a => a.episode != serial }))
  | none =>
    match s.hurdleKey level id n with
    | none => .trap (Trap.illegal 6) none
    | some key =>
      match s.pack.episodes.find? fun e => e.joins key with
      | some e =>
        if e.n ≠ n then .trap (Trap.illegal 6) none
        else afterLoads s fun s => afterStores s fun s =>
          let s1 := (s.syncL1 (clusterOf s.curCore) sc).arriveAt key count clr
          .wait (s1.waitFor (.hurdle e.serial))
      | none =>
        afterLoads s fun s => afterStores s fun s =>
          let serial := s.pack.nextEpisode
          let s1 := (s.syncL1 (clusterOf s.curCore) sc).arriveAt key count clr
          .wait (s1.waitFor (.hurdle serial))

/-- HURDLE (R321). -/
def execHurdle (o : CIOps) (s : State) : Result :=
  runInstr (.hurdle o) s fun v s =>
    let level := (o.imm.extractLsb' 0 3).toNat
    let id := (o.imm.extractLsb' 3 4).toNat
    let n := v.a.toNat
    if n = 0 ∨ 2 ^ 24 ≤ n ∨ level = 0 ∨ 5 < level then .trap (Trap.illegal 6) none
    else
      s.hurdle level id n false false fun e s =>
        .ok () ((s.dropL1 (clusterOf s.curCore) (Scope.ofCode level)).leaveEpisode e.serial)

/-- The store of dword `i` of CNTSUM's record. -/
def State.sumEntry (s : State) (t : Target) (norm : Word) (i : Nat) (v : Nat) : StoreEntry :=
  { va := ptrUp t.va (8 * i), norm := ptrUp norm (8 * i), data := BitVec.ofNat 64 v, size := 8, pol := s.recordOpts.pol, scope := .cluster,
    order := .rlx, ctx := s.curCtx, pc := s.bundlePc, bundle := s.me.bundles, group := s.me.group, launch := s.me.launch, phase := .ready, ih := s.me.ih }

/-- Perform the sixteen stores of CNTSUM's record (R322): a store that fails raises its fault; none: a line is held (R62). -/
def State.storeSums (s : State) (t : Target) (norm : Word) : List (Nat × Nat) → Option (Except Nat State)
  | [] => some (.ok s.wakeWatches)
  | (i, v) :: l =>
    match s.performStore s.curCore (s.sumEntry t norm i v) with
    | some (.ok s1) => State.storeSums s1 t norm l
    | o => o

/-- The pages of CNTSUM's destination are translated for writing (R322); fuel: the pages that 128 bytes can touch. -/
def State.sumPages (s : State) (t : Target) : Except Trap State :=
  match t.place with
  | .flat va =>
    (match s.translate s.curCore va .write .cluster with
    | .error f => .error (f.trap t.va .write)
    | .ok (_, s1) =>
      match s1.translate s.curCore (va + 127) .write .cluster with
      | .error f => .error (f.trap (ptrUp t.va 127) .write)
      | .ok (_, s2) => .ok s2)
  | _ => .ok s

/-- The mould of CNTSUM (R322). -/
def cntsumOp (i : Instr) (clr : Bool) (s : State) : Result :=
  runInstr i s fun v s =>
    let b := v.b.toNat
    let level := b % 8
    let id := b / 8 % 16
    let n := b / 2 ^ 16 % 2 ^ 24
    if n = 0 ∨ level = 0 ∨ 5 < level ∨ b / 2 ^ 40 ≠ 0 ∨ b / 2 ^ 7 % 2 ^ 9 ≠ 0 then .trap (Trap.illegal 6) none
    else if v.a.toNat % 16 ≠ 0 then .trap (Trap.address v.a) none
    else
      match s.place s.who v.a 128 with
      | none => .trap (Trap.address v.a) none
      | some (.remote pkg _) => (s.migrate v.a pkg).orElseWait s
      | some p =>
        let t : Target := ⟨v.a, p.norm, p⟩
        if vaLimit < lowOf v.a + 128 then .trap (Trap.address v.a) none
        else if s.scoreHit s.curCore (rangeOf t.norm 128) then .wait s
        else
          match s.sumPages t with
          | .error x => .trap x none
          | .ok s =>
            (s.hurdle level id n true clr fun e s =>
              match s.storeSums t t.norm ((List.range 16).map fun i => (i, (e.sums[i]?).getD 0)) with
              | some (.ok s1) => .ok () ((s1.dropL1 (clusterOf s1.curCore) (Scope.ofCode level)).leaveEpisode e.serial)
              | some (.error _) => .trap (Trap.address v.a) none
              | none => .wait s)

/-- CNTSUM (R322). -/
def execCntsum (o : CROps) (s : State) : Result := cntsumOp (.cntsum o) false s

/-- CNTSUM with CLR (R322). -/
def execCntsumClr (o : CROps) (s : State) : Result := cntsumOp (.cntsumClr o) true s

/-- The sums of an episode with arrivals of other packages, whose snapshots the model does not hold (log 23). -/
def freeSums (k : Nat) (l : List Nat) : List Nat :=
  (List.range 16).map fun i => sat64 ((l[i]?).getD 0 + (Config.freeWord (k + i)).toNat)

/-- HURDLE_EPISODE_COMPLETE (R320): the n-th arrival has been made; the waiting contexts' bundles issue again. At POD level
the arrivals that this package has not seen are other packages' (log 23). -/
def execHurdleEpisodeComplete (i : Nat) (s : State) : Result :=
  happens "HURDLE_EPISODE_COMPLETE" <|
    match s.pack.episodes[i]? with
    | none => none
    | some e =>
      let here := e.arrived.length + e.remote
      let pod := e.level == 5 && s.pack.inPod
      if e.complete || (here != e.n && !pod) then none
      else
        let rest := e.n - here
        let e1 := { e with complete := true, remote := e.remote + rest, sums := if rest = 0 then e.sums else freeSums s.free e.sums }
        let s1 : State :=
          { s with pack := { s.pack with episodes := listSet s.pack.episodes i e1 }, free := if rest = 0 then s.free else s.free + 16 }
        some (s1.mapCtxs fun _ _ x => if x.wait = some (.hurdle e.serial) then { x with wait := none } else x)

end Sys2Proof.Machine
end

