-- ==== Sys2Proof/Machine/Steward.lean ====
section
/-! DEFINITION. The steward toward a partition: SWCALL and its functions (R366), pre-emption and resumption (R343, R372), the loss
of a core (R374), and the watchdog (R381). -/

namespace Sys2Proof.Machine

/-! ## SWCALL (R366) -/

/-- The call block that a pointer names: its key in the issuing core's own scratchpad (R366). -/
def State.callBlock (s : State) (p : Word) : Option Nat :=
  if (tagOf p = 0xF0 ∨ tagOf p = 0xF1) ∧ p.toNat % 16 = 0 then
    match s.place s.who p 64 with
    | some (.window k _) => if spKey s.curCore 0 ≤ k ∧ k < spKey (s.curCore + 1) 0 then some k else none
    | _ => none
  else none

/-- Functions of the steward. -/
def knownFunc (f : Nat) : Bool := decide (1 ≤ f) && decide (f ≤ 6)

/-- The call that a block asks for. An unknown function is answered 1; a poisoned block is a bad argument (log 24). -/
def State.newCall (s : State) (k : Nat) : Call :=
  let r := s.bytesAt k 64
  let f := field r 0 1
  { pc := s.bundlePc, ih := s.me.ih, block := k, func := f, resvOk := fieldZero r 1 7 && !s.poisonedAt k 64,
    args := (List.range 6).map (fun i => BitVec.ofNat 64 (field r (8 + 8 * i) 8)),
    answer := if s.pack.steward.up && !knownFunc f then some 1 else none }

def Call.isOf (c : Call) (pc : Word) (ih : Bool) (block : Nat) : Bool := c.pc == pc && c.ih == ih && c.block == block

/-- SWCALL (R366): a release at PACKAGE, the call, the wait for its answer, which is an acquire at PACKAGE. -/
def execSwcall (o : CXOps) (s : State) : Result :=
  runInstr (.swcall o) s fun v s =>
    match s.callBlock v.a with
    | none => .trap (Trap.address v.a) none
    | some k =>
      let mine := fun (c : Call) => c.isOf s.bundlePc s.me.ih k
      match s.me.calls.find? mine with
      | some c =>
        (match c.answer with
        | none => .wait (s.waitFor .call)
        | some n =>
          let s1 := s.dropL1 (clusterOf s.curCore) .package
          let s2 := s1.setMe { s1.me with calls := s1.me.calls.filter (fun c => !mine c), wait := none, grant := none }
          .ok () (s2.setReg o.d.toNat (BitVec.ofNat 64 n)))
      | none =>
        afterStores s fun s =>
          let s1 := s.syncL1 (clusterOf s.curCore) .package
          let c := s1.newCall k
          let s2 := s1.setMe { s1.me with calls := s1.me.calls ++ [c] }
          .wait (if c.answer.isSome then s2 else s2.waitFor .call)

/-- A call has its answer; the context's bundle issues again. -/
def Ctx.answered (x : Ctx) (c : Call) (n : Nat) : Ctx :=
  { x with
    calls := x.calls.map (fun d => if d = c then { d with answer := some n } else d),
    wait := if x.wait = some .call then none else x.wait }

/-- The mould of the functions: the first call of the context that asks for `func` and has no answer; permission, then the
reserved bytes, then the function's own arguments and effect (R366). -/
def serveCall (name : String) (core k func : Nat) (f : Call → State → Nat × State) (s : State) : Result :=
  happens name <|
    let x := s.ctx core k
    if !s.pack.steward.up || !x.live then none
    else
      match x.calls.find? fun c => c.func == func && c.answer.isNone with
      | none => none
      | some c =>
        let r :=
          if func ≤ 3 ∧ ascrTc (s.core core).regs.ascr = false then (2, s)
          else if c.resvOk = false then (3, s)
          else f c s
        some (r.2.setCtx core k ((r.2.ctx core k).answered c r.1))

def Call.arg (c : Call) (i : Nat) : Word := (c.args[i]?).getD 0

/-- A handler address that SETVEC and SETFSVC accept: tag 0x00, a multiple of 8, on a page with X = 1. -/
def State.handlerOk (s : State) (core : Nat) (a : Word) : Bool :=
  let r := (s.core core).regs.ascr
  tagOf a == 0 && a.toNat % 8 == 0 && decide (lowOf a < vaLimit) &&
    (match s.probe (ascrRoot r) (ascrSec r) (lowOf a) .fetch .cluster with
    | .ok _ => true
    | .error _ => false)

/-- SETVEC (R366). -/
def execSetvec (core k : Nat) (s : State) : Result :=
  serveCall "SETVEC" core k 1 (fun c s =>
    let p := s.partOf core
    let a := c.arg 0
    if a = 0 then (0, s.setPart p { s.part p with vector := none })
    else if s.handlerOk core a then (0, s.setPart p { s.part p with vector := some a })
    else (3, s)) s

/-- SETFSVC (R366). -/
def execSetfsvc (core k : Nat) (s : State) : Result :=
  serveCall "SETFSVC" core k 2 (fun c s =>
    let p := s.partOf core
    let a := c.arg 0
    let cl := ((c.arg 1).extractLsb' 0 6).toNat
    let n := ((c.arg 1).extractLsb' 8 5).toNat
    if a = 0 then (0, s.setPart p { s.part p with fsvc := none })
    else if s.handlerOk core a && c.arg 1 &&& ~~~0x1F3F == 0 && decide (cl < 50) && decide (n < 24) && (s.cluster cl).owner == some p then
      (0, s.setPart p { s.part p with fsvc := some (24 * cl + n, a) })
    else (3, s)) s

/-- The physical place of a queue line as the caller's address space gives it (R100). -/
def State.queuePa (s : State) (core : Nat) (q : Word) : Option Nat :=
  let r := (s.core core).regs.ascr
  match s.place ⟨core, 0, 0, 0, []⟩ q 1 with
  | some (.flat va) =>
    (match s.probe (ascrRoot r) (ascrSec r) va .read .package with
    | .ok t => if (s.queueAt t.pa).isSome then some t.pa else none
    | .error _ => none)
  | _ => none

/-- Event entries of a partition that have waited for its queue are posted (R373, R383, log 26). -/
def State.postWaiting (s : State) (p : Nat) : State :=
  let st := s.pack.steward
  let mine := st.journal.filterMap fun w => match w with
    | .event q e => if q = p then some e else none
    | .loss _ _ _ => none
  let rest := st.journal.filter fun w => match w with
    | .event q _ => q != p
    | .loss _ _ _ => true
  mine.foldl (fun s e => s.pushEvent p e) { s with pack := { s.pack with steward := { st with journal := rest } } }

/-- EVENTQ (R366); the events of boot are posted to the queue. -/
def execEventq (core k : Nat) (s : State) : Result :=
  serveCall "EVENTQ" core k 3 (fun c s =>
    let p := s.partOf core
    if c.arg 0 = 0 then (0, s.setPart p { s.part p with eventq := none })
    else
      match s.queuePa core (c.arg 0) with
      | some pa => (0, (s.setPart p { s.part p with eventq := some pa }).postWaiting p)
      | none => (3, s)) s

/-- The open fault of an id that the caller's partition owns. -/
def State.openFault (s : State) (core : Nat) (id : Word) : Option Deferred :=
  s.pack.deferred.find? fun d => d.fid == id.toNat && d.part == s.partOf core

/-- RESUMEFAULT (R80, R366). -/
def execResumefault (core k : Nat) (s : State) : Result :=
  serveCall "RESUMEFAULT" core k 4 (fun c s =>
    match s.openFault core (c.arg 0) with
    | some d => (0, s.retryDeferred d)
    | none => (3, s)) s

/-- FAILFAULT (R80, R366). -/
def execFailfault (core k : Nat) (s : State) : Result :=
  serveCall "FAILFAULT" core k 5 (fun c s =>
    match s.openFault core (c.arg 0) with
    | some d => (0, (s.dropDeferred d.fid).answerReq d.req .failed 0)
    | none => (3, s)) s

/-- STEPINFO (R366): OUT receives the quantum. -/
def execStepinfo (core k : Nat) (s : State) : Result :=
  serveCall "STEPINFO" core k 6 (fun c s =>
    (0, (s.writeNat (c.block + 56) 8 (s.part (s.partOf core)).quantum).wakeWatches)) s

/-! ## The watchdog (R381) -/

def State.setSteward (s : State) (t : Steward) : State := { s with pack := { s.pack with steward := t } }

/-- WATCHDOG_EXPIRY (R381): the steward cores are in reset. -/
def execWatchdogExpiry (s : State) : Result :=
  happens "WATCHDOG_EXPIRY" <|
    if s.pack.steward.up then some (s.setSteward { s.pack.steward with up := false }) else none

/-- A call of an unknown function that has waited is answered (R366). -/
def Ctx.answerUnknown (x : Ctx) : Ctx :=
  (x.calls.filter fun c => c.answer.isNone && !knownFunc c.func).foldl (fun x c => x.answered c 1) x

/-! ## Pre-emption (R343, R372) -/

/-- Numbers of the cores of a list of clusters. -/
def coresOf (cls : List Nat) : List Nat := cls.flatMap fun c => (List.range 24).map fun i => 24 * c + i

/-- The clusters that a partition holds now. -/
def State.holds (s : State) (p : Nat) : List Nat := (List.range 50).filter fun c => (s.cluster c).owner == some p

/-- Running speculative tasks of a cluster return to pending (R372; fuel: the number of tasks). -/
def State.rollBackAll (s : State) (cl : Nat) : Nat → State
  | 0 => s
  | fuel + 1 =>
    match (s.cluster cl).pfu.find? fun t => t.state == .running with
    | none => s
    | some t => State.rollBackAll (s.rollBack cl t false) cl fuel

/-- Running transfer commands of a core complete, halt or park (R343; fuel: the queue's length). -/
def State.runOn (s : State) (core : Nat) : Nat → State
  | 0 => s
  | fuel + 1 =>
    match (s.core core).eng.xq.find? fun c => c.status == .running with
    | none => s
    | some c =>
      State.runOn (if c.op ≤ opPutacc then s.performTransfer core c else s.endRun core c (s.collBegin core c)) core fuel

/-- Enough pieces of work for any vector command: one for each word of its streams, and the phases. -/
def vectorPieces : Nat := 65536

/-- The running vector command of a core completes or halts, as far as its streams let it (R215, R343; fuel: its pieces of work). -/
def State.runVec (s : State) (core : Nat) : Nat → State
  | 0 => s
  | fuel + 1 =>
    match (s.core core).eng.vq.head? with
    | some c =>
      if c.status ≠ .running ∨ c.op = 0x60 then s
      else
        match if c.op = 0x66 then s.fogradRun core c else s.vCommand core c with
        | some s1 => State.runVec s1 core fuel
        | none => s
    | none => s

/-- Ready stores of a core leave the buffer or fault into their records, until none can (R372; fuel: the buffer's length). -/
def State.drainCore (s : State) (core : Nat) : Nat → State
  | 0 => s
  | fuel + 1 =>
    match (List.range (s.core core).su.buf.length).findSome? fun i => s.storeLeaves core i with
    | none => s
    | some s1 => State.drainCore s1 core fuel

/-- What a wait becomes when pre-emption ends it (R307, R358, R368, R372): MWAIT completes with code 4, IDLE completes, and the
other bundles issue again; a task that has been shipped to another package goes on waiting for the notice. -/
def Ctx.endWaitForPreempt (x : Ctx) : Ctx :=
  match x.wait with
  | some (.watch _) => { x with wait := none, grant := some (.code 4) }
  | some .idle => { x with wait := none, grant := some (.code 0) }
  | some .away => x
  | some _ => { x with wait := none, grant := none }
  | none => x

/-- A context is saved (R156, R372): owed results return, its set is written back, its watch is lost (R306). -/
def State.saveCtx (s : State) (core k : Nat) : State :=
  let mine := fun (o : Owed) => o.ctx == k
  let owed := (s.core core).owed
  let s0 := (s.setCore core { s.core core with owed := owed.filter fun o => !mine o }).receiveAll core k (owed.filter mine)
  let x1 := (s0.ctx core k).endWaitForPreempt
  let x2 := { x1 with watch := x1.watch.map fun w => { w with code := 3 } }
  let c := s0.core core
  let s1 := s0.setCore core ({ c.setCtx k x2 with judge := c.judge.leave k }.suspendRelay k)
  if x2.live then s1.writeBack core x2 x2.pc else s1

/-- A core is saved: its live contexts, and Infield's save of its event counters (R188). -/
def State.saveCore (s : State) (core : Nat) : State :=
  let live := ((s.core core).ctxs.filter fun p => p.2.live).map (·.1)
  let s1 := live.foldl (fun s k => s.saveCtx core k) s
  s1.setCore core { s1.core core with evSaved := (s1.core core).regs.ev }

/-- PREEMPTION (R372): contexts stop, running commands complete, halt or park, store buffers drain, register sets are written
back. It waits for the last word of a running FOENC (R258) and for a request that a slice has moved (R62). -/
def execPreemption (p : Nat) (s : State) : Result :=
  happens "PREEMPTION" <|
    let x := s.part p
    if !x.live || x.paused || !s.pack.steward.up then none
    else
      let cls := s.holds p
      let cores := (coresOf cls).filter fun n => (tabGet s.cores n).isSome
      if cores.any fun n => (s.core n).eng.vq.any Cmd.streaming || !(s.core n).moved.isEmpty then none
      else
        let s0 := s.setPart p { x with paused := true }
        let s1 := cls.foldl (fun s c => s.rollBackAll c (s.cluster c).pfu.length) s0
        let s2 := cores.foldl (fun s n => (s.runOn n (s.core n).eng.xq.length).runVec n vectorPieces) s1
        let s3 := cores.foldl (fun s n => s.drainCore n (s.core n).su.buf.length) s2
        some (cores.foldl (fun s n => s.saveCore n) s3)

/-- A context is activated again (R156, R372): its set from its workspace, its program counter from slot 64, but in a handler,
which goes on where it was. Registers that a parked command still owes stay empty. -/
def State.activate (s : State) (core k : Nat) : State :=
  let x := s.ctx core k
  if !x.live then s
  else
    let y := s.loadSet core x.wp.toNat x.psize.toNat x
    let pc := if x.ih then x.pc else s.slotWord core x.wp.toNat 64
    s.setCtx core k
      { y with
        pc := pc, npc := pc, regs := { y.regs with full := x.regs.full, pend := x.regs.pend }, cause := if x.ih then x.cause else y.cause,
        taddr := if x.ih then x.taddr else y.taddr, pcx := if x.ih then x.pcx else y.pcx, targ := if x.ih then x.targ else y.targ }

/-- Key ranges of a cluster's own memories (R105, R116, R234): first key and size. -/
def memoriesOf (cl : Nat) : List (Nat × Nat) := [(spKey (24 * cl) 0, 24 * 0x80000), (accKey (24 * cl) 0 0, 24 * 0x40000), (cmKey cl 0, 0x2000000)]

def inRanges (l : List (Nat × Nat)) (k : Nat) : Bool := l.any fun r => decide (r.1 ≤ k) && decide (k < r.1 + r.2)

/-- A sorted list of cells merged into memory. -/
def putCells (m : List Host.Cell) : List Host.Cell → List Host.Cell
  | [] => m
  | (a, b) :: t => putCells (memSet m a b) t

def Saved.empty : Saved := ⟨[], [], [], [], []⟩

/-- What a core is like after Infield has zeroed it for another partition (R372). -/
def Core.cleared (c : Core) : Core := { Core.reset with lost := c.lost, dtlb := c.dtlb, itlb := c.itlb, evSaved := c.evSaved }

/-- A cluster's state leaves with the partition that held it: copied out and zeroed (R372, log 25). -/
def State.copyOut (s : State) (q cl : Nat) : State :=
  let s0 := (s.cluster cl).expanded.foldl (fun s n => s.evictPack cl n) (s.purgeL1 cl fun _ => true)
  let rs := memoriesOf cl
  let x := s0.part q
  let v := x.saved.getD Saved.empty
  let mine := s0.cores.filter fun p => clusterOf p.1 == cl
  let c := s0.cluster cl
  let v1 : Saved :=
    { cores := mine.foldl (fun t p => tabSet t p.1 p.2) v.cores,
      units := tabSet v.units cl (c.pfu, c.coproc),
      packs := tabSet v.packs cl c.packs,
      mem := putCells v.mem (s0.mem.filter fun e => inRanges rs e.1),
      poison := v.poison ++ s0.poison.filter (inRanges rs) }
  let s1 : State :=
    { s0 with
      mem := s0.mem.filter (fun e => !inRanges rs e.1), poison := s0.poison.filter (fun g => !inRanges rs g),
      cores := s0.cores.map fun p => if clusterOf p.1 = cl then (p.1, p.2.cleared) else p }
  (s1.setCluster cl { c with pfu := [], coproc := [[], [], []], winRecs := [], expanded := [], packs := [], owner := none }).setPart q
    { x with saved := some v1 }

/-- A cluster's state comes back with its partition (R372). -/
def State.copyIn (s : State) (p cl : Nat) : State :=
  let x := s.part p
  let c := s.cluster cl
  let s0 := s.setCluster cl { c with owner := some p, pkey := x.pkey, secure := x.world }
  match x.saved with
  | none => s0
  | some v =>
    let rs := memoriesOf cl
    let mine := v.cores.filter fun e => clusterOf e.1 == cl
    let s1 : State :=
      { s0 with
        mem := putCells s0.mem (v.mem.filter fun e => inRanges rs e.1), poison := s0.poison ++ v.poison.filter (inRanges rs),
        cores := mine.foldl (fun t e => tabSet t e.1 e.2) s0.cores }
    let c1 := s1.cluster cl
    let s2 := match tabGet v.units cl with
      | some u => s1.setCluster cl { c1 with pfu := u.1, coproc := u.2, packs := tabGetD v.packs cl [] }
      | none => s1
    let rest : Saved :=
      { cores := v.cores.filter (fun e => clusterOf e.1 != cl), units := tabErase v.units cl, packs := tabErase v.packs cl,
        mem := v.mem.filter (fun e => !inRanges rs e.1), poison := v.poison.filter fun g => !inRanges rs g }
    s2.setPart p { x with saved := some rest }

/-- PARTITION_RESUME (R372): its clusters pass back to it where a pre-empted partition holds them, its workspaces are
activated, and its contexts go on. -/
def execPartitionResume (p : Nat) (s : State) : Result :=
  happens "PARTITION_RESUME" <|
    let x := s.part p
    let cls := x.clusters.filter fun c => !(s.cluster c).withheld
    let free := cls.all fun c => match (s.cluster c).owner with
      | some q => q == p || (s.part q).paused
      | none => true
    if !x.live || !x.paused || !s.pack.steward.up || !free then none
    else
      let s1 := cls.foldl (fun s c => match (s.cluster c).owner with
        | some q => if q = p then s else s.copyOut q c
        | none => s) s
      let s2 := cls.foldl (fun s c => if (s.cluster c).owner = some p then s else s.copyIn p c) s1
      let s3 := s2.setPart p { s2.part p with paused := false }
      let cores := (coresOf cls).filter fun n => (tabGet s3.cores n).isSome
      some (cores.foldl (fun s n => (((s.core n).ctxs.filter fun q => q.2.live).map (·.1)).foldl (fun s k => s.activate n k) s) s3)

/-! ## The loss of a core (R374) -/

/-- Groups with a live context on a core, each with its launch. -/
def Core.liveGroups (c : Core) : List (BitVec 16 × Option Nat) :=
  (c.ctxs.filter fun p => p.2.live).foldl (fun l p =>
    let g := (p.2.group, p.2.launch)
    if l.contains g then l else l ++ [g]) []

/-- Distinct groups of a list. -/
def distinctGroups (l : List (BitVec 16 × Option Nat)) : Nat :=
  (l.foldl (fun (a : List (BitVec 16)) g => if a.contains g.1 then a else a ++ [g.1]) []).length

/-- A core whose contexts, stores, engine state and memories are lost (R374). Its number, launch, run queue and outbound tasks
stay with the number. -/
def Core.wiped (c : Core) : Core :=
  { Core.reset with
    runq := c.runq, outq := c.outq, launch := c.launch, group := c.group, twbase := c.twbase, tpsize := c.tpsize, cycle0 := c.cycle0,
    evSaved := c.evSaved, regs := { CoreRegs.reset with ascr := c.regs.ascr, eebase := c.regs.eebase, ev := c.evSaved } }

/-- A group is terminated across a launch, and in every package that the launch has reached (R364, R365). -/
def State.terminateAcross (s : State) (core : Nat) (g : BitVec 16) (l : Option Nat) : State :=
  let cores := core :: (s.reached l).filter (· != core)
  (s.terminate cores g).emit (.terminate g (s.part (s.partOf core)).pkey)

/-- Every group with work on a core: contexts, tasks of its run queue, engine commands, and photo-finish tasks that it has enqueued or
runs. -/
def State.groupsOn (s : State) (core : Nat) : List (BitVec 16) :=
  let c := s.core core
  let tasks := (s.cluster (clusterOf core)).pfu.filter fun t => t.core == core || t.srcCore == core
  ((c.ctxs.filter fun p => p.2.live).map (·.2.group) ++ c.runq.map (·.task.group) ++ (c.eng.xq ++ c.eng.vq ++ c.eng.mq ++ c.eng.cq).map (·.group)
    ++ c.mat.drains.map (·.cmd.group) ++ tasks.map (·.task.group)).foldl (fun a g => if a.contains g then a else a ++ [g]) []

/-- Infield takes a cluster from its partition (R374): its launches' groups end there, and no partition holds it. -/
def State.withholdCluster (s : State) (cl : Nat) : State :=
  let s1 := (coresOf [cl]).foldl (fun s n => (s.groupsOn n).foldl (fun s g => s.terminateOn n g) s) s
  let c := s1.cluster cl
  let s2 := s1.setCluster cl { c with withheld := true, owner := none }
  match c.owner with
  | some p => s2.setPart p { s2.part p with clusters := (s2.part p).clusters.filter (· != cl) }
  | none => s2

/-- A core stops at once (R374): its contexts, buffered stores and engine state are lost. -/
def State.stopCore (s : State) (core : Nat) : State :=
  let c := s.core core
  let live := (c.ctxs.filter fun q => q.2.live).map (·.1)
  let s1 := live.foldl (fun s k => s.withdraw core k) (s.abandonRelay core)
  let s2 := s1.setCore core { c.wiped with lost := true }
  let x := s2.cluster (clusterOf core)
  s2.setCluster (clusterOf core) { x with coproc := x.coproc.map fun l => l.filter fun e => e.1 != core }

/-- What the memories of a lost core hold is not stated (R374, log 25). -/
def State.loseMemory (s : State) (core : Nat) : State := (s.scramble (spKey core 0) 0x80000).scramble (accKey core 0 0) 0x40000

/-- The steward's steps after the loss of a core of partition `p` (R188, R374): the groups that were live on it end, TYPE 5 is posted, and
the spare takes the core's number, its scratchpad zeroed, or the cluster is withheld. -/
def State.takeLoss (s : State) (core p : Nat) (gs : List (BitVec 16 × Option Nat)) : State :=
  let cl := clusterOf core
  let s1 := gs.foldl (fun s g => s.terminateAcross core g.1 g.2) s
  let s2 := s1.postEvent p 5 (coreName core) (distinctGroups gs)
  if (s2.cluster cl).spareUsed.isNone then
    let s3 := (s2.zeroKeys (spKey core 0) 0x80000).zeroKeys (accKey core 0 0) 0x40000
    let s4 := (s3.setCore core { s3.core core with lost := false }).setCluster cl { s3.cluster cl with spareUsed := some (indexOf core) }
    (s4.count core .spare 1).postEvent p 4 (coreName core) 0
  else (s2.loseMemory core).withholdCluster cl

/-- CORE_LOSS (R374, R381): the core stops at once. While Infield does not run, its memories hold what is not stated, and the steward's
steps wait in the journal. -/
def execCoreLoss (core : Nat) (s : State) : Result :=
  happens "CORE_LOSS" <|
    let c := s.core core
    if 1200 ≤ core ∨ c.lost ∨ (s.cluster (clusterOf core)).withheld then none
    else
      let p := s.partOf core
      let s1 := s.stopCore core
      if s.pack.steward.up then some (s1.takeLoss core p c.liveGroups)
      else
        let s2 := s1.loseMemory core
        let st := s2.pack.steward
        some (s2.setSteward { st with journal := st.journal ++ [.loss core p c.liveGroups] })

/-- Work that has waited is done (R381). -/
def State.doWork (s : State) (w : StewardWork) : State :=
  match w with
  | .event p e => s.pushEvent p e
  | .loss core p gs => s.takeLoss core p gs

/-- INFIELD_RESTART (R381): Infield resumes from its journal, in the order of the work that waits there; calls of unknown functions are
answered; the other calls and the deferred work come about by their own events again. -/
def execInfieldRestart (s : State) : Result :=
  happens "INFIELD_RESTART" <|
    if s.pack.steward.up then none
    else
      let s1 := s.pack.steward.journal.foldl (fun s w => s.doWork w) (s.setSteward { s.pack.steward with up := true, journal := [] })
      some (s1.mapCtxs fun _ _ x => x.answerUnknown)

end Sys2Proof.Machine
end

