-- ==== Sys2Proof/Machine/Power.lean ====
section
/-! DEFINITION. The host's side and the package's power: BARs, START, DOORBELL, Function Level Reset (R375–R379, R406), the device
register window (R309, R313, R377, R380), islands, operating points and temperature (R384–R386). -/

namespace Sys2Proof.Machine

/-! ## The host (R375, R378, R379, R406) -/

/-- START_REGISTER (R378, R379): a host START store. -/
def execStartRegister (p : Nat) (v : Word) (s : State) : Result :=
  happens "START_REGISTER" <| if (s.part p).live then some (s.startStore p (v.extractLsb' 0 6).toNat) else none

/-- DOORBELL (R406): each bit written as 1 is set. -/
def execDoorbell (p : Nat) (v : Word) (s : State) : Result :=
  happens "DOORBELL" <| if (s.part p).live then some (s.ringDoorbell p v) else none

/-- DOORBELL_POSTING (R406): the bits then set are posted as a task to the partition's own core, and clear. Where the core's cluster has
passed to another partition (R372), no launch of this one is placed there. -/
def execDoorbellPosting (p : Nat) (s : State) : Result :=
  happens "DOORBELL_POSTING" <|
    let x := s.part p
    match x.fsvc with
    | none => none
    | some (core, handler) =>
      let c := s.core core
      if x.doorbell = 0 ∨ c.launch.isNone ∨ (s.cluster (clusterOf core)).owner ≠ some p then none
      else
        let t : TaskMsg :=
          { pc := handler, p0 := x.doorbell.setWidth 64, p1 := 0, p2 := 0, p3 := 0, pri := 0, group := c.group, launch := c.launch }
        (s.enqueue core t none).map fun s1 => s1.setPart p { s1.part p with doorbell := 0 }

/-- A host access ends as an Unsupported Request: nothing changes (R375, R377, R380). -/
def State.unsupported (s : State) (p : Nat) : State := s.emit (.unsupported p)

/-- The physical places of a BAR2 access (R375, R380): every page mapped, every region of the function's world. -/
def State.barPlaces (s : State) (p off n : Nat) : Option (List Nat) :=
  (List.range n).foldr (fun i acc =>
    match acc, tabGet (s.part p).aperture ((off + i) / page0) with
    | some l, some f =>
      let pa := f * page0 + (off + i) % page0
      if s.regionSecure pa == (s.part p).world && decide (pa < framedEnd) then some (pa :: l) else none
    | _, _ => none) (some [])

/-- Bytes at consecutive places, joined: each run with its first place. -/
def byteRuns (l : List (Nat × Byte)) : List (Nat × List Byte) :=
  l.foldr (fun q acc => match acc with
    | (k, bs) :: t => if q.1 + 1 = k then (q.1, q.2 :: bs) :: t else (q.1, [q.2]) :: acc
    | [] => [(q.1, [q.2])]) []

/-- HOST_BAR_WRITE (R57, R375, R377, R379, R380): a posted write, performed at SYSTEM scope. -/
def execHostBarWrite (p bar off : Nat) (bytes : List (BitVec 8)) (s : State) : Result :=
  happens "HOST_BAR_WRITE" <|
    if !(s.part p).live ∨ bytes.isEmpty then none
    else if bar = 0 then
      if 0x10000 < off + bytes.length ∨ 8 < off % 8 + bytes.length then some (s.unsupported p)
      else
        some (match s.writeReg p (off / 8 * 8) (BitVec.ofNat 64 (bytesToNat bytes * 256 ^ (off % 8))) with
        | some s1 => s1
        | none => s.unsupported p)
    else if bar = 2 then
      some (match s.barPlaces p off bytes.length with
      | none => s.unsupported p
      | some l => ((byteRuns (l.zip bytes)).foldl (fun s q =>
          (s.seenRange q.1 q.2.length).slicePut q.1 q.2 .write .normal) s).wakeWatches)
    else none

/-- HOST_BAR_READ (R375, R377, R379, R380): what a read of poisoned bytes returns is not stated (log 26). -/
def execHostBarRead (p bar off n : Nat) (s : State) : Result :=
  happens "HOST_BAR_READ" <|
    if !(s.part p).live ∨ n = 0 then none
    else if bar = 0 then
      if 0x10000 < off + n ∨ 8 < off % 8 + n then some (s.unsupported p)
      else
        some (match s.readReg p (off / 8 * 8) with
        | some v => s.emit (.hostRead p (natBytes (v / 256 ^ (off % 8)) n))
        | none => s.unsupported p)
    else if bar = 2 then
      some (match s.barPlaces p off n with
      | none => s.unsupported p
      | some l =>
        if l.any fun pa => s.poisonedAt pa 1 then { s with free := s.free + 1 }.emit (.hostRead p (freeBytes s.free n))
        else (l.foldl (fun s pa => s.touchFlat pa 1 .read .normal) s).emit (.hostRead p (l.map s.byteAt)))
    else none

/-- The launches of a partition: id and entry. -/
def State.launchesOf (s : State) (p : Nat) : List (Nat × Launch) := s.pack.launches.filter fun l => l.2.part == p

/-- Groups of a launch that have a context, a task or a command somewhere. -/
def State.groupsOfLaunch (s : State) (id : Nat) : List (BitVec 16) :=
  (s.reached (some id)).foldl (fun a n =>
    (s.groupsOn n).foldl (fun a g => if a.contains g then a else a ++ [g]) a) []

/-- A core that Infield keeps for a pre-empted partition, after every group of its launches has ended (R365, R378): its contexts have ended,
its tasks, frozen stores and records are gone, its commands are dropped, and no launch stands on it. -/
def Core.flrEnded (c : Core) : Core :=
  let all := fun (_ : Cmd) => true
  let c1 := (((c.discardIf .matrix all).discardIf .vector all).discardIf .transfer all).discardIf .copro all
  let c2 := (((c1.setHalt .matrix false).setHalt .vector false).setHalt .transfer false).setHalt .copro false
  { c2 with
    ctxs := c2.ctxs.map fun p => (p.1, if p.2.live then { Ctx.reset with wp := p.2.wp, psize := p.2.psize, group := p.2.group } else p.2)
    su := StoreUnit.reset, runq := [], relay := Relay.reset, seqs := List.replicate 3 Seq.reset, launch := none, group := 0
    mat := { c2.mat with drains := [] } }

/-- What Infield keeps of a pre-empted partition after its Function Level Reset (R378): ended cores, no photo-finish task, scratchpads and
cluster memories all zero. -/
def Saved.flrEnded (v : Saved) : Saved :=
  let acc := fun (k : Nat) => (List.range 50).any fun cl => decide (accKey (24 * cl) 0 0 ≤ k) && decide (k < accKey (24 * cl) 0 0 + 24 * 0x40000)
  { cores := v.cores.map fun p => (p.1, p.2.flrEnded)
    units := v.units.map fun u => (u.1, [], [[], [], []])
    packs := v.packs.map fun u => (u.1, [])
    mem := v.mem.filter fun e => acc e.1
    poison := v.poison.filter acc }

/-- FUNCTION_LEVEL_RESET (R378): groups of the partition's launches end, its queued launches are dropped, its scratchpads and
cluster memories are zeroed, and every STATUS field of its start queue is 0. -/
def execFunctionLevelReset (p : Nat) (s : State) : Result :=
  happens "FUNCTION_LEVEL_RESET" <|
    let x := s.part p
    if !x.live then none
    else
      let ids := (s.launchesOf p).map (·.1)
      let s1 := ids.foldl (fun s id =>
        let cores := s.reached (some id)
        (s.groupsOfLaunch id).foldl (fun s g => (s.terminate cores g).emit (.terminate g x.pkey)) s) s
      let cores := coresOf (s.holds p)
      let s2 : State :=
        { s1 with
          cores := s1.cores.map fun c => if c.2.launch.any ids.contains then (c.1, { c.2 with launch := none, group := 0 }) else c,
          pack := { s1.pack with launches := s1.pack.launches.filter fun l => l.2.part != p } }
      let s3 := cores.foldl (fun s n => s.zeroKeys (spKey n 0) 0x80000) s2
      let s4 := (s.holds p).foldl (fun s c =>
        (s.zeroKeys (cmKey c 0) 0x2000000).setCluster c { s.cluster c with packs := [], expanded := [] }) s3
      let s5 := (List.range 64).foldl (fun s i => s.homeWrite 50 (x.sqbase + 128 * i + 88) (List.replicate 8 0)) s4
      let y := s5.part p
      some ((s5.setPart p { y with starts := [], busy := [], saved := y.saved.map Saved.flrEnded }).wakeWatches)

/-! ## The device register window, as the steward writes it (R10, R309, R313, R377, R380) -/

/-- No live non-secure partition owns a frame of a region (R380). -/
def State.regionFree (s : State) (r : Nat) : Bool :=
  !s.pack.parts.any fun p => p.2.live && !p.2.world && p.2.frames.any fun f => decide (f.1 < 64 * r + 64) && decide (64 * r < f.1 + f.2)

/-- The world bit of a region. -/
def State.setRegion (s : State) (r : Nat) (secure : Bool) : State :=
  let rest := s.pack.regionNs.filter (· != r)
  { s with pack := { s.pack with regionNs := if secure then rest else rest ++ [r] } }

/-- A write of a core's ASCR (R67, R380): SEC is always the bit of its cluster. -/
def State.writeAscr (s : State) (core : Nat) (v : Word) : State :=
  let c := s.core core
  let sec : Word := if (s.cluster (clusterOf core)).secure then 1#64 <<< 61 else 0
  s.setCore core { c with regs := { c.regs with ascr := (v &&& 0x400FFFFFFFFFFFFF) ||| sec } }

/-- REGISTER_WRITE (R10, R52, R67, R309, R313, R377, R380): a steward write to a register that has no row of its own; one to a read-only
register is ignored. A region's world bit changes only while no live non-secure partition owns a frame of it. -/
def execRegisterWrite (reg : WindowReg) (v : Word) (s : State) : Result :=
  happens "REGISTER_WRITE" <|
    if !s.pack.steward.up then none
    else
      match reg with
      | .readOnly p off => if (s.part p).live && (off == 0x08 || off == 0x10 || off == 0x18) then some s else none
      | .plctl => some { s with pack := { s.pack with planes := { s.pack.planes with hold := v.extractLsb' 0 4 } } }
      | .route r d =>
        if r < 50 ∧ d < 50 then some { s with pack := { s.pack with routes := tabSet s.pack.routes (50 * r + d) (v.extractLsb' 0 8 &&& 0x3F) } }
        else none
      | .hubsel r => if r < 50 then some { s with pack := { s.pack with hubsel := tabSet s.pack.hubsel r (v.extractLsb' 0 8 &&& 7) } } else none
      | .sliceWorld h => if h < 50 then some (s.setSlice h { s.slice h with secure := v.getLsbD 0 }) else none
      | .ascr core => if core < 1200 then some (s.writeAscr core v) else none
      | .channelMeta ch i =>
        if ch < 320 ∧ i < 8 then some (s.setChannel ch ((s.channel ch).writeMeta i v)) else none
      | .regionWorld r => if r < 273067 ∧ s.regionFree r = true then some (s.setRegion r (v.getLsbD 0)) else none

/-! ## Islands and operating points (R384–R386) -/

/-- The island of a cluster (R384). -/
def islandOf (cl : Nat) : Nat := 3 * dieOf cl + cl / 25

/-- A compute island. -/
def isCompute (i : Nat) : Bool := decide (i < 15) && i % 3 != 2

/-- The clusters of a compute island (R384). -/
def clustersOfIsland (i : Nat) : List Nat := (List.range 5).map fun k => 25 * (i % 3) + 5 * (i / 3) + k

/-- The operating point for the largest PACE (R385). -/
def clockFor (pace : Nat) : Nat :=
  if 192 ≤ pace then 800 else if 128 ≤ pace then 700 else if 64 ≤ pace then 560 else if 16 ≤ pace then 400 else 200

/-- One operating point lower (R386). -/
def oneLower (mhz : Nat) : Nat :=
  if 800 ≤ mhz then 700 else if 700 ≤ mhz then 560 else if 560 ≤ mhz then 400 else 200

def State.island (s : State) (i : Nat) : Island := (s.pack.power.islands[i]?).getD ⟨800, 800, false⟩

def State.setPower (s : State) (p : Power) : State := { s with pack := { s.pack with power := p } }

def State.setIsland (s : State) (i : Nat) (x : Island) : State :=
  s.setPower { s.pack.power with islands := listSet s.pack.power.islands i x }

/-- The clock that an island's choice means while the limit holds or not (R386). -/
def Power.clock (p : Power) (choice : Nat) : Nat := if p.limited then oneLower choice else choice

/-- A change begins where the clock differs from the one it should be (R385). -/
def State.steer (s : State) (i : Nat) (choice : Nat) : State :=
  let x := s.island i
  s.setIsland i { x with chosen := choice, changing := x.changing || x.mhz != s.pack.power.clock choice }

/-- Every compute island goes to the clock of a choice. -/
def State.steerAll (s : State) (f : Nat → Nat) : State :=
  ((List.range 15).filter isCompute).foldl (fun s i => s.steer i (f i)) s

/-- The largest PACE of an island (R385). -/
def State.islandPace (s : State) (i : Nat) : Nat := (clustersOfIsland i).foldl (fun m c => max m (s.cluster c).pace) 0

/-- Cycles of 8 µs at 800 MHz (R9, R385). -/
def tickCycles : Nat := 6400

/-- POWER_MANAGER_TICK (R385): once in 8 µs. -/
def execPowerManagerTick (s : State) : Result :=
  happens "POWER_MANAGER_TICK" <|
    if s.cycle / tickCycles ≤ s.pack.power.tickAt then none
    else
      let s1 := s.setPower { s.pack.power with tickAt := s.cycle / tickCycles }
      some (s1.steerAll fun i => clockFor (s.islandPace i))

/-- OPERATING_POINT_CHANGE_END (R385): the island runs at its new clock. -/
def execOperatingPointChangeEnd (i : Nat) (s : State) : Result :=
  happens "OPERATING_POINT_CHANGE_END" <|
    let x := s.island i
    if i < 16 ∧ x.changing then some (s.setIsland i { x with mhz := s.pack.power.clock x.chosen, changing := false }) else none

/-- The limit of R386 is set or lifted. -/
def State.limit (s : State) (b : Bool) : State :=
  (s.setPower { s.pack.power with limited := b }).steerAll fun i => (s.island i).chosen

/-- THERMAL_LIMIT (R386): power or temperature has passed its threshold. -/
def execThermalLimit (s : State) : Result :=
  happens "THERMAL_LIMIT" <| if s.pack.power.limited then none else some (s.limit true)

/-- THERMAL_LIMIT_LIFT (R386). -/
def execThermalLimitLift (s : State) : Result :=
  happens "THERMAL_LIMIT_LIFT" <| if s.pack.power.limited then some (s.limit false) else none

/-- THERMAL_SHUTDOWN (R386): every island stops, no event is posted, and the journal holds a failed step 7. -/
def execThermalShutdown (s : State) : Result :=
  happens "THERMAL_SHUTDOWN" <|
    if s.pack.power.stopped then none
    else
      let fl := s.pack.flash
      let s1 := s.setPower { s.pack.power with stopped := true }
      some { s1 with pack := { s1.pack with flash := { fl with journal := ⟨7, 0, 2, 115, fl.boot⟩ :: fl.journal } } }

/-- A cluster's island is not changing its operating point (R385): its contexts issue and its engines progress. -/
def State.clusterRuns (s : State) (cl : Nat) : Bool := !(s.island (islandOf cl)).changing

end Sys2Proof.Machine
end

