-- ==== Sys2Proof/Machine/Boot.lean ====
section
/-! DEFINITION. Boot (R383), the configuration record (R382, R393), the partitions' images (R392) and the loss of power. The choices
that the manual leaves to the model are in log 26. -/

namespace Sys2Proof.Machine

/-- A boot as it goes on: the machine, the board flash after each write, oldest first, whether boot has stopped, and the
events that wait for partitions: those of one cluster's owner, or of every partition. -/
structure Boot where
  s : State
  trace : List Flash
  stop : Bool
  events : List (Option Nat × Nat)
deriving DecidableEq, Repr

def State.setFlash (s : State) (f : Flash) : State := { s with pack := { s.pack with flash := f } }

/-- A write of board flash. -/
def Boot.write (b : Boot) (f : Flash) : Boot := { b with s := b.s.setFlash f, trace := b.trace ++ [f] }

/-- A journal record (R383). -/
def Boot.note (b : Boot) (step attempt outcome detail : Nat) : Boot :=
  let f := b.s.pack.flash
  b.write { f with journal := ⟨step, attempt, outcome, detail, f.boot⟩ :: f.journal }

/-- The resource that a journal record of a step is about: plane, core, slice, partition. -/
def resourceOf (r : JournalRec) : Nat :=
  if r.step = 9 then r.detail / 0x10000 else if 4 ≤ r.step ∧ r.step ≤ 6 then r.detail else 0

/-- The step failed for a resource at the boot before (R383): its last record there is "failed" or "begun". -/
def Flash.failedBefore (f : Flash) (step res : Nat) : Bool :=
  match f.journal.find? fun r => r.boot + 1 == f.boot && r.step == step && resourceOf r == res with
  | some r => r.outcome == 0 || r.outcome == 2
  | none => false

/-- Only function 0 is presented, BOOTSTAT names the step, and vector 2 is raised (R383). -/
def State.bootFailed (s : State) (step : Nat) : State :=
  let p := { Part.reset with live := true, bootstat := BitVec.ofNat 64 (step * 256) }
  ({ s with pack := { s.pack with parts := [(0, p)] } }).emit (.msix 0 2)

/-- A mandatory step (R383): its action, or its alternate where it failed at the boot before. Where the action fails, boot stops;
where the alternate fails, function 0 alone is presented. -/
def Boot.mandatory (b : Boot) (step : Nat) (act alt : State → Option State) : Boot :=
  if b.stop then b
  else
    let again := b.s.pack.flash.failedBefore step 0
    let k := if again then 1 else 0
    let b1 := b.note step k 0 0
    match (if again then alt else act) b1.s with
    | some s => ({ b1 with s := s } : Boot).note step k (if again then 4 else 1) 0
    | none =>
      let b2 := b1.note step k 2 0
      { b2 with stop := true, s := if again then b2.s.bootFailed step else b2.s }

/-- An optional step for one resource (R383): skipped where it failed at the boot before; skipped or failed, the resource is
treated as failed. -/
def Boot.optional (b : Boot) (step res : Nat) (ok : Bool) (failed : Boot → Boot) : Boot :=
  if b.stop then b
  else
    let skip := b.s.pack.flash.failedBefore step res
    let b1 := b.note step 0 0 res
    if skip then failed (b1.note step 0 3 res) else if ok then b1.note step 0 1 res else failed (b1.note step 0 2 res)

/-- An event for partitions that do not exist yet (R373). -/
def Boot.event (b : Boot) (who : Option Nat) (type a x : Nat) : Boot :=
  { b with events := b.events ++ [(who, type + a * 2 ^ 8 + x * 2 ^ 32)] }

/-! ## The steps -/

/-- Every cluster directory and every slice holds a map (R60). -/
def State.adoptMap (s : State) (map : List Nat) (gen : Nat) : State :=
  let s1 : State := { s with pack := { s.pack with map := map, gen := gen } }
  let s2 := (List.range 50).foldl (fun s c => s.setCluster c { s.cluster c with sliceMap := map, sliceGen := gen }) s1
  (List.range 50).foldl (fun s h => s.installMap map gen h) s2

/-- Planes that a record retires (R313, R382). -/
def State.dropPlane (s : State) (plane : Nat) : State :=
  let q := s.pack.planes
  let live := q.live &&& (0xF#4 ^^^ (1#4 <<< plane))
  let ord := if live.getLsbD q.ord then q.ord else (lowestLive live).getD q.ord
  { s with pack := { s.pack with planes := { q with live := live, ord := ord, on := if live.getLsbD ord then 1#4 <<< ord else 0 } } }

/-- What an accepted record sets up before its partitions: slice map and generation, retired planes and slices, spares (R382). -/
def State.adopt (s : State) (r : ConfigRec) : State :=
  let f := s.pack.flash
  let s1 := (s.setFlash { f with record := some r, previous := some r }).adoptMap r.sliceMap r.sliceGen
  let s2 := r.retiredPlanes.foldl (fun s p => s.dropPlane p) s1
  let gone := (List.range 50).filter fun h => !r.sliceMap.contains h
  let s3 := gone.foldl (fun s h => s.setSlice h { s.slice h with state := .retired }) s2
  r.spares.foldl (fun s e => s.setCluster e.1 { s.cluster e.1 with spareUsed := some e.2 }) s3

/-- A record is accepted when both signatures verify and its version is the counter (R382); a record newer than the counter leaves
the one before it valid. -/
def acceptRecord (f : Flash) (b : BootInput) : Option ConfigRec :=
  if b.recordSigs then
    match (if b.record.isSome then b.record else f.record) with
    | some r => if r.version = f.counter then some r else f.previous.filter fun q => q.version == f.counter
    | none => none
  else none

/-- The alternate of step 2: the previous accepted record; if none, the identity map and no partitions. -/
def State.adoptPrevious (s : State) : State :=
  match s.pack.flash.previous with
  | some r => s.adopt r
  | none => s.setFlash { s.pack.flash with record := none }

/-- A plane that fails training is retired (R313). -/
def Boot.planes (b : Boot) (i : BootInput) : Boot :=
  ((List.range 4).filter fun p => b.s.pack.planes.live.getLsbD p).foldl (fun b p =>
    b.optional 4 p (!i.badLinksPlanes.contains p) fun b => ({ b with s := b.s.dropPlane p } : Boot).event none 3 p 0) b

/-- A core that fails its self-test is replaced by its cluster's spare, where that is unused and good; otherwise the cluster is
withheld. A number that the record gives to the spare is the spare's. -/
def Boot.cores (b : Boot) (i : BootInput) : Boot :=
  (List.range 1200).foldl (fun b n =>
    let cl := clusterOf n
    let onSpare := (b.s.cluster cl).spareUsed == some (indexOf n)
    let good := if onSpare then !i.badSpares.contains cl else !i.badCores.contains n
    b.optional 5 n good fun b =>
      let x := b.s.cluster cl
      if x.spareUsed.isNone ∧ !i.badSpares.contains cl then
        let b1 : Boot := { b with s := (b.s.setCluster cl { x with spareUsed := some (indexOf n) }).count n .spare 1 }
        b1.event (some cl) 4 (coreName n) 0
      else { b with s := b.s.setCluster cl { x with withheld := true } }) b

/-- A slice that fails its self-test is retired: its buckets go to the other live slices (R61). -/
def Boot.slices (b : Boot) (i : BootInput) : Boot :=
  ((List.range 50).filter fun h => (b.s.slice h).state == .live).foldl (fun b h =>
    b.optional 6 h (!i.badSlices.contains h) fun b =>
      let live := b.s.liveSlices.filter (· != h)
      if live.isEmpty then b
      else
        let gen := (b.s.pack.gen + 1) % 2 ^ 32
        let s1 := b.s.adoptMap (rebuildMap h live (List.range 50) b.s.pack.map).1 gen
        ({ b with s := s1.setSlice h { s1.slice h with state := .retired } } : Boot).event none 2 h gen) b

/-- Every compute island at a clock (R383 step 7). -/
def State.allIslands (s : State) (mhz : Nat) : State :=
  ((List.range 15).filter isCompute).foldl (fun s i => s.setIsland i ⟨mhz, mhz, false⟩) s

/-- Infield starts: the compute islands are let go and the routing tables are written (R309, R383). -/
def State.startInfield (s : State) : State := ((s.allIslands 800).setSteward { s.pack.steward with up := true }).writeRoutes

/-- Infield writes the table of the ingress translation unit (R80): at most 64 entries, each address space at most once. -/
def State.writeSpaces (s : State) (l : List (Nat × Nat × Word × BitVec 15)) : State :=
  let add := fun (t : Tab PodSpace) (e : Nat × Nat × Word × BitVec 15) =>
    let x : PodSpace := ⟨e.2.1, e.2.2.1, e.2.2.2⟩
    if 64 ≤ t.length ∨ t.any (fun y => y.2 == x) then t else tabSet t e.1 x
  { s with pack := { s.pack with podSpaces := l.foldl add [] } }

/-- Infield writes a record as two writes: the record with version counter + 1, then the counter (R382). -/
def Boot.writeRecord (b : Boot) (f : ConfigRec → ConfigRec) : Boot :=
  let fl := b.s.pack.flash
  let r := b.s.nextRecord f
  (b.write { fl with record := some r }).write { fl with record := some r, previous := some r, counter := fl.counter + 1 }

/-- The map that boot has changed is recorded (R63). -/
def Boot.recordMap (b : Boot) : Boot :=
  if (b.s.pack.flash.record.map (·.sliceMap)).getD (List.range 50) = b.s.pack.map then b
  else b.writeRecord fun q => { q with sliceMap := b.s.pack.map, sliceGen := b.s.pack.gen }

/-- Frames that a definition gives, in order, without those of the overflow areas, which no partition receives (R118). -/
def frameList (d : PartDef) : List Nat :=
  (d.frames.flatMap fun r => (List.range r.2).map fun i => r.1 + i).filter fun f => !overflowFrame f

/-- Neighbouring frames of a list as ranges. -/
def frameRuns (l : List Nat) : List (Nat × Nat) :=
  l.foldr (fun f acc => match acc with
    | (g, n) :: t => if f + 1 = g then (f, n + 1) :: t else (f, 1) :: acc
    | [] => [(f, 1)]) []

/-- BAR2's pages: at most 64 GiB (R375). -/
def aperturePages : Nat := 1398101

/-- A partition is created (R375, R376, R380): its clusters, its key and world, its registers, and the regions of a non-secure
partition's frames. A cluster that another partition already holds stays with it, and this one waits for its turn (R372). -/
def State.createPart (s : State) (p : Nat) (d : PartDef) : State :=
  let cls := d.clusters.filter fun c => !(s.cluster c).withheld
  let taken := cls.any fun c => (s.cluster c).owner.isSome
  let fs := frameList d
  let part : Part :=
    { Part.reset with
      live := true, clusters := cls, pkey := d.pkey, world := d.world, tc := d.tc, sqbase := d.sqbase, frames := frameRuns fs,
      quantum := d.quantum, isvMin := d.isvMin, paused := taken,
      aperture := (fs.take aperturePages).zipIdx.map fun e => (e.2, e.1) }
  let s1 := s.setPart p part
  let s2 := if taken then s1
    else cls.foldl (fun s c => s.setCluster c { s.cluster c with owner := some p, pkey := d.pkey, secure := d.world }) s1
  if d.world then s2 else fs.foldl (fun s f => if s.pack.regionNs.contains (f / 64) then s else s.setRegion (f / 64) false) s2

/-- BOOTSTAT's image state (R377). -/
def State.bootstat (s : State) (p v : Nat) : State := s.setPart p { s.part p with bootstat := BitVec.ofNat 64 v }

/-- A partition starts without an image: BOOTSTAT shows 3 and the failing step 9, and vector 2 is raised (R375, R377, R383). -/
def State.noImage (s : State) (p : Nat) : State := (s.bootstat p (3 + 9 * 256)).emit (.msix p 2)

/-- Bytes placed at a virtual address that begins a page, by the frames that Infield gives its pages (log 26): none where the partition
does not own the frame. -/
def State.placeBytes (s : State) (p : Nat) (frames : List (Nat × Nat)) (va : Nat) (bs : List Byte) : State :=
  (List.range ((bs.length + page0 - 1) / page0)).foldl (fun s j =>
    match tabGet frames (va / page0 + j) with
    | some f => if (s.part p).ownsFrame f then s.slicePut (f * page0) ((bs.drop (page0 * j)).take page0) .write .normal else s
    | none => s) s

/-- An accepted image is loaded and started (R383, R391, log 26): its sections, the table entries that map them, and a launch at its entry
by the partition's start queue (R378). -/
def State.startImage (s : State) (p : Nat) (img : ImageInput) : State :=
  let s1 := (imgSections img.bytes).foldl (fun s x => s.placeBytes p img.frames x.va (x.loaded img.bytes)) s
  let s2 := img.tables.foldl (fun s e =>
    if (s.part p).ownsRange e.1 8 then s.slicePut e.1 (natBytes e.2.toNat 8) .write .normal else s) s1
  let i := img.entry % 64
  let rec_ := (natBytes (imgEntry img.bytes) 8 ++ img.record.drop 8 ++ List.replicate 128 0).take 128
  (s2.slicePut ((s.part p).sqbase + 128 * i) rec_ .write .normal).startStore p i

/-- A partition's minimum image security version in a record. -/
def raiseIsv (r : ConfigRec) (p isv : Nat) : ConfigRec :=
  { r with parts := r.parts.map fun e => if e.1 = p then (p, { e.2 with isvMin := max e.2.isvMin isv }) else e }

/-- An accepted image (R393): an advancing one raises the minimum before it runs. -/
def Boot.advance (b : Boot) (p : Nat) (img : ImageInput) : Boot :=
  let x := b.s.part p
  let isv := imgIsv img.bytes
  if imgPolicy img.bytes / 2 % 2 = 1 ∧ x.isvMin < isv then
    let b1 := b.writeRecord fun r => raiseIsv r p isv
    { b1 with s := b1.s.setPart p { b1.s.part p with isvMin := isv } }
  else b

/-- The image of a partition is verified, loaded and started (R392, R393): the state of BOOTSTAT and the journal's last record. A rejected
image loads nothing. -/
def Boot.image (b : Boot) (p : Nat) (d : PartDef) (img : ImageInput) : Boot :=
  let x := b.s.part p
  match imageFails img d.edKeys d.mlKeys x.isvMin x.world with
  | some (check, code) =>
    let b1 := b.note 9 0 2 (p * 0x10000 + code * 0x100 + check)
    { b1 with s := b1.s.noImage p }
  | none =>
    let b1 := b.advance p img
    ({ b1 with s := (b1.s.startImage p img).bootstat p 2 } : Boot).note 9 0 1 (p * 0x10000)

/-- Step 9 for one partition (R383). An image that the definition names and boot does not find fails. -/
def Boot.partition (b : Boot) (i : BootInput) (p : Nat) (d : PartDef) : Boot :=
  if b.stop then b
  else
    let skip := b.s.pack.flash.failedBefore 9 p
    let b0 := b.note 9 0 0 (p * 0x10000)
    let b1 : Boot := { b0 with s := b0.s.createPart p d }
    if skip then
      let b2 := b1.note 9 0 3 (p * 0x10000)
      { b2 with s := b2.s.noImage p }
    else
      match d.image with
      | none => b1.note 9 0 1 (p * 0x10000)
      | some n =>
        match tabGet i.images n with
        | some img => b1.image p d img
        | none =>
          let b2 := b1.note 9 0 2 (p * 0x10000)
          { b2 with s := b2.s.noImage p }

/-- A channel that fails training on the alternate too is reported for every frame that has a line in it (R59). -/
def Boot.channels (b : Boot) (i : BootInput) : Boot :=
  if i.badChannels.isEmpty then b
  else
    let hit := fun (f : Nat) => (List.range 256).any fun k => i.badChannels.contains (channelOf (f * page0 + 192 * k))
    let l := b.s.pack.parts.flatMap fun e =>
      if e.2.live then ((e.2.frames.flatMap fun r => (List.range r.2).map fun k => r.1 + k).filter hit).map fun f => (e.1, 1 + f * 2 ^ 32)
      else []
    { b with s := b.s.setSteward { b.s.pack.steward with journal := b.s.pack.steward.journal ++ l.map fun v => .event v.1 v.2 } }

/-- The events of boot wait until each partition has named its event queue (R373, R383, log 26). -/
def Boot.post (b : Boot) : Boot :=
  let l := b.s.pack.parts.flatMap fun e =>
    if e.2.live then (b.events.filter fun v => match v.1 with
      | some cl => e.2.clusters.contains cl
      | none => true).map fun v => (e.1, v.2)
    else []
  { b with s := b.s.setSteward { b.s.pack.steward with journal := b.s.pack.steward.journal ++ l.map fun v => .event v.1 v.2 } }

/-- The machine as boot finds it: reset, with the board flash as it is, at the next boot number, and Infield not yet started. -/
def State.bootStart (s : State) (i : BootInput) : State :=
  let f := s.pack.flash
  let q := Package.reset
  { State.reset with
    pack := { q with flash := { f with boot := f.boot + 1 }, pkg := i.pkg, inPod := i.inPod, steward := { q.steward with up := false } } }

/-- Boot: the steps in order (R383). -/
def State.boot (s : State) (i : BootInput) : Boot :=
  let b0 : Boot := ⟨s.bootStart i, [], false, []⟩
  let b1 := b0.mandatory 1 (fun s => if i.firmwareA then some s else none) (fun s => if i.firmwareB then some s else none)
  let b2 := b1.mandatory 2 (fun s => (acceptRecord s.pack.flash i).map s.adopt) (fun s => some s.adoptPrevious)
  let b3 := b2.mandatory 3 (fun s => if i.badChannels.isEmpty then some (s.train 128 []) else none) fun s => some (s.train 96 i.badChannels)
  let b4 := b3.planes i
  let b5 := b4.cores i
  let b6 := b5.slices i
  let b7 := b6.mandatory 7 (fun s => if i.zeroOk then some s else none)
    (fun s => let s1 := s.allIslands 200
      if i.zeroAltOk then some s1 else none)
  let b8 := b7.mandatory 8 (fun s => if i.infieldA then some s.startInfield else none)
    (fun s => if i.infieldB then some s.startInfield else none)
  if b8.stop then b8
  else
    let b9 := b8.recordMap
    let parts := match b9.s.pack.flash.record with
      | some r => r.parts
      | none => []
    let b10 := ((parts.foldl (fun b e => b.partition i e.1 e.2) b9).channels i).post
    { b10 with s := b10.s.writeSpaces i.podSpaces }

/-- PACKAGE_RESET (R375, R376, R383, R392, R393): the package is reset and boots. -/
def execPackageReset (i : BootInput) (s : State) : Result := happens "PACKAGE_RESET" (some (s.boot i).s)

/-- What board flash holds when power fails (R382, R383): as it is; after n of the writes of a boot; or with the record of a slice
map installation written and the counter not yet incremented. -/
def State.flashLeft (s : State) (during : Option (BootInput × Nat)) (torn : Option Nat) : Option Flash :=
  let f := s.pack.flash
  match during, torn with
  | none, none => some f
  | some (i, n), none => some ((f :: (s.boot i).trace)[n]?.getD f)
  | none, some h =>
    if (s.slice h).state = .flushing then
      let map := (s.slice h).gaining.foldl (fun m e => listSet m e.1 e.2) s.pack.map
      f.record.map fun r => { f with record := some { r with version := f.counter + 1, sliceMap := map, sliceGen := (s.pack.gen + 1) % 2 ^ 32 } }
    else none
  | some _, some _ => none

/-- POWER_LOSS (R382, R383): everything but board flash is lost. -/
def execPowerLoss (during : Option (BootInput × Nat)) (torn : Option Nat) (s : State) : Result :=
  happens "POWER_LOSS" <|
    (s.flashLeft during torn).map fun f => { State.reset with pack := { Package.reset with flash := f, pkg := s.pack.pkg, inPod := s.pack.inPod } }

end Sys2Proof.Machine
end

