-- ==== Sys2Proof/Machine/Relay.lean ====
section
/-! DEFINITION. Relay mode (R274–R286): legs, the sequencer's steps, RELAY and RSTAT. -/

namespace Sys2Proof.Machine

/-! ## A leg's header (R39, R276–R278) -/

structure Leg where
  hdr : List Byte

def Leg.baton (l : Leg) : Nat := field l.hdr 2 1
def Leg.codec (l : Leg) : Nat := field l.hdr 3 1 % 16
def Leg.fmt (l : Leg) : Nat := field l.hdr 3 1 / 16
def Leg.route (l : Leg) : Nat := field l.hdr 4 2
def Leg.flags (l : Leg) : Nat := field l.hdr 6 2
def Leg.next (l : Leg) : Word := ptrField l.hdr 8
def Leg.alt (l : Leg) : Word := ptrField l.hdr 16
def Leg.xlen (l : Leg) : Nat := field l.hdr 24 4
def Leg.plen (l : Leg) : Nat := field l.hdr 28 4
def Leg.k (l : Leg) : Nat := field l.hdr 32 2
def Leg.n (l : Leg) : Nat := field l.hdr 34 2
def Leg.shape (l : Leg) : Nat := field l.hdr 36 4
def Leg.band (l : Leg) : Nat := field l.hdr 40 2
def Leg.seq (l : Leg) : W32 := BitVec.ofNat 32 (field l.hdr 56 4)

/-- A leg address obeys R275. -/
def State.legAddress (s : State) (p : Word) : Bool :=
  placeOf p % 192 == 0 && (tagOf p == 0 || tagOf p == 0xF2 || (tagOf p ≤ 0xC0 && tagOf p == s.pack.pkg + 1))

def batonOk (b : Nat) : Bool := (1 ≤ b && b ≤ 4) || (8 ≤ b && b ≤ 12)

/-- XLEN and geometry of an MMA or MMAS leg (R277, R279). -/
def Leg.productOk (l : Leg) (f : Fmt) : Bool :=
  f.family.isSome && decide (l.flags ≤ 3) && decide (1 ≤ l.k) && decide (1 ≤ l.n) && decide (l.n ≤ 128) && l.shape % 48 == 0
    && decide (l.shape ≤ 524240)
    && (if l.baton = 1 then l.k % f.perUnit == 0 && l.xlen == f.bytesOf (l.k * l.n)
        else l.k % 4 == 0 && (l.k / 2) % f.perUnit == 0
          && l.xlen == (f.bytesOf (l.k / 2 * l.n) + 15) / 16 * 16 + l.k / 4 * l.n)

/-- XLEN, geometry and destination of a LOAD or FOW leg (R277, R280). -/
def Leg.loadOk (l : Leg) (f : Fmt) : Bool :=
  l.flags == 0 && l.band == 0 && l.shape % f.align == 0 && decide (l.shape + l.xlen ≤ 524288)
    && (if l.baton = 3 then
          (weightFmt l.fmt).isSome && decide (1 ≤ l.k) && decide (l.k ≤ 4096) && decide (1 ≤ l.n) && decide (l.n ≤ 128)
            && l.xlen == l.k * l.n * f.unitBytes
        else l.k == 0 && l.n == 0 && decide (1 ≤ l.xlen) && decide (l.xlen ≤ 65536) && l.xlen % f.unitBytes == 0)

/-- The control batons' fields (R277). -/
def Leg.controlOk (l : Leg) : Bool :=
  field l.hdr 3 1 == 0 && l.route == 0 && l.plen == 0 && l.xlen == 0 && l.k == 0 && l.n == 0 && l.shape == 0 && l.band == 0
    && (match l.baton with
      | 8 => l.flags % 4 == 0
      | 9 => l.flags == 0 && l.next != 0 && l.alt != 0
      | 10 | 11 => l.flags == 0 && l.next == 0 && l.alt == 0
      | _ => l.flags == 0 && l.alt != 0)

/-- Check 6 of R276, but for the route. -/
def Leg.fieldsOk (l : Leg) : Bool :=
  fieldZero l.hdr 42 14 && decide (l.flags < 64) &&
    (if 8 ≤ l.baton then l.controlOk
    else
      match Fmt.ofCode l.fmt with
      | none => false
      | some f => decide (l.codec ≤ 2) && l.alt == 0 && (if l.baton ≤ 2 then l.productOk f else l.loadOk f))

/-- Bits of a mask. -/
def maskBits (m n : Nat) : List Nat := (List.range n).filter fun i => m.testBit i

/-- The target cores of a route, as global numbers (R278): none where the route is ill-formed. The list of a listed route is
read from the owner's scratchpad. -/
def State.legTargets (s : State) (core route : Nat) : Option (List Nat) :=
  let i := route % 4096
  let base := 24 * clusterOf core
  match route / 4096 with
  | 0 => if i = 0 then some [core] else none
  | 1 => if 1 ≤ i ∧ i < 16 then some ((maskBits i 4).map fun j => base + indexOf core / 4 * 4 + j) else none
  | 2 => if i = 0xFFF then some ((List.range 24).map (base + ·)) else if i ≤ 23 then some [base + i] else none
  | 3 =>
    let l := s.bytesAt (spKey core (16 * i)) 16
    let m := field l 0 3
    if m ≠ 0 ∧ fieldZero l 3 13 then some ((maskBits m 24).map (base + ·)) else none
  | _ => none

/-! ## Fetching (R275, R276) -/

/-- A leg that has passed its checks: the header, its decoded payload and its targets. -/
structure Fetched where
  leg : Leg
  data : List Byte
  targets : List Nat

def Fetched.hold (f : Fetched) : HeldLeg := ⟨f.leg.hdr, f.data, f.targets⟩

def HeldLeg.fetched (f : HeldLeg) : Fetched := ⟨⟨f.hdr⟩, f.data, f.targets⟩

/-- The owner as an agent. -/
def State.relayWho (s : State) (core : Nat) : Who := (s.ctx core (s.core core).relay.owner).who core

/-- Read bytes of a leg: LEGX pages, or the expanded window. -/
def State.legRead (s : State) (core : Nat) (p : Word) (n : Nat) : Eng? (List Byte × State) :=
  if n = 0 then .ok ([], s)
  else
    match s.pieces (s.relayWho core) p n .leg .cluster with
    | .error e => .error e
    | .ok (l, s1) => s1.readPieces core l

/-- The CRC of a leg (R39). -/
def legCrc (hdr payload : List Byte) : Nat := (crc32c (hdr.take 60 ++ payload)).toNat

/-- Check 7: the payload decodes; the control batons have none. -/
def Leg.decode (l : Leg) (payload : List Byte) : StreamRes :=
  if 8 ≤ l.baton then .ok []
  else decodeStream l.codec ((Fmt.ofCode l.fmt).getD .n8) l.xlen payload

/-- The outcome of a fetch: a leg, or its fault reason with the leg whose destinations SHORT or LONG leaves undefined. -/
inductive FetchRes where
  | ok (f : Fetched) (s : State)
  | bad (reason : Nat) (s : State) (spoilt : Option Fetched)

/-- A LOAD or FOW destination is undefined (R124, R276). -/
def State.spoilTargets (s : State) (f : Fetched) : State :=
  (f.targets.foldl (fun s t => (s.seenRange (spKey t f.leg.shape) f.leg.xlen).scramble (spKey t f.leg.shape) f.leg.xlen) s).wakeWatches

/-- The checks of R276, in their order; the current leg's address and sequence are kept as soon as its header is read. -/
def State.fetchLeg (s : State) (core : Nat) (p : Word) : FetchRes :=
  if s.legAddress p = false then .bad 2 s none
  else
    match s.legRead core p 64 with
    | .error e => .bad e.reason s none
    | .ok (h, s1) =>
      let l : Leg := ⟨h⟩
      let c := s1.core core
      let s2 := s1.setCore core { c with relay := { c.relay with curSeq := l.seq } }
      if field h 0 2 ≠ 0x5A4C then .bad 16 s2 none
      else if 68640 < l.plen then .bad 1 s2 none
      else
        match s2.legRead core (ptrUp p 64) l.plen with
        | .error e => .bad e.reason s2 none
        | .ok (pay, s3) =>
          if legCrc h pay ≠ field h 60 4 then .bad 17 s3 none
          else if batonOk l.baton = false then .bad 18 s3 none
          else if l.fieldsOk = false then .bad 1 s3 none
          else
            match s3.legTargets core l.route with
            | none => .bad 1 s3 none
            | some ts =>
              match l.decode pay with
              | .ok d => .ok ⟨l, d, ts⟩ s3
              | .err r _ => .bad r s3 (if (r = 8 ∨ r = 9) ∧ (l.baton = 3 ∨ l.baton = 4) then some ⟨l, [], ts⟩ else none)

/-! ## Acting (R279–R281) -/

/-- The chosen next link; 0 is RET with a stack and EXIT without one (R281). -/
def Relay.goTo (r : Relay) (next : Word) : Relay :=
  if next ≠ 0 then { r with next := next }
  else
    match r.stack with
    | a :: t => { r with next := a, stack := t }
    | [] => { r with ending := true }

/-- A leg is performed: COUNT advances; one that was restarted makes the continuation successful (R284). -/
def Relay.counted (r : Relay) : Relay :=
  let back := r.resumed && r.reason != 20
  { r with
    count := (r.count + 1) % 256, accepted := [], held := none, reason := if back then 0 else r.reason, resumed := r.resumed && !back }

/-- A leg is performed, and the next is chosen. -/
def Relay.performed (r : Relay) (next : Word) : Relay := r.counted.goTo next

def State.setRelay (s : State) (core : Nat) (r : Relay) : State := s.setCore core { s.core core with relay := r }

/-- The record that a leg's command stands for at a target (R279). -/
def legRecord (target : Nat) (l : Leg) : List Byte :=
  natBytes (mkPtr 0xF0 (indexOf target * 0x80000 + l.shape)).toNat 8 ++ natBytes 0 16 ++ natBytes l.band 2 ++ natBytes 0 4
    ++ natBytes (1 - l.flags % 2) 1 ++ natBytes 0 17 ++ natBytes 8 1 ++ natBytes 2 1 ++ natBytes 0 14

/-- A leg's command enters a target's matrix queue (R279, R282). -/
def State.deliverLeg (s : State) (core : Nat) (f : Fetched) (t : Nat) : State :=
  let r := (s.core core).relay
  let x := s.ctx core r.owner
  let l := f.leg
  let cmd : Cmd :=
    { seq := (s.core t).eng.mseq, op := if l.baton = 1 then opMma else opMmas, record := legRecord t l, addr := r.cur,
      arg := BitVec.ofNat 64 (l.flags / 2 % 2), pc := r.pc, ctx := r.owner, group := x.group, launch := x.launch, counter := none,
      fz := fzOf x.fpcr, pol := (x.cpr.extractLsb' 0 3).toNat, wp := x.wp, psize := x.psize, status := .queued, reason := 0,
      range := none, reg := none, instNo := r.no, got := [l.fmt, l.k, l.n], sent := [], stores := [], leg := some core,
      payload := f.data, exited := false, counted := false, race := Race.none, token := none }
  let s1 := s.enterMatrix t cmd
  let r1 := (s1.core core).relay
  s1.setRelay core { r1 with accepted := r1.accepted ++ [t], targets := r1.targets ++ [⟨r1.no, r1.cur, r1.curSeq, t, false, none⟩] }

/-- An MMA or MMAS leg: its command enters the queue of every target that has room; the leg passes on once every target has
accepted it (R279). None: no target has room. -/
def State.actProduct (s : State) (core : Nat) (f : Fetched) : Option State :=
  let r := (s.core core).relay
  let todo := f.targets.filter fun t => !r.accepted.contains t
  let now := todo.filter fun t => decide ((s.core t).eng.mq.length < 8)
  if now.isEmpty && !todo.isEmpty then none
  else
    let s1 := now.foldl (fun s t => s.deliverLeg core f t) s
    let r1 := (s1.core core).relay
    if todo.length = now.length then some ((s1.setRelay core (r1.performed f.leg.next)).settleLeg core r1.no) else some s1

/-- A LOAD or FOW leg may not start yet (R280): an earlier leg's command is outstanding at a target, a target's judge is open, or a
target's bytes are held by the range scoreboard. -/
def State.loadWaits (s : State) (core : Nat) (f : Fetched) : Bool :=
  let l := f.leg
  f.targets.any fun t => (s.core core).relay.targets.any (fun x => x.core == t && !x.finished)
    || (l.baton == 3 && ((s.core t).judge.state == 1 || (s.core t).judge.state == 2))
    || s.scoreHit core ⟨0xF0, indexOf t * 0x80000 + l.shape, l.xlen⟩

/-- A LOAD or FOW leg (R280). -/
def State.actLoad (s : State) (core : Nat) (f : Fetched) : Option State :=
  let r := (s.core core).relay
  let l := f.leg
  if s.loadWaits core f then none
  else
    let s1 := f.targets.foldl (fun s t =>
      ((s.seenRange (spKey t l.shape) f.data.length).putWindow (spKey t l.shape) f.data).blur (clusterOf t) (spKey t l.shape) f.data.length) (s.flushSync (clusterOf core))
    some ((s1.setRelay core (r.performed l.next)).wakeWatches)

/-- A CODE leg leads to no bundle address: the address trap at the owner's RELAY, precisely, with the relay suspended before the leg (R14,
R286). -/
def State.badFragment (s : State) (core : Nat) (p : Word) : State :=
  let c := s.core core
  let r := c.relay
  let x := c.ctx r.owner
  let t := Trap.address p
  if x.ih then s.unhandled core r.owner t.code
  else
    let l : Latched := { code := t.code, reason := 0, reg := 0, slotA := false, addr := p, pcx := r.pc, arg := 0, saved := r.pc }
    s.setCore core { c.setCtx r.owner { x with pc := r.pc, npc := r.pc, wait := none, grant := some (.trapping l) } with
      relay := { r with state := 3, held := none } }

/-- A control leg (R281). -/
def State.actControl (s : State) (core : Nat) (l : Leg) : State :=
  let c := s.core core
  let r := c.relay
  let x := c.ctx r.owner
  match l.baton with
  | 8 =>
    let taken := x.regs.pred (l.flags / 8 % 8) == (l.flags / 4 % 2 == 1)
    s.setRelay core (r.performed (if taken then l.alt else l.next))
  | 9 =>
    if 8 ≤ r.stack.length then s.legFault core 19 r.cur
    else
      let q : Relay := { r with stack := l.next :: r.stack }
      s.setRelay core (q.performed l.alt)
  | 10 =>
    (match r.stack with
    | [] => s.legFault core 19 r.cur
    | a :: t =>
      let q : Relay := { r with stack := t }
      s.setRelay core (q.performed a))
  | 11 => s.setRelay core { r.counted with ending := true }
  | _ =>
    if l.alt.toNat % 8 ≠ 0 then s.badFragment core l.alt
    else
    let r1 := { r.counted with state := 2, succ := some l.next }
    s.setCore core { c.setCtx r.owner { x with pc := l.alt, npc := l.alt, wait := none, grant := none } with relay := r1 }

/-- The sequencer may take a step: the relay runs, and its owner waits in its RELAY. -/
def State.relayRuns (s : State) (core : Nat) : Bool :=
  let c := s.core core
  c.relay.state == 1 && (c.ctx c.relay.owner).live && (c.ctx c.relay.owner).wait == some .relay
    && !(s.part (s.partOf core)).paused

/-- A leg begins: it has a number of its own, unless some of its targets have accepted it already. -/
def Relay.begin (r : Relay) : Relay := { r with cur := r.next, no := if r.accepted = [] then r.no + 1 else r.no }

/-- The bytes that the next leg's fetch reads: its header, and its payload once the header gives PLEN. -/
def State.legSpan (s : State) (core : Nat) (p : Word) : Nat :=
  match s.legRead core p 64 with
  | .ok (h, _) => 64 + (if Leg.plen ⟨h⟩ ≤ 68640 then Leg.plen ⟨h⟩ else 0)
  | .error _ => 64

/-- A fetched leg acts. None: it waits. -/
def State.actLeg (s : State) (core : Nat) (f : Fetched) : Option State :=
  if f.leg.baton ≤ 2 then s.actProduct core f
  else if f.leg.baton ≤ 4 then s.actLoad core f
  else some (s.actControl core f.leg)

/-- LEG_FETCH (R275–R281): the sequencer fetches, checks and performs the next leg, which it keeps where the leg has to wait; a LOAD or FOW that is SHORT or LONG waits for its
targets like any other before its destinations become undefined (R280). -/
def execLegFetch (core : Nat) (s : State) : Result :=
  happens "LEG_FETCH" <|
    let r := (s.core core).relay
    let w := s.relayWho core
    if !s.relayRuns core || r.ending then none
    else
      match r.held with
      | some h => s.actLeg core h.fetched
      | none =>
        if s.rangesHeld core (s.normRange w r.next (s.legSpan core r.next)) then none
        else
          match (s.setRelay core r.begin).fetchLeg core r.next with
          | .bad reason s1 none => if reason = 0 then none else some (s1.legFault core reason r.next)
          | .bad reason s1 (some f) => if s1.loadWaits core f then none else some ((s1.spoilTargets f).legFault core reason r.next)
          | .ok f s1 =>
            let s2 := s1.setRelay core { (s1.core core).relay with held := some f.hold }
            some ((s2.actLeg core f).getD s2)

/-- RELAY_END (R282): every leg command has completed; the owner's bundle completes, with an acquire at CLUSTER. -/
def execRelayEnd (core : Nat) (s : State) : Result :=
  happens "RELAY_END" <|
    let c := s.core core
    let r := c.relay
    if !s.relayRuns core || !r.ending || !r.targets.isEmpty then none
    else
      let x := c.ctx r.owner
      let done := { x with pc := x.pc + 8, npc := x.pc + 8, wait := none, grant := none, bundles := x.bundles + 1 }
      let c1 := (c.setCtx r.owner done).sawBands r.owner fun b => b.last == some 16 && b.pending == 0
      some (s.setCore core { c1 with
        relay := { Relay.reset with no := r.no, cur := r.cur, curSeq := r.curSeq, reason := r.reason, count := r.count } })

/-! ## RELAY (R283) -/

/-- A halted leg command restarts from its beginning, whatever its reason (R285): it names its band again where its count had
fallen. -/
def Core.restartLeg (c : Core) (owner : Nat) : Core :=
  let mine := fun (x : Cmd) => x.leg == some owner && x.status == .halted
  match c.eng.mq.find? mine with
  | none => c
  | some x =>
    let again := x.reason ≠ 3
    let named := if again then c.mat.bands.any fun b => b.named x.handle else x.counted
    let c1 := if again ∧ named then c.onBand x.handle fun b => { b with pending := b.pending + 1, seen := [] } else c
    let y := { x with status := .queued, reason := 0, counted := named }
    (c1.setQueue .matrix (c1.eng.mq.map fun q => if q.seq = x.seq then y else q)).setHalt .matrix false

/-- The leg numbers of outstanding commands that have met an error. -/
def Relay.erring (r : Relay) : List Nat := distinct ((r.targets.filter fun t => t.error.isSome).map (·.no))

/-- The owner's relay goes on (R283, R285, R286): the commands of the leg whose TARGET fault was delivered restart where they halted; then a
further leg that has met an error meanwhile has its own fault. -/
def State.continueRelay (s : State) : State :=
  let core := s.curCore
  let r := s.myCore.relay
  let again := fun (t : LegTarget) => t.error.isSome && r.faulted == some t.no
  let s1 := (r.targets.filter again).foldl (fun s t => s.setCore t.core ((s.core t.core).restartLeg core)) s
  let clear : LegTarget → LegTarget := fun t => if again t then { t with error := none } else t
  let r1 : Relay := { r with
    state := 1, pc := s.me.pc, targets := r.targets.map clear, resumed := r.resumed || r.state == 4
    held := if r.accepted.isEmpty then none else r.held }
  let r2 : Relay := match r1.succ with
    | some n =>
      let q : Relay := { r1 with succ := none }
      q.goTo n
    | none => r1
  r2.erring.foldl (fun s no => s.settleLeg core no) ((s1.setRelay core r2).waitFor .relay)

/-- RELAY and RELAY.RESUME (R283). -/
def relayOp (i : Instr) (resume : Bool) (s : State) : Result :=
  let out := runInstr i s fun v s =>
    let c := s.myCore
    let r := c.relay
    let mine := c.ownsRelay s.curCtx
    if mine ∧ (r.state = 3 ∨ r.state = 4) then .ok () s.continueRelay
    else if resume then
      if mine ∧ r.state = 2 then
        let r1 : Relay := { r with state := 1, succ := none, pc := s.me.pc }
        .ok () ((s.setRelay s.curCore (r1.goTo (r.succ.getD 0))).waitFor .relay)
      else .trap (Trap.illegal 6) none
    else if mine ∧ r.state = 2 then .trap (Trap.illegal 6) none
    else if r.state ≠ 0 then .wait s
    else if s.ptrOk s.who v.a = false then .trap (Trap.address v.a) none
    else
      afterStores s fun s =>
        let x := s.me
        let r1 := { Relay.reset with state := 1, owner := s.curCtx, ownerWp := x.wp, next := v.a, pc := x.pc, no := r.no, reason := r.reason }
        .ok () ((s.setRelay s.curCore r1).waitFor .relay)
  match out with
  | .next t => .next (if t.issue = .done ∧ t.me.wait = some .relay then { t with issue := .waitingRun } else t)
  | x => x

/-- RELAY (R283). -/
def execRelay (o : CROps) (s : State) : Result := relayOp (.relay o) false s

/-- RELAY.RESUME (R283). -/
def execRelayResume (o : CROps) (s : State) : Result := relayOp (.relayResume o) true s

/-! ## RSTAT (R284) -/

/-- The status word. -/
def Relay.status (r : Relay) : Word :=
  BitVec.ofNat 64 (r.curSeq.toNat * 2 ^ 32 + r.reason * 2 ^ 24 + r.stack.length * 2 ^ 16 + r.owner * 2 ^ 11 + r.state * 2 ^ 8 + r.count)

/-- RSTAT (R284). -/
def execRstat (o : CROps) (s : State) : Result :=
  runInstr (.rstat o) s fun _ s => .ok () (s.setReg o.d.toNat s.myCore.relay.status)

/-- RSTAT.ABANDON (R284, R286). -/
def execRstatAbandon (o : CROps) (s : State) : Result :=
  runInstr (.rstatAbandon o) s fun _ s =>
    let r := s.myCore.relay
    let s1 := s.setReg o.d.toNat r.status
    .ok () (if 2 ≤ r.state then s1.abandonRelay s.curCore else s1)

/-- RSTAT.LEG (R284). -/
def execRstatLeg (o : CROps) (s : State) : Result :=
  runInstr (.rstatLeg o) s fun _ s => .ok () (s.setReg o.d.toNat s.myCore.relay.cur)

end Sys2Proof.Machine
end

