-- ==== Sys2Proof/Machine/Dispatch.lean ====
section
/-! DEFINITION. One arm per instruction: a direct call of its meaning. -/

namespace Sys2Proof.Machine

def exec (i : Instr) (s : State) : Host.Outcome State Fault Refusal :=
  match i with
  | .nop o => Sys2Proof.Machine.execNop o s
  | .ldb o => Sys2Proof.Machine.execLdb o s
  | .ldbn o => Sys2Proof.Machine.execLdbn o s
  | .ldh o => Sys2Proof.Machine.execLdh o s
  | .ldhn o => Sys2Proof.Machine.execLdhn o s
  | .ldw o => Sys2Proof.Machine.execLdw o s
  | .ldwn o => Sys2Proof.Machine.execLdwn o s
  | .ldd o => Sys2Proof.Machine.execLdd o s
  | .stb o => Sys2Proof.Machine.execStb o s
  | .sth o => Sys2Proof.Machine.execSth o s
  | .stw o => Sys2Proof.Machine.execStw o s
  | .std o => Sys2Proof.Machine.execStd o s
  | .ldxd o => Sys2Proof.Machine.execLdxd o s
  | .stxd o => Sys2Proof.Machine.execStxd o s
  | .ldacq o => Sys2Proof.Machine.execLdacq o s
  | .strel o => Sys2Proof.Machine.execStrel o s
  | .aadd o => Sys2Proof.Machine.execAadd o s
  | .aand o => Sys2Proof.Machine.execAand o s
  | .aor o => Sys2Proof.Machine.execAor o s
  | .axor o => Sys2Proof.Machine.execAxor o s
  | .amin o => Sys2Proof.Machine.execAmin o s
  | .amax o => Sys2Proof.Machine.execAmax o s
  | .aminn o => Sys2Proof.Machine.execAminn o s
  | .amaxn o => Sys2Proof.Machine.execAmaxn o s
  | .aswp o => Sys2Proof.Machine.execAswp o s
  | .acas o => Sys2Proof.Machine.execAcas o s
  | .afadd o => Sys2Proof.Machine.execAfadd o s
  | .monitor o => Sys2Proof.Machine.execMonitor o s
  | .mwait o => Sys2Proof.Machine.execMwait o s
  | .drainst o => Sys2Proof.Machine.execDrainst o s
  | .fence o => Sys2Proof.Machine.execFence o s
  | .cflush o => Sys2Proof.Machine.execCflush o s
  | .cflushInv o => Sys2Proof.Machine.execCflushInv o s
  | .ptrg o => Sys2Proof.Machine.execPtrg o s
  | .ptrl o => Sys2Proof.Machine.execPtrl o s
  | .li o => Sys2Proof.Machine.execLi o s
  | .lih o => Sys2Proof.Machine.execLih o s
  | .csrr o => Sys2Proof.Machine.execCsrr o s
  | .csrw o => Sys2Proof.Machine.execCsrw o s
  | .pbind o => Sys2Proof.Machine.execPbind o s
  | .tld o => Sys2Proof.Machine.execTld o s
  | .xcopy o => Sys2Proof.Machine.execXcopy o s
  | .xconv o => Sys2Proof.Machine.execXconv o s
  | .xtran o => Sys2Proof.Machine.execXtran o s
  | .xexp o => Sys2Proof.Machine.execXexp o s
  | .xpack o => Sys2Proof.Machine.execXpack o s
  | .getx o => Sys2Proof.Machine.execGetx o s
  | .getxReg o => Sys2Proof.Machine.execGetxReg o s
  | .putx o => Sys2Proof.Machine.execPutx o s
  | .putacc o => Sys2Proof.Machine.execPutacc o s
  | .cwait o => Sys2Proof.Machine.execCwait o s
  | .ctest o => Sys2Proof.Machine.execCtest o s
  | .cset o => Sys2Proof.Machine.execCset o s
  | .xform o => Sys2Proof.Machine.execXform o s
  | .xfpoll o => Sys2Proof.Machine.execXfpoll o s
  | .treg o => Sys2Proof.Machine.execTreg o s
  | .tdrop o => Sys2Proof.Machine.execTdrop o s
  | .tdropFree o => Sys2Proof.Machine.execTdropFree o s
  | .tlook o => Sys2Proof.Machine.execTlook o s
  | .tfetch o => Sys2Proof.Machine.execTfetch o s
  | .thalo o => Sys2Proof.Machine.execThalo o s
  | .tflush o => Sys2Proof.Machine.execTflush o s
  | .tflushInv o => Sys2Proof.Machine.execTflushInv o s
  | .qinit o => Sys2Proof.Machine.execQinit o s
  | .qpush o => Sys2Proof.Machine.execQpush o s
  | .qpop o => Sys2Proof.Machine.execQpop o s
  | .qwait o => Sys2Proof.Machine.execQwait o s
  | .malloc o => Sys2Proof.Machine.execMalloc o s
  | .mfree o => Sys2Proof.Machine.execMfree o s
  | .mma o => Sys2Proof.Machine.execMma o s
  | .mmas o => Sys2Proof.Machine.execMmas o s
  | .mzero o => Sys2Proof.Machine.execMzero o s
  | .mlda o => Sys2Proof.Machine.execMlda o s
  | .msta o => Sys2Proof.Machine.execMsta o s
  | .mdrain o => Sys2Proof.Machine.execMdrain o s
  | .rdone o => Sys2Proof.Machine.execRdone o s
  | .mjoin o => Sys2Proof.Machine.execMjoin o s
  | .mrdrow o => Sys2Proof.Machine.execMrdrow o s
  | .mstat o => Sys2Proof.Machine.execMstat o s
  | .vchain o => Sys2Proof.Machine.execVchain o s
  | .vred o => Sys2Proof.Machine.execVred o s
  | .vscan o => Sys2Proof.Machine.execVscan o s
  | .vsort o => Sys2Proof.Machine.execVsort o s
  | .vtopk o => Sys2Proof.Machine.execVtopk o s
  | .vsrch o => Sys2Proof.Machine.execVsrch o s
  | .vpack24 o => Sys2Proof.Machine.execVpack24 o s
  | .vconv o => Sys2Proof.Machine.execVconv o s
  | .vrand o => Sys2Proof.Machine.execVrand o s
  | .vgath o => Sys2Proof.Machine.execVgath o s
  | .vscat o => Sys2Proof.Machine.execVscat o s
  | .vcmp o => Sys2Proof.Machine.execVcmp o s
  | .vsel o => Sys2Proof.Machine.execVsel o s
  | .vjoin o => Sys2Proof.Machine.execVjoin o s
  | .vfill o => Sys2Proof.Machine.execVfill o s
  | .vhist o => Sys2Proof.Machine.execVhist o s
  | .foenc o => Sys2Proof.Machine.execFoenc o s
  | .foopen o => Sys2Proof.Machine.execFoopen o s
  | .fostep o => Sys2Proof.Machine.execFostep o s
  | .forun o => Sys2Proof.Machine.execForun o s
  | .foclose o => Sys2Proof.Machine.execFoclose o s
  | .fosheet o => Sys2Proof.Machine.execFosheet o s
  | .fograd o => Sys2Proof.Machine.execFograd o s
  | .fostat o => Sys2Proof.Machine.execFostat o s
  | .relay o => Sys2Proof.Machine.execRelay o s
  | .relayResume o => Sys2Proof.Machine.execRelayResume o s
  | .rstat o => Sys2Proof.Machine.execRstat o s
  | .rstatAbandon o => Sys2Proof.Machine.execRstatAbandon o s
  | .rstatLeg o => Sys2Proof.Machine.execRstatLeg o s
  | .group o => Sys2Proof.Machine.execGroup o s
  | .agath o => Sys2Proof.Machine.execAgath o s
  | .rscat o => Sys2Proof.Machine.execRscat o s
  | .atoa o => Sys2Proof.Machine.execAtoa o s
  | .hurdle o => Sys2Proof.Machine.execHurdle o s
  | .cntsum o => Sys2Proof.Machine.execCntsum o s
  | .cntsumClr o => Sys2Proof.Machine.execCntsumClr o s
  | .br o => Sys2Proof.Machine.execBr o s
  | .call o => Sys2Proof.Machine.execCall o s
  | .jmpr o => Sys2Proof.Machine.execJmpr o s
  | .jmprLink o => Sys2Proof.Machine.execJmprLink o s
  | .loop o => Sys2Proof.Machine.execLoop o s
  | .start o => Sys2Proof.Machine.execStart o s
  | .fork o => Sys2Proof.Machine.execFork o s
  | .join o => Sys2Proof.Machine.execJoin o s
  | .send o => Sys2Proof.Machine.execSend o s
  | .taskq o => Sys2Proof.Machine.execTaskq o s
  | .launch o => Sys2Proof.Machine.execLaunch o s
  | .setwp o => Sys2Proof.Machine.execSetwp o s
  | .exit o => Sys2Proof.Machine.execExit o s
  | .trap o => Sys2Proof.Machine.execTrap o s
  | .tret o => Sys2Proof.Machine.execTret o s
  | .tretTerm o => Sys2Proof.Machine.execTretTerm o s
  | .tretTermall o => Sys2Proof.Machine.execTretTermall o s
  | .sleep o => Sys2Proof.Machine.execSleep o s
  | .invpg o => Sys2Proof.Machine.execInvpg o s
  | .invas o => Sys2Proof.Machine.execInvas o s
  | .invall o => Sys2Proof.Machine.execInvall o s
  | .tlbsync o => Sys2Proof.Machine.execTlbsync o s
  | .swcall o => Sys2Proof.Machine.execSwcall o s
  | .world o => Sys2Proof.Machine.execWorld o s
  | .discard o => Sys2Proof.Machine.execDiscard o s
  | .idle o => Sys2Proof.Machine.execIdle o s
  | .add o => Sys2Proof.Machine.execAdd o s
  | .sub o => Sys2Proof.Machine.execSub o s
  | .mul o => Sys2Proof.Machine.execMul o s
  | .mulh o => Sys2Proof.Machine.execMulh o s
  | .div o => Sys2Proof.Machine.execDiv o s
  | .rem o => Sys2Proof.Machine.execRem o s
  | .min o => Sys2Proof.Machine.execMin o s
  | .max o => Sys2Proof.Machine.execMax o s
  | .and o => Sys2Proof.Machine.execAnd o s
  | .or o => Sys2Proof.Machine.execOr o s
  | .xor o => Sys2Proof.Machine.execXor o s
  | .andn o => Sys2Proof.Machine.execAndn o s
  | .shl o => Sys2Proof.Machine.execShl o s
  | .shr o => Sys2Proof.Machine.execShr o s
  | .sar o => Sys2Proof.Machine.execSar o s
  | .rot o => Sys2Proof.Machine.execRot o s
  | .addi o => Sys2Proof.Machine.execAddi o s
  | .shli o => Sys2Proof.Machine.execShli o s
  | .shri o => Sys2Proof.Machine.execShri o s
  | .sari o => Sys2Proof.Machine.execSari o s
  | .andi o => Sys2Proof.Machine.execAndi o s
  | .mov o => Sys2Proof.Machine.execMov o s
  | .sel o => Sys2Proof.Machine.execSel o s
  | .clz o => Sys2Proof.Machine.execClz o s
  | .popc o => Sys2Proof.Machine.execPopc o s
  | .bfx o => Sys2Proof.Machine.execBfx o s
  | .bfi o => Sys2Proof.Machine.execBfi o s
  | .abs o => Sys2Proof.Machine.execAbs o s
  | .neg o => Sys2Proof.Machine.execNeg o s
  | .rndc o => Sys2Proof.Machine.execRndc o s
  | .sext o => Sys2Proof.Machine.execSext o s
  | .fadd o => Sys2Proof.Machine.execFadd o s
  | .fsub o => Sys2Proof.Machine.execFsub o s
  | .fmul o => Sys2Proof.Machine.execFmul o s
  | .fma o => Sys2Proof.Machine.execFma o s
  | .fms o => Sys2Proof.Machine.execFms o s
  | .fdiv o => Sys2Proof.Machine.execFdiv o s
  | .fmin o => Sys2Proof.Machine.execFmin o s
  | .fmax o => Sys2Proof.Machine.execFmax o s
  | .fabs o => Sys2Proof.Machine.execFabs o s
  | .fneg o => Sys2Proof.Machine.execFneg o s
  | .fsqrt o => Sys2Proof.Machine.execFsqrt o s
  | .frcp o => Sys2Proof.Machine.execFrcp o s
  | .frsq o => Sys2Proof.Machine.execFrsq o s
  | .fexp2 o => Sys2Proof.Machine.execFexp2 o s
  | .flog2 o => Sys2Proof.Machine.execFlog2 o s
  | .fsin o => Sys2Proof.Machine.execFsin o s
  | .fcos o => Sys2Proof.Machine.execFcos o s
  | .ftanh o => Sys2Proof.Machine.execFtanh o s
  | .fclass o => Sys2Proof.Machine.execFclass o s
  | .cvt o => Sys2Proof.Machine.execCvt o s
  | .cvti o => Sys2Proof.Machine.execCvti o s
  | .cmpeq o => Sys2Proof.Machine.execCmpeq o s
  | .cmpne o => Sys2Proof.Machine.execCmpne o s
  | .cmplt o => Sys2Proof.Machine.execCmplt o s
  | .cmple o => Sys2Proof.Machine.execCmple o s
  | .cmpun o => Sys2Proof.Machine.execCmpun o s
  | .plog o => Sys2Proof.Machine.execPlog o s
  | .tableWalk core ctx va kind => Sys2Proof.Machine.execTableWalk core ctx va kind s
  | .producerResult core k => Sys2Proof.Machine.execProducerResult core k s
  | .storeLeavesBuffer core k => Sys2Proof.Machine.execStoreLeavesBuffer core k s
  | .sliceRequest core pa op => Sys2Proof.Machine.execSliceRequest core pa op s
  | .movedAnswer core => Sys2Proof.Machine.execMovedAnswer core s
  | .expanderAccess cluster off op => Sys2Proof.Machine.execExpanderAccess cluster off op s
  | .packCompaction cluster => Sys2Proof.Machine.execPackCompaction cluster s
  | .scratchpadAccess core off op => Sys2Proof.Machine.execScratchpadAccess core off op s
  | .patrolScrub sector err => Sys2Proof.Machine.execPatrolScrub sector err s
  | .rowSparing channel row => Sys2Proof.Machine.execRowSparing channel row s
  | .sliceRetirement slice => Sys2Proof.Machine.execSliceRetirement slice s
  | .sliceMapInstall slice => Sys2Proof.Machine.execSliceMapInstall slice s
  | .ingressRequest req => Sys2Proof.Machine.execIngressRequest req s
  | .tfetchFill core => Sys2Proof.Machine.execTfetchFill core s
  | .qwaitWake core ctx => Sys2Proof.Machine.execQwaitWake core ctx s
  | .transferCommandStart core k => Sys2Proof.Machine.execTransferCommandStart core k s
  | .transferCommandComplete core k => Sys2Proof.Machine.execTransferCommandComplete core k s
  | .commandParkResume core k ans data => Sys2Proof.Machine.execCommandParkResume core k ans data s
  | .tectlRes core => Sys2Proof.Machine.execTectlRes core s
  | .tectlDisc core => Sys2Proof.Machine.execTectlDisc core s
  | .tectlCpres core => Sys2Proof.Machine.execTectlCpres core s
  | .tectlCpdisc core => Sys2Proof.Machine.execTectlCpdisc core s
  | .transformCommand cluster third => Sys2Proof.Machine.execTransformCommand cluster third s
  | .remoteRequest req => Sys2Proof.Machine.execRemoteRequest req s
  | .cwaitComplete core ctx => Sys2Proof.Machine.execCwaitComplete core ctx s
  | .vectorCommand core => Sys2Proof.Machine.execVectorCommand core s
  | .matrixCommand core => Sys2Proof.Machine.execMatrixCommand core s
  | .mdrainRow core => Sys2Proof.Machine.execMdrainRow core s
  | .mjoinComplete core ctx => Sys2Proof.Machine.execMjoinComplete core ctx s
  | .streamWordArrival core rank cap word => Sys2Proof.Machine.execStreamWordArrival core rank cap word s
  | .judgeArrival core => Sys2Proof.Machine.execJudgeArrival core s
  | .legFetch core => Sys2Proof.Machine.execLegFetch core s
  | .relayEnd core => Sys2Proof.Machine.execRelayEnd core s
  | .mwaitWake core ctx => Sys2Proof.Machine.execMwaitWake core ctx s
  | .mwaitTimeout core ctx => Sys2Proof.Machine.execMwaitTimeout core ctx s
  | .linkRetry plane router port ok => Sys2Proof.Machine.execLinkRetry plane router port ok s
  | .planeRetirement plane => Sys2Proof.Machine.execPlaneRetirement plane s
  | .planePowerOn plane => Sys2Proof.Machine.execPlanePowerOn plane s
  | .planePowered plane => Sys2Proof.Machine.execPlanePowered plane s
  | .planePowerOff plane => Sys2Proof.Machine.execPlanePowerOff plane s
  | .collectiveContribution core k part => Sys2Proof.Machine.execCollectiveContribution core k part s
  | .collectiveComplete core k => Sys2Proof.Machine.execCollectiveComplete core k s
  | .hurdleEpisodeComplete k => Sys2Proof.Machine.execHurdleEpisodeComplete k s
  | .launchStart p => Sys2Proof.Machine.execLaunchStart p s
  | .launchComplete id => Sys2Proof.Machine.execLaunchComplete id s
  | .taskDispatch core => Sys2Proof.Machine.execTaskDispatch core s
  | .taskArrival src => Sys2Proof.Machine.execTaskArrival src s
  | .pfuTaskStart cluster => Sys2Proof.Machine.execPfuTaskStart cluster s
  | .pfuCommit cluster => Sys2Proof.Machine.execPfuCommit cluster s
  | .pfuAbort cluster seq => Sys2Proof.Machine.execPfuAbort cluster seq s
  | .paceUpdate cluster => Sys2Proof.Machine.execPaceUpdate cluster s
  | .sleepExpiry core ctx => Sys2Proof.Machine.execSleepExpiry core ctx s
  | .joinComplete core ctx => Sys2Proof.Machine.execJoinComplete core ctx s
  | .sequencerFault core e => Sys2Proof.Machine.execSequencerFault core e s
  | .idleWake core ctx => Sys2Proof.Machine.execIdleWake core ctx s
  | .trapDelivery core ctx => Sys2Proof.Machine.execTrapDelivery core ctx s
  | .setvec core ctx => Sys2Proof.Machine.execSetvec core ctx s
  | .setfsvc core ctx => Sys2Proof.Machine.execSetfsvc core ctx s
  | .eventq core ctx => Sys2Proof.Machine.execEventq core ctx s
  | .resumefault core ctx => Sys2Proof.Machine.execResumefault core ctx s
  | .failfault core ctx => Sys2Proof.Machine.execFailfault core ctx s
  | .stepinfo core ctx => Sys2Proof.Machine.execStepinfo core ctx s
  | .migrationArrival m => Sys2Proof.Machine.execMigrationArrival m s
  | .preemption p => Sys2Proof.Machine.execPreemption p s
  | .partitionResume p => Sys2Proof.Machine.execPartitionResume p s
  | .coreLoss core => Sys2Proof.Machine.execCoreLoss core s
  | .watchdogExpiry => Sys2Proof.Machine.execWatchdogExpiry s
  | .startRegister p value => Sys2Proof.Machine.execStartRegister p value s
  | .doorbell p value => Sys2Proof.Machine.execDoorbell p value s
  | .doorbellPosting p => Sys2Proof.Machine.execDoorbellPosting p s
  | .hostBarWrite p bar off bytes => Sys2Proof.Machine.execHostBarWrite p bar off bytes s
  | .hostBarRead p bar off n => Sys2Proof.Machine.execHostBarRead p bar off n s
  | .functionLevelReset p => Sys2Proof.Machine.execFunctionLevelReset p s
  | .packageReset b => Sys2Proof.Machine.execPackageReset b s
  | .powerManagerTick => Sys2Proof.Machine.execPowerManagerTick s
  | .thermalLimit => Sys2Proof.Machine.execThermalLimit s
  | .thermalLimitLift => Sys2Proof.Machine.execThermalLimitLift s
  | .thermalShutdown => Sys2Proof.Machine.execThermalShutdown s
  | .registerWrite reg value => Sys2Proof.Machine.execRegisterWrite reg value s
  | .powerLoss during torn => Sys2Proof.Machine.execPowerLoss during torn s
  | .migrationNotice n => Sys2Proof.Machine.execMigrationNotice n s
  | .operatingPointChangeEnd island => Sys2Proof.Machine.execOperatingPointChangeEnd island s
  | .infieldRestart => Sys2Proof.Machine.execInfieldRestart s
  | .invalidationAcknowledge core ctx => Sys2Proof.Machine.execInvalidationAcknowledge core ctx s

end Sys2Proof.Machine
end

