-- ==== Sys2Proof/Machine/Schedule.lean ====
section
/-! DEFINITION. What may come next: the events that the machine itself brings about. Where
several may, the manual gives no order between them, and a free value picks one (log 3). -/

namespace Sys2Proof.Machine

/-! ## A core's own events -/

/-- The event that can end a context's wait. -/
def waitActs (n k : Nat) : Option Wait → List (State → Result)
  | some (.counter _ _) => [execCwaitComplete n k]
  | some (.join _) => [execJoinComplete n k]
  | some (.band _) => [execMjoinComplete n k]
  | some (.watch _) => [execMwaitWake n k, execMwaitTimeout n k]
  | some (.sleep _) => [execSleepExpiry n k]
  | some (.queue _) => [execQwaitWake n k]
  | some .idle => [execIdleWake n k]
  | some (.hurdle _) | some .call | some .inval | some .relay | some .away | some (.carried _)
  | some .terminate | none => []

/-- The steward serves a call by its function (R366). -/
def callAct (n k func : Nat) : List (State → Result) :=
  match func with
  | 1 => [execSetvec n k]
  | 2 => [execSetfsvc n k]
  | 3 => [execEventq n k]
  | 4 => [execResumefault n k]
  | 5 => [execFailfault n k]
  | 6 => [execStepinfo n k]
  | _ => []

/-- Events of one context. -/
def Ctx.acts (x : Ctx) (n k : Nat) : List (State → Result) :=
  (if x.pend.isEmpty then [] else if k < 11 then [execTrapDelivery n k] else [execSequencerFault n (k - 11)])
    ++ waitActs n k x.wait ++ (x.calls.filter fun c => c.answer.isNone).flatMap (fun c => callAct n k c.func)
    ++ (if x.invals = [] then [] else [execInvalidationAcknowledge n k])

/-- A contribution of a member of this package, which carries nothing of its own (R317). -/
def ownPart (rank : Nat) : CollPart :=
  { gid := 0, rank := rank, ext := none, digest := 0, kind := 0, count := 0, fmt := 0, op := 0, inst := 0, cap := 0 }

/-- Events of the transfer queue's entry `i` (R126–R128, R317). -/
def Cmd.acts (c : Cmd) (n i members : Nat) : List (State → Result) :=
  match c.status with
  | .queued => [execTransferCommandStart n i]
  | .running => if c.op < 0x6B then [execTransferCommandComplete n i] else [execCollectiveContribution n i (ownPart 0)]
  | .parked =>
    if c.op < 0x6B then []
    else execCollectiveComplete n i :: (List.range members).map fun r => execCollectiveContribution n i (ownPart r)
  | .halted => []

/-- Largest member count of the groups of a partition. -/
def State.mostMembers (s : State) : Nat := s.pack.groups.foldl (fun m g => max m g.2.count) 0

/-- Events of a core's engines, judge and relay. -/
def Core.engineActs (c : Core) (n members : Nat) : List (State → Result) :=
  (c.eng.xq.zipIdx.flatMap fun e => e.1.acts n e.2 members)
    ++ (if c.eng.vq.isEmpty then [] else [execVectorCommand n])
    ++ (if c.eng.mq.isEmpty then [] else [execMatrixCommand n])
    ++ (if c.mat.drains.isEmpty then [] else [execMdrainRow n])
    ++ (if c.judge.state = 1 then [execJudgeArrival n] else [])
    ++ (if c.relay.state = 0 then [] else [execLegFetch n, execRelayEnd n])

/-- Events of a core's stores, producers, prefetches and tasks. -/
def Core.queueActs (c : Core) (n : Nat) : List (State → Result) :=
  ((List.range c.su.buf.length).map fun i => execStoreLeavesBuffer n i)
    ++ ((List.range c.owed.length).map fun i => execProducerResult n i)
    ++ (if c.moved.isEmpty then [] else [execMovedAnswer n])
    ++ (if c.fetches.isEmpty then [] else [execTfetchFill n])
    ++ (if c.runq.isEmpty then [] else [execTaskDispatch n])
    ++ ((List.range c.outq.length).map fun i => execTaskArrival (.buffer n i))

/-- A core's contexts issue and its engines progress: it is not lost, its island is not changing its operating point (R385), and
its partition is not pre-empted (R372). -/
def State.coreRuns (s : State) (n : Nat) : Bool :=
  !(s.core n).lost && s.clusterRuns (clusterOf n) && !(s.part (s.partOf n)).paused

def State.coreActs (s : State) : List (State → Result) :=
  s.cores.flatMap fun p =>
    if s.coreRuns p.1 then
      (p.2.ctxs.flatMap fun q => q.2.acts p.1 q.1) ++ p.2.engineActs p.1 s.mostMembers ++ p.2.queueActs p.1
    else []

/-! ## Events of clusters and of the package -/

def State.clusterActs (s : State) : List (State → Result) :=
  (s.clusters.flatMap fun p =>
    if s.clusterRuns p.1 then
      ((List.range 3).flatMap fun t => if ((p.2.coproc[t]?).getD []).isEmpty then [] else [execTransformCommand p.1 t])
        ++ (if p.2.pfu.isEmpty then [] else [execPfuTaskStart p.1, execPfuCommit p.1])
        ++ ((p.2.pfu.filter (·.doomed)).map fun t => execPfuAbort p.1 t.seq)
    else [])
    ++ (if s.cycle < 4096 then [] else (List.range 50).map fun c => execPaceUpdate c)

/-- Rows of a channel that are to be spared (R58). -/
def Channel.sparing (x : Channel) : List Nat := x.bad ++ (x.rowErrors.filter fun e => decide (3 ≤ e.2)).map (·.1)

def State.packageActs (s : State) : List (State → Result) :=
  (s.pack.parts.flatMap fun p =>
    (if p.2.starts.isEmpty then [] else [execLaunchStart p.1]) ++ (if p.2.doorbell = 0 then [] else [execDoorbellPosting p.1]))
    ++ (s.pack.launches.map fun l => execLaunchComplete l.1)
    ++ ((List.range s.pack.waiting.length).map fun i => State.ingressAgain i)
    ++ (s.pack.episodes.zipIdx.flatMap fun e =>
      if !e.1.complete && e.1.arrived.length + e.1.remote == e.1.n then [execHurdleEpisodeComplete e.2] else [])
    ++ (s.pack.slices.zipIdx.flatMap fun e => if e.1.state = .flushing then [execSliceMapInstall e.2] else [])
    ++ (s.pack.channels.flatMap fun x => x.2.sparing.map fun r => execRowSparing x.1 r)
    ++ (if s.pack.planes.powering = 0 then [] else (List.range 4).map fun p => execPlanePowered p)
    ++ (if s.pack.planes.retries.isEmpty then [] else (List.range 4).map fun p => execPlaneRetirement p)
    ++ (if s.cycle < tickCycles then [] else [execPowerManagerTick])
    ++ (s.pack.power.islands.zipIdx.flatMap fun e => if e.1.changing then [execOperatingPointChangeEnd e.2] else [])

/-- The events that can come about now. -/
def State.events (s : State) : List (State → Result) :=
  (s.coreActs ++ s.clusterActs ++ s.packageActs).filter fun f => match f s with
    | .next _ => true
    | _ => false

/-- One of a list, by the free value of the cycle; the one element of a list of one. -/
def pick {α : Type} (cycle : Nat) : List α → Option α
  | [] => none
  | [x] => some x
  | l => l[Config.turn cycle % l.length]?

end Sys2Proof.Machine
end

