-- ==== Sys2Proof/Machine/Bundle.lean ====
section
/-! DEFINITION. A bundle: its fetch (R14, R345), the traps judged at decode (R18, R46–R48), the two instructions together
(R16), the contexts that may issue (R342), and the machine's steps between bundles. -/

namespace Sys2Proof.Machine

/-- What the fetch of a bundle at an address raises, or its two words (R50, R70, R76, R345): from memory, HBM or a partition register; `.error none` while the line is held until a moved
request is performed (R62). The translation's own effects (TLBs, accessed bits) stay. -/
def State.fetch (s : State) (x : Ctx) (core : Nat) : Except (Option Trap) (State × Bundle) :=
  match if x.pc.toNat % 8 = 0 then s.place (x.who core) x.pc 8 else none with
  | some (.flat va) =>
    (match s.translate core va .fetch .cluster with
    | .error (.page c) => .error (some { code := 6, reason := c, addr := x.pc, arg := 3 })
    | .error .world => .error (some { code := 10, addr := x.pc })
    | .error (.unbacked pa) => .error (some { code := 9, addr := x.pc, arg := BitVec.ofNat 64 pa })
    | .ok (t, s1) =>
      let unbacked : Trap := { code := 9, addr := x.pc, arg := BitVec.ofNat 64 t.pa }
      let raw : Option (Bool × List Byte) :=
        if windowBase ≤ t.pa ∧ t.pa < windowEnd then (s1.windowRead (s1.partOf core) t.pa 8).map fun bs => (false, bs)
        else if framedEnd < t.pa + 8 then none
        else if t.mt = .uncacheable then some (s1.hbmPoison t.pa 8, s1.hbmBytes t.pa 8)
        else some (s1.clusterPoison (clusterOf core) t.pa 8, s1.clusterBytes (clusterOf core) t.pa 8)
      if s1.lineHeld core t.pa then .error none
      else
        match raw with
        | none => .error (some unbacked)
        | some (true, _) => .error (some { code := 4, reg := 63 })
        | some (false, bs) =>
          match takeBundle bs with
          | some (b, _) => .ok (s1, b)
          | none => .error (some (Trap.address x.pc)))
  | _ => .error (some (Trap.address x.pc))

/-- The instruction that a C-slot or A-slot word has the fields of, for the check of R18: none for an unassigned opcode,
and none where the guard field is 0b1111. -/
def namedC (b : Bundle) : Option Instr := if guardC b.w0 = 15 then none else shapeC b.w0 (literalOf b.w0 b.w1)

def namedA (b : Bundle) : Option Instr := if lBit b.w0 ∨ guardA b.w1 = 15 then none else shapeA b.w1

/-- SETWP, EXIT, TRAP and TRET in the C slot (R18). -/
def changesContext (i : Instr) : Bool :=
  match i with
  | .setwp _ | .exit _ | .trap _ | .tret _ | .tretTerm _ | .tretTermall _ => true
  | _ => false

/-- The reason of the illegal-bundle trap (R18, R27, R359): any A-slot word whose guard field is not 0b1111 is no A-slot NOP. -/
def illegalBundle (b : Bundle) : Option Nat :=
  match namedC b with
  | none => none
  | some c =>
    let clash := match namedA b with
      | some a => (namedDests c).any (fun n => n < 56 && (namedDests a).contains n)
          || (predDestsOf c).any (fun n => n != 7 && (predDestsOf a).contains n)
      | none => false
    if clash then some 1
    else if changesContext c && !lBit b.w0 && guardA b.w1 != 15 then some 2
    else none

/-- The outcome of a slot's word at decode (R46): none where its guard is false. -/
def State.slotC (s : State) (b : Bundle) : Option (Except Reason Instr) :=
  if s.viewCtx.regs.guard (guardC b.w0) then some (decodeC b.w0 (literalOf b.w0 b.w1)) else none

def State.slotA (s : State) (b : Bundle) : Option (Except Reason Instr) :=
  if !lBit b.w0 && s.viewCtx.regs.guard (guardA b.w1) then some (decodeA b.w1) else none

/-- The bundle is complete: the context goes on at its next program counter (R16, R18). -/
def State.commit (s : State) : State :=
  if s.me.live then s.setMe { s.me with pc := s.me.npc, bundles := s.me.bundles + 1 } else s

/-- Commit when the instructions took effect. -/
def commitIf (r : Result) : Result :=
  match r with
  | .next s => .next (if s.issue = .done then s.commit else s)
  | r => r

/-- The outbound bindings of the issuing core. -/
def State.withBinds (s : State) (b : List (Option Binding)) : State :=
  s.setMyCore { s.myCore with regs := { s.myCore.regs with binds := b } }

/-- The A slot's instruction takes effect after the C slot's: a word it writes to a port goes by the binding that held before the bundle
(R16, R161). `s` is the state before the bundle, `t` the one after the C slot. -/
def execSecond (a : Instr) (s t : State) : Result :=
  if t.myCore.regs.binds = s.myCore.regs.binds then exec a { t with view := some s.me }
  else
    match exec a { t.withBinds s.myCore.regs.binds with view := some s.me } with
    | .next v => .next (v.withBinds t.myCore.regs.binds)
    | r => r

/-- Both instructions of a bundle (R16): the C slot's traps first, then the A slot's, judged on the same state, and with one neither takes
effect; a C slot that waits holds the A slot back, but RELAY's does not (R283). `t` is the state after the C slot. -/
def runPair (c a : Instr) (s : State) : Result :=
  match exec c s with
  | .next t =>
    let x := some s.me
    if t.issue = .trapped then .next t
    else
      match exec a { s with view := x } with
      | .next u =>
        if u.issue = .trapped then .next u
        else
          (match t.issue with
          | .done =>
            if u.issue = .done then commitIf (execSecond a s t) else .next u
          | .waitingRun =>
            if u.issue = .done then
              (match exec a { t with view := x } with
              | .next v => .next { v with issue := .waiting }
              | r => r)
            else .next u
          | _ => .next t)
      | r => r
  | r => r

/-- The bundle's instructions, after the traps judged at decode. -/
def runSlots (c a : Option Instr) (s : State) : Result :=
  match c, a with
  | none, none => .next { s.commit with issue := .done }
  | some i, none => commitIf (exec i s)
  | none, some i => commitIf (exec i s)
  | some i, some j => runPair i j s

def optL {α : Type} (f : Instr → List α) : Option Instr → List α
  | some i => f i
  | none => []

/-- The bundle's two instructions wait (R16 step 2, R192): for an operand, or for a unit; but a handler's fault at a write to a port comes
first (R299). -/
def State.operandsWait (s : State) (c a : Option Instr) : Bool :=
  (optL (fun i => (s.portTrap i).toList) c ++ optL (fun i => (s.portTrap i).toList) a).isEmpty
    && (s.blocked (optL s.sources c ++ optL s.sources a) (optL destsOf c ++ optL destsOf a) (optL predsOf c ++ optL predsOf a)
      || (optL (fun i => [s.unitBusy i]) c ++ optL (fun i => [s.unitBusy i]) a).any id)

/-- A bundle that has been fetched (R16, R18, R46, R48, R349). Two points are the model's own (log 15): the cause word of an illegal bundle
names the C slot, which R360's SLOT leaves open, and reason 6 of an instruction that a sequencer may not execute is judged at decode,
since it depends on no register's value. -/
def State.runFetched (s : State) (b : Bundle) : Result :=
  match illegalBundle b with
  | some r => .next (s.takeTrap { code := 2, reason := r } false b.w0)
  | none =>
    if s.viewCtx.regs.predPending (guardPred (guardC b.w0))
        || (!lBit b.w0 && s.viewCtx.regs.predPending (guardPred (guardA b.w1))) then .next { s with issue := .waiting }
    else
      match s.slotC b, s.slotA b with
      | some (.error r), _ => .next (s.takeTrap (Trap.illegal r.code) false b.w0)
      | c, some (.error r) =>
        (match c with
        | some (.ok i) =>
          if 11 ≤ s.curCtx ∧ seqAllowed s.curCtx i = false then .next (s.takeTrap (Trap.illegal 6) false b.w0)
          else .next (s.takeTrap (Trap.illegal r.code) true b.w1)
        | _ => .next (s.takeTrap (Trap.illegal r.code) true b.w1))
      | c, a =>
        let ci := match c with | some (.ok i) => some i | _ => none
        let ai := match a with | some (.ok i) => some i | _ => none
        if optL (fun i => [11 ≤ s.curCtx && !seqAllowed s.curCtx i]) ci = [true] then
          .next (s.takeTrap (Trap.illegal 6) false b.w0)
        else if s.operandsWait ci ai then .next { s with issue := .waiting }
        else runSlots ci ai (s.setMe { s.me with npc := s.me.pc + 8 })

/-- The issuing context issues its bundle; a precise trap of it that waits for w54 and w55 is taken first, whatever has changed since
(R361). -/
def State.runBundle (s : State) : Result :=
  match s.me.grant with
  | some (.trapping l) => .next (s.redeliver l)
  | _ =>
    match s.fetch s.me s.curCore with
    | .error (some t) => .next (s.takeTrap t false 0)
    | .error none => .next { s with issue := .waiting }
    | .ok (s1, b) => s1.runFetched b

/-- A step takes a cycle (log 3). -/
def State.tick (s : State) : State := { s with cycle := s.cycle + 1 }

/-- What a step leaves: a cycle has passed, and no view is held. -/
def closeStep (r : Result) : Result :=
  match r with
  | .next s => .next { s.tick with view := none }
  | r => r

/-- Context k of core n tries its next bundle. -/
def State.tryFrom (n k : Nat) (s : State) : Result :=
  State.runBundle { s with curCore := n, curCtx := k, issue := .done, view := none }

/-- The context has not issued: its bundle waits, and the context stays as ready or not as it was (R16, R342). -/
def State.waitsHere (t : State) (n k : Nat) : Bool := t.issue == .waiting && (t.ctx n k).wait.isNone

/-- Context k of core n issues its bundle (R342): it is then the one that issued last, unless the bundle waits. -/
def State.issueFrom (n k : Nat) (s : State) : Result :=
  match State.tryFrom n k s with
  | .next t => if 11 ≤ k || t.waitsHere n k then .next t else .next (t.setCore n { t.core n with last := k })
  | r => r

/-- The photo-finish unit has condemned the context's task: it stops at this boundary (R342, R356). -/
def State.condemned (s : State) (n k : Nat) : Bool :=
  match s.taskOf n k with
  | some (_, t) => t.doomed
  | none => false

/-- A context may be tried (R299, R342, R356, R362): live, not in a wait, within the skid bound, with no trap to be delivered first. -/
def State.ready (s : State) (core k : Nat) : Bool :=
  let x := s.ctx core k
  x.live && x.wait.isNone && s.skidOk core k && (x.pend.isEmpty || (x.ih && decide (k < 11)) || x.completesFirst)
    && !s.condemned core k

/-- A bundle that would wait and change nothing: its context is not ready (R16, R342). -/
def State.idles (s : State) (n k : Nat) : Bool :=
  match State.tryFrom n k s with
  | .next t => t.waitsHere n k && t == { s with curCore := n, curCtx := k, issue := t.issue, view := t.view }
  | _ => false

/-- The one of several contexts whose turn it is (R342): the first after `last` in turn whose bundle does not merely wait. -/
def State.firstOf (s : State) (n last : Nat) (own : List Nat) : Option Nat :=
  ((own.filter fun k => decide (last < k)) ++ own.filter fun k => decide (k ≤ last)).find? fun k => !s.idles n k

/-- The contexts of a core that may issue: of those that share its issue slot, the one whose turn it is (R342), and the
sequencers, which have ports of their own. -/
def State.turns (s : State) (n : Nat) (c : Core) : List (Nat × Nat) :=
  let l := (c.ctxs.map (·.1)).filter fun k => s.ready n k
  let own := l.filter fun k => decide (k < 11)
  let first := match own with
    | [k] => [k]
    | _ => (s.firstOf n c.last own).toList
  (first ++ l.filter fun k => decide (11 ≤ k)).map fun k => (n, k)

/-- The contexts of the package that may issue next: core and context. -/
def State.issuers (s : State) : List (Nat × Nat) :=
  s.cores.flatMap fun p => if s.coreRuns p.1 then s.turns p.1 p.2 else []

/-- An outside event of the agenda: one that does not come about here is passed over. -/
def State.fromOutside (s : State) (e : Instr) : Result :=
  if e.isEvent then
    match exec e s with
    | .fault (.notEnabled _) => .next s.tick
    | r => closeStep r
  else .next s.tick

/-- What may come next when nothing from outside does: an event of the machine's own, or a bundle. -/
def State.choices (s : State) : List (State → Result) := s.events ++ s.issuers.map fun q => State.issueFrom q.1 q.2

/-- Reset and the loss of power come about after a thermal shutdown too (R382, R383, R386). -/
def restarts (e : Instr) : Bool :=
  match e with
  | .packageReset _ | .powerLoss _ _ => true
  | _ => false

/-- One step of the machine: the next event of the agenda; else one of the events and bundles that may come next; else a cycle
passes. After a thermal shutdown nothing does but a reset (R386). -/
def State.advance (s : State) : Result :=
  match s.agenda with
  | e :: t =>
    if s.pack.power.stopped && !restarts e then .fault .shutdown else State.fromOutside { s with agenda := t } e
  | [] =>
    if s.pack.power.stopped then .fault .shutdown
    else
      match pick s.cycle s.choices with
      | some f => closeStep (f s)
      | none => .next s.tick

/-! ## A state that fetches a given instruction -/

/-- The flat address that `withFetchWord` places its bundle at, and its page table's places. -/
def probeVa : Nat := page0

def probeRoot : Nat := 0x8000

/-- The control context that fetches there. -/
def probeCtx : Ctx := { Ctx.reset with live := true, pc := BitVec.ofNat 64 probeVa, npc := BitVec.ofNat 64 probeVa, psize := 8 }

/-- The words of a bundle that runs the instruction whose bits are `w`: word 0 where the C slot reads it, its literal
zero; otherwise word 1 beside the C-slot NOP. -/
def probeWords (w : Nat) : W32 × W32 :=
  let x := BitVec.ofNat 32 w
  match decodeC x (if lBit x then some 0 else none) with
  | .ok _ => (x, if lBit x then 0 else 0x003C0000)
  | .error _ =>
    match decodeA x with
    | .ok _ => (0x00700000, x)
    | .error _ => (x, if lBit x then 0 else 0x003C0000)

/-- The bundle of an instruction stands where the next step fetches: core 0 of cluster 0, owned by partition 0, has a
launch's control context at the bundle, in a page that an executable leaf maps; the guard's predicate is true. -/
def State.placeProbe (s : State) (w : Nat) : State :=
  let ws := probeWords w
  let x := BitVec.ofNat 32 w
  let pick := fun (g : BitVec 4) => if g.getLsbD 3 then (0 : BitVec 7) else BitVec.allOnes 7
  let g := if ws.1 = x then pick (guardC x) else pick (guardA x)
  let ctx := { probeCtx with regs := { probeCtx.regs with g := g } }
  let c := { (s.core 0) with ctxs := tabSet (s.core 0).ctxs 0 ctx, regs := { (s.core 0).regs with ascr := BitVec.ofNat 64 (probeRoot + 2 ^ 61) } }
  let s1 := (s.setCore 0 c).setCluster 0 { s.cluster 0 with owner := some 0 }
  let s2 := s1.setPart 0 { s.part 0 with live := true, clusters := [0], vector := some (BitVec.ofNat 64 probeVa) }
  let s3 := ((s2.writeNat probeRoot 8 (0x10000 + 1)).writeNat 0x10000 8 (0x18000 + 1)).writeNat 0x18000 8 (0x18200 + 1)
  let s4 := s3.writeNat (0x18200 + 8) 8 (page0 * 4 + 0x4D7)
  let bs := natBytes ws.1.toNat 4 ++ natBytes ws.2.toNat 4
  let s5 := s4.writeAt (page0 * 4) bs
  { s5 with agenda := [] }

end Sys2Proof.Machine
end

