-- ==== Sys2Proof/Machine/Step.lean ====
section
/-! DEFINITION. The step of the machine. -/

namespace Sys2Proof.Machine

def step (s : State) : Host.Outcome State Fault Refusal := s.advance

/-- The instruction whose bits are `w` stands where `step` fetches next (log 16). -/
def State.withFetchWord (s : State) (nbits w : Nat) : State := if nbits ≤ 32 then s.placeProbe w else s

end Sys2Proof.Machine
end

