-- ==== Sys2Proof/Safety.lean ====
section
/-! DEFINITION. The terms in which claims are made: what a safe run is, when an instruction takes effect, what an outcome is, and
what stays unchanged. -/

namespace Sys2Proof.Safety

open Sys2Proof.Machine

/-- An outcome that stops the machine. -/
def Stops (r : Result) : Prop :=
  match r with
  | .next _ => False
  | .fault _ => True
  | .refused _ => True

/-- The machine's invariant: memory is in its canonical form. -/
def Inv (s : State) : Prop := Memory.wf s.mem = true

/-- Nothing keeps instruction `i` of the issuing context from its own effect (R16 steps 1 to 3, R23, R26, R158, R192, R299, R349, R355):
the context is live, the guard is known and true, the sequencer may execute it, its sources are full and clean, its destinations and its
unit free, no fault of an earlier store is met at a port, and the photo-finish unit does not hold it back. -/
structure Issues (i : Instr) (s : State) : Prop where
  live : s.me.live = true
  settled : s.viewCtx.regs.predPending (guardPred i.fields.guard) = false
  guarded : s.guarded i = true
  slot : s.curCtx < 11 ∨ seqAllowed s.curCtx i = true
  ready : s.stalled i = false
  free : s.unitBusy i = false
  port : s.portTrap i = none
  clean : s.operandTrap i = none
  unit : needsOldest i = false ∨ s.me.pfu = none

/-- The state once instruction `i` has taken effect `t` (R16, R17): the words that it read from inbound ports have left them. -/
def issued (i : Instr) (s t : State) : State := { t.dequeue ((s.sources i).map (·.reg)) with issue := .done }

/-- The state while instruction `i` waits, with what the wait keeps (R16 step 2). -/
def waits (t : State) : State := { t with issue := .waiting }

/-! ## What stays unchanged -/

/-- Every byte of memory, of every scratchpad, cluster memory and accumulator memory reads as before. -/
def SameBytes (s t : State) : Prop := ∀ k, t.byteAt k = s.byteAt k

/-- Every byte outside a range reads as before. -/
def SameBytesBut (s t : State) (lo n : Nat) : Prop := ∀ k, k < lo ∨ lo + n ≤ k → t.byteAt k = s.byteAt k

/-- Registers other than those of a list keep their values, full bits and poison bits. -/
def SameRegs (x y : Ctx) (l : List Nat) : Prop :=
  ∀ r : Fin 56, r.val ∉ l → y.regs.w[r] = x.regs.w[r] ∧ y.regs.full.getLsbD r.val = x.regs.full.getLsbD r.val
    ∧ y.regs.psn.getLsbD r.val = x.regs.psn.getLsbD r.val

/-- Predicates other than those of a list keep their values. -/
def SamePreds (x y : Ctx) (l : List Nat) : Prop := ∀ p, p ∉ l → y.regs.pred p = x.regs.pred p

/-- The special registers of a context: workspace, policy, trap slots, handler flag, group (R162, R360, R361). -/
def SameSpecial (x y : Ctx) : Prop :=
  y.wp = x.wp ∧ y.psize = x.psize ∧ y.cpr = x.cpr ∧ y.cause = x.cause ∧ y.taddr = x.taddr ∧ y.pcx = x.pcx ∧ y.targ = x.targ
    ∧ y.ih = x.ih ∧ y.group = x.group ∧ y.live = x.live

/-- FPCR keeps its control bits, and its sticky flags are only ever set (R176, R177). -/
def OnlySticks (x y : Ctx) : Prop := y.fpcr &&& x.fpcr = x.fpcr ∧ y.fpcr &&& ~~~0x1F00 = x.fpcr &&& ~~~0x1F00

/-- A core is as before but for its contexts, its FIFOs, its event counters, the results that its producers owe, and words for ports that
join those behind its stores (R160). -/
def SameCore (c d : Core) : Prop :=
  d = { c with
    ctxs := d.ctxs, owed := d.owed, regs := { c.regs with fifos := d.regs.fifos, ev := d.regs.ev }, su := { c.su with behind := d.su.behind } }
    ∧ c.su.behind <+: d.su.behind

/-- Every context but one is as before. -/
def SameOthers (s t : State) (n k : Nat) : Prop := ∀ m j, (m, j) ≠ (n, k) → t.ctx m j = s.ctx m j

/-- What an instruction that writes only registers and predicates leaves unchanged: all of memory, every poison mark, every
cluster, the package, every other context; of its own context all but its destinations and the sticky flags; of the cores all
but FIFOs, event counters and owed results. -/
structure ScalarFrame (i : Instr) (s t : State) : Prop where
  bytes : SameBytes s t
  poison : t.poison = s.poison
  clusters : t.clusters = s.clusters
  pack : t.pack = s.pack
  out : t.out = s.out
  others : SameOthers s t s.curCore s.curCtx
  cores : ∀ n, SameCore (s.core n) (t.core n)
  regs : SameRegs s.me t.me (destsOf i)
  preds : SamePreds s.me t.me (predDestsOf i)
  special : SameSpecial s.me t.me
  flags : OnlySticks s.me t.me

end Sys2Proof.Safety
end

