-- ==== Sys2Proof/Certificates/Slice0/Obligations.lean ====
section
/-! DEFINITION. The statements for the provers. -/

namespace Sys2Proof.Claims

open Sys2Proof.Machine Sys2Proof.Safety

/-! ## Integer operands and results (R190) -/

/-- W of an integer type code: 32 or 64 (R28, R190). -/
def width (t : BitVec 3) : Nat := if t.getLsbD 0 then 64 else 32

/-- The W-bit operand: two's complement for i types, unsigned for n types (R190). -/
def operandInt (t : BitVec 3) (v : Word) : Int :=
  let n := v.toNat % 2 ^ width t
  if t.getLsbD 1 then n else if 2 * n < 2 ^ width t then (n : Int) else (n : Int) - 2 ^ width t

/-- A result reduced modulo 2^W and filled: copies of bit 31 for i32, zeros for n32 (R190). -/
def filled (t : BitVec 3) (r : Int) : Word :=
  let m := r % 2 ^ width t
  if t.getLsbD 1 then BitVec.ofInt 64 m else if 2 * m < 2 ^ width t then BitVec.ofInt 64 m else BitVec.ofInt 64 (m - 2 ^ width t)

/-- A W-bit pattern, filled (R190). -/
def filledBits (t : BitVec 3) (r : Nat) : Word := filled t r

/-- Bit k of a W-bit operand. -/
def operandBit (t : BitVec 3) (v : Word) (k : Nat) : Bool := decide (k < width t) && v.getLsbD k

/-- A W-bit pattern from its bits, filled. -/
def fromBits (t : BitVec 3) (f : Nat → Bool) : Word :=
  filledBits t ((List.range (width t)).foldl (fun n k => n + if f k then 2 ^ k else 0) 0)

/-- An instruction takes effect and leaves the state `t`, with the port words that it read dequeued. -/
def Gives (i : Instr) (s t : State) : Prop := exec i s = .next (issued i s t)

/-- An instruction takes effect with a result that is owed to its destination (R158). -/
def Owes (i : Instr) (s s1 : State) (d : BitVec 6) (v : Option Word) : Prop :=
  ∃ t, s1.owe d.toNat v none = .ok () t ∧ Gives i s t

/-- An instruction raises a trap on a state (R16 step 3): the trap is taken on the state before it. -/
def Traps (i : Instr) (s : State) (x : Trap) : Prop := exec i s = .next (s.takeTrap x i.isA (wordOf i))

/-- An instruction leaves its context waiting for an event (R342), and changes nothing else. -/
def Sleeps (i : Instr) (s : State) (w : Wait) : Prop := exec i s = .next (waits (s.setMe { s.me with wait := some w, grant := none }))

/-- An instruction takes effect with a result in its destination. -/
def Writes (i : Instr) (s : State) (d : BitVec 6) (v : Word) : Prop := Gives i s (s.setReg d.toNat v)

end Sys2Proof.Claims

open Sys2Proof Sys2Proof.Machine Sys2Proof.Safety Sys2Proof.Claims

/-! ## The encoding -/

/-- R19–R22, R44: words written out from the manual's encoding tables decode to the instructions they stand for: `ldd w4, [w8+16]`
(0x07710804), `add w5, w6, w7` (0x005C5187), `ldw w9, [w10+100], .b` with its literal (0x85A24A00, 0x6D000064),
`cmplt.f32 g1, g2, w3, w4` (0x751D10C4), `discard` (0x7F718707), `treg w5, w6` (0x35714600), `br -5` (0x707FFFFB). -/
def Obligations.WorkedWordsDecode : Prop :=
  decodeC 0x07710804 none = .ok (.ldd ⟨7, 4, 8, 2, 0, none⟩)
    ∧ decodeA 0x005C5187 = .ok (.add ⟨0, 1, 7, 5, 6, 7⟩)
    ∧ decodeC 0x85A24A00 (some 0x6D000064) = .ok (.ldw ⟨10, 9, 10, 0, 0, some 0x6D000064⟩)
    ∧ decodeA 0x751D10C4 = .ok (.cmplt ⟨0, 4, 7, 17, 3, 4⟩)
    ∧ decodeC 0x7F718707 none = .ok (.discard ⟨7, 6, 7, none⟩)
    ∧ decodeC 0x35714600 none = .ok (.treg ⟨7, 5, 6, 0, 0, 0, none⟩)
    ∧ decodeC 0x707FFFFB none = .ok (.br ⟨7, -5, none⟩)

/-- Decode and encode agree (R14, R19–R21, R41–R45): every well-formed instruction of the C slot is read back from its word and its
literal, and every one of the A slot from its word, with every operand at every value that the encoding admits. -/
def Obligations.EncodedInstructionsDecode : Prop :=
  (∀ i : Instr, i.wellFormed = true → i.isA = false → i.isEvent = false → decodeWords false (encode i) = .ok i)
    ∧ ∀ i : Instr, i.wellFormed = true → i.isA = true → decodeWords true (encode i) = .ok i

/-- No word has two readings and none loses a bit (R14, R19, R20): what either slot's decoder reads from a word is well formed and
encodes to that word and its literal. -/
def Obligations.DecodedWordsEncodeBack : Prop :=
  (∀ (w : W32) (l : Option W32) (i : Instr), lBit w = l.isSome → decodeC w l = .ok i →
      i.wellFormed = true ∧ i.isA = false ∧ encode i = w :: l.toList)
    ∧ ∀ (w : W32) (i : Instr), decodeA w = .ok i → i.wellFormed = true ∧ i.isA = true ∧ encode i = [w]

/-! ## Issue -/

/-- R16 steps 2 and 3, R26, R158–R160, R192: an instruction whose blocking source is empty, whose destination is still owed a result, or
whose unit holds another's result, waits and changes nothing; once nothing stalls it, one with an empty source whose flag is set, with a
poisoned source or with an unbound outbound port takes the register-empty, the poison or the address trap, and has no other effect. A
handler's write to an outbound port meets the fault of its program's store first (R299). -/
def Obligations.OperandsAreAwaitedOrTrap : Prop :=
  ∀ (i : Instr) (s : State), i.isEvent = false → s.me.live = true →
    s.viewCtx.regs.predPending (guardPred i.fields.guard) = false → s.guarded i = true →
    (s.curCtx < 11 ∨ seqAllowed s.curCtx i = true) →
      (s.portTrap i = none → s.stalled i = true ∨ s.unitBusy i = true → exec i s = .next { s with issue := .waiting })
        ∧ (s.portTrap i = none → s.stalled i = false → s.unitBusy i = false → ∀ x, s.operandTrap i = some x →
          (x.code = 3 ∨ x.code = 4 ∨ x.code = 5) ∧ exec i s = .next (s.takeTrap x i.isA (wordOf i)))
        ∧ (∀ x, s.portTrap i = some x → x.code = 11 ∧ s.me.ih = true ∧ exec i s = .next (s.takeTrap x i.isA (wordOf i)))

/-- R17, R24, R26: the operands of an A-slot instruction. For every instruction of the A slot, whichever of the fields a, b and d it reads
gives the general register that the field names, in the set from before the bundle; an inbound port gives a and b its next word, and where
both name one port, a its first word and b its second. The arithmetic instructions read a and b, the unary ones a alone, and BFI, FMA
and FMS their destination too. -/
def Obligations.OperandsAreRegistersOrPortWords : Prop :=
  (∀ (i : Instr) (o : AOps) (s : State), i.isA = true → i.fields = .a o →
    let q := srcsOf i
    let v := valsOf i s
    (q.a.isSome → (∀ h : o.a.toNat < 56, v.a = s.viewCtx.regs.w[o.a.toNat])
        ∧ ∀ f x l, o.a.toNat = 56 + f → s.myCore.regs.fifos[f]? = some (x :: l) → v.a = x)
      ∧ (q.b.isSome → (∀ h : o.b.toNat < 56, v.b = s.viewCtx.regs.w[o.b.toNat])
        ∧ ∀ f x l, o.b.toNat = 56 + f → s.myCore.regs.fifos[f]? = some (x :: l) →
          (q.a.isNone ∨ o.a ≠ o.b → v.b = x) ∧ (∀ y r, q.a.isSome → o.a = o.b → l = y :: r → v.b = y))
      ∧ (q.d.isSome → ∀ h : o.d.toNat < 56, v.d = s.viewCtx.regs.w[o.d.toNat]))
    ∧ ∀ o : AOps,
      (∀ i ∈ [Instr.add o, .sub o, .mul o, .mulh o, .div o, .rem o, .min o, .max o, .and o, .or o, .xor o, .andn o, .shl o, .shr o, .sar o,
          .rot o, .sel o, .bfx o, .bfi o, .rndc o, .fadd o, .fsub o, .fmul o, .fma o, .fms o, .fdiv o, .fmin o, .fmax o, .cmpeq o, .cmpne o,
          .cmplt o, .cmple o, .cmpun o], (srcsOf i).a.isSome ∧ (srcsOf i).b.isSome)
        ∧ (∀ i ∈ [Instr.addi o, .shli o, .shri o, .sari o, .andi o, .mov o, .abs o, .neg o, .popc o, .clz o, .sext o, .fabs o, .fneg o, .fclass o,
          .fsqrt o, .frcp o, .frsq o, .fexp2 o, .flog2 o, .fsin o, .fcos o, .ftanh o, .cvt o, .cvti o],
          (srcsOf i).a.isSome ∧ (srcsOf i).b.isNone)
        ∧ ∀ i ∈ [Instr.bfi o, .fma o, .fms o], (srcsOf i).d.isSome

/-- R24, R25, R159, R160: writing a destination. A general register takes the value, full and unpoisoned, and no other register
changes; an outbound port appends it to the FIFO it is bound to, or, in the A slot behind a store of its own bundle, to the words that wait
for that; of the predicates, a write to g7 is ignored and any other sets
its own and leaves the rest. -/
def Obligations.DestinationsAreWritten : Prop :=
  ∀ (s : State) (v : Word),
    (∀ r : Fin 56, ((s.setReg r.val v).me.regs.w[r] = v ∧ (s.setReg r.val v).me.regs.full.getLsbD r.val = true
        ∧ (s.setReg r.val v).me.regs.psn.getLsbD r.val = false)
        ∧ SameRegs s.me (s.setReg r.val v).me [r.val] ∧ (s.setReg r.val v).me.regs.g = s.me.regs.g)
      ∧ (∀ p n f, 60 ≤ p → p < 64 → s.portTarget p = some (n, f) → f < (s.core n).regs.fifos.length →
          (s.view = none ∨ s.storesDone s.curCore s.curCtx = true →
            ((s.setReg p v).core n).regs.fifos[f]? = ((s.core n).regs.fifos[f]?).map (· ++ [v]))
          ∧ (s.view ≠ none → s.storesDone s.curCore s.curCtx = false →
            (s.setReg p v).myCore.su.behind = s.myCore.su.behind ++ [⟨s.curCtx, s.me.bundles, .word p n f v⟩]))
      ∧ (∀ n < 7, ∀ b, (s.setPred n b).me.regs.pred n = b ∧ ∀ m, m ≠ n → (s.setPred n b).me.regs.pred m = s.me.regs.pred m)
      ∧ ∀ b m, (s.setPred 7 b).me.regs.pred m = s.me.regs.pred m

/-- The frame of the A slot (R16, R177, R189, R190): whatever an A-slot instruction does, when it has taken effect every byte of
memory, every other context, the special registers and every register and predicate but its destinations are unchanged, and FPCR
has only gained sticky flags; only words that it writes to ports join FIFOs, or those that wait behind stores (R160). -/
def Obligations.ASlotFrame : Prop :=
  ∀ (i : Instr) (s t : State), i.isA = true → exec i s = .next t → t.issue = .done → ScalarFrame i s t

/-! ## Integer instructions -/

/-- R190, R194: ADD, SUB, MUL, MULH, MIN and MAX take effect and write the exact sum, difference, product, upper half of the product,
lesser and greater of the W-bit operands, reduced modulo 2^W and filled. -/
def Obligations.IntegerArithmeticResults : Prop :=
  ∀ (o : AOps) (s : State), o.t.toNat < 4 →
    let x := operandInt o.t (valsOf (.add o) s).a
    let y := operandInt o.t (valsOf (.add o) s).b
    (Issues (.add o) s → Writes (.add o) s o.d (filled o.t (x + y)))
      ∧ (Issues (.sub o) s → Writes (.sub o) s o.d (filled o.t (x - y)))
      ∧ (Issues (.mul o) s → Writes (.mul o) s o.d (filled o.t (x * y)))
      ∧ (Issues (.mulh o) s → Writes (.mulh o) s o.d (filled o.t (x * y / 2 ^ width o.t)))
      ∧ (Issues (.min o) s → Writes (.min o) s o.d (filled o.t (min x y)))
      ∧ (Issues (.max o) s → Writes (.max o) s o.d (filled o.t (max x y)))

/-- R190, R194, R195: AND, OR, XOR, ANDN and the four shifts take effect bit by bit on the W-bit operands; the shifts take their count
from the low 5 or 6 bits of b, and SAR copies bit W − 1 in for every type. The immediate forms take the b field as a signed number k from
−32 to 31 (op6 0x10 to 0x14); ADDI adds it, ANDI masks with its sign extension, and the shifts count k modulo W. -/
def Obligations.BitwiseShiftAndImmediateResults : Prop :=
  ∀ (o : AOps) (s : State), o.t.toNat < 4 →
    let x := operandBit o.t (valsOf (.add o) s).a
    let y := operandBit o.t (valsOf (.add o) s).b
    let w := width o.t
    let n := (valsOf (.add o) s).b.toNat % w
    let k := o.b.toInt
    let m := (k % w).toNat
    (Issues (.and o) s → Writes (.and o) s o.d (fromBits o.t fun j => x j && y j))
      ∧ (Issues (.or o) s → Writes (.or o) s o.d (fromBits o.t fun j => x j || y j))
      ∧ (Issues (.xor o) s → Writes (.xor o) s o.d (fromBits o.t fun j => x j != y j))
      ∧ (Issues (.andn o) s → Writes (.andn o) s o.d (fromBits o.t fun j => x j && !y j))
      ∧ (Issues (.shl o) s → Writes (.shl o) s o.d (fromBits o.t fun j => decide (n ≤ j) && x (j - n)))
      ∧ (Issues (.shr o) s → Writes (.shr o) s o.d (fromBits o.t fun j => x (j + n)))
      ∧ (Issues (.sar o) s → Writes (.sar o) s o.d (fromBits o.t fun j => if j + n < w then x (j + n) else x (w - 1)))
      ∧ (Issues (.rot o) s → Writes (.rot o) s o.d (fromBits o.t fun j => x ((j + w - n) % w)))
      ∧ (Issues (.addi o) s → Writes (.addi o) s o.d (filled o.t (operandInt o.t (valsOf (.addi o) s).a + k)))
      ∧ (Issues (.andi o) s → Writes (.andi o) s o.d (fromBits o.t fun j => x j && o.b.getLsbD (min j 5)))
      ∧ (Issues (.shli o) s → Writes (.shli o) s o.d (fromBits o.t fun j => decide (m ≤ j) && x (j - m)))
      ∧ (Issues (.shri o) s → Writes (.shri o) s o.d (fromBits o.t fun j => x (j + m)))
      ∧ (Issues (.sari o) s → Writes (.sari o) s o.d (fromBits o.t fun j => if j + m < w then x (j + m) else x (w - 1)))
      ∧ (Instr.addi o).opcode = 0x10 ∧ (Instr.shli o).opcode = 0x11 ∧ (Instr.shri o).opcode = 0x12 ∧ (Instr.sari o).opcode = 0x13
      ∧ (Instr.andi o).opcode = 0x14

/-- R43, R166, R196, R198: NOP takes effect and changes nothing; LI writes the immediate or literal, sign-extended to 64 bits, and LIH puts it
above the low half of d. MOV, ABS, NEG, POPC, CLZ, SEXT and SEL take effect. CLZ's result c leaves the operand below 2^(W − c), and at or
above 2^(W − c − 1) unless the operand is 0 and c is W. SEL moves all 64 bits of the source that the predicate selects. -/
def Obligations.MoveCountAndImmediateResults : Prop :=
  (∀ (o : CROps) (s : State), Issues (.nop o) s → exec (.nop o) s = .next { s with issue := .done })
    ∧ (∀ (o : CLOps) (s : State),
      let k : Int := match o.lit with | some l => l.toInt | none => o.imm.toInt
      (Issues (.li o) s → Gives (.li o) s (s.setReg o.d.toNat (BitVec.ofInt 64 k)))
        ∧ (Issues (.lih o) s → ∃ v : Word, v.toNat = (k % 2 ^ 32).toNat * 2 ^ 32 + (valsOf (.lih o) s).d.toNat % 2 ^ 32
            ∧ Gives (.lih o) s (s.setReg o.d.toNat v)))
    ∧ (∀ (o : AOps) (s : State), Issues (.sel o) s → Writes (.sel o) s o.d
        (if s.viewCtx.regs.pred o.t.toNat then (valsOf (.sel o) s).a else (valsOf (.sel o) s).b))
    ∧ ∀ (o : AOps) (s : State), o.t.toNat < 4 →
      let v := (valsOf (.mov o) s).a
      let x := operandInt o.t v
      let u := v.toNat % 2 ^ width o.t
      (Issues (.mov o) s → Writes (.mov o) s o.d (filled o.t x))
        ∧ (Issues (.abs o) s → Writes (.abs o) s o.d (filled o.t x.natAbs))
        ∧ (Issues (.neg o) s → Writes (.neg o) s o.d (filled o.t (-x)))
        ∧ (Issues (.popc o) s → Writes (.popc o) s o.d (BitVec.ofNat 64 ((List.range (width o.t)).countP fun k => v.getLsbD k)))
        ∧ (Issues (.clz o) s → ∃ c ≤ width o.t, Writes (.clz o) s o.d (BitVec.ofNat 64 c) ∧ u < 2 ^ (width o.t - c)
            ∧ (if u = 0 then c = width o.t else 2 ^ (width o.t - c - 1) ≤ u))
        ∧ (Issues (.sext o) s → Writes (.sext o) s o.d
            (fromBits 1 fun k => v.getLsbD (min k (8 * 2 ^ o.t.toNat - 1))))

/-- R199: BFX (op6 0x19) extracts, and BFI (op6 0x1A) replaces, the field of L = min(len, W − pos) bits at pos;
with L = 0 BFX writes 0 and BFI the old value. -/
def Obligations.BitFieldResults : Prop :=
  ∀ (o : AOps) (s : State), o.t.toNat < 4 →
    let w := width o.t
    let v := valsOf (.bfi o) s
    let x := operandBit o.t v.a
    let pos := v.b.toNat % 64 % w
    let L := min (v.b.toNat / 256 % 128) (w - pos)
    (Issues (.bfx o) s → Writes (.bfx o) s o.d
        (if L = 0 then 0
          else fromBits o.t fun k => if k < L then x (pos + k) else !o.t.getLsbD 1 && x (pos + L - 1)))
      ∧ (Issues (.bfi o) s → Writes (.bfi o) s o.d
        (fromBits o.t fun k => if decide (pos ≤ k) && decide (k < pos + L) then x (k - pos) else operandBit o.t v.d k))
      ∧ (Instr.bfx o).opcode = 0x19 ∧ (Instr.bfi o).opcode = 0x1A

/-- R197, R158, R189, R192: DIV (op6 0x04) and REM (op6 0x05) take effect as long-latency producers of one unit: the destination is marked
empty and is owed the quotient truncated toward zero, or the remainder with the sign of the dividend; a zero divisor gives all ones, or the
dividend, and counts ev.divzero once, with the result. FPCR stays as it was. A destination that is an outbound port receives the result at
once. -/
def Obligations.DivisionResults : Prop :=
  ∀ (o : AOps) (s : State), o.t.toNat < 4 →
    let v := valsOf (.div o) s
    let x := operandInt o.t v.a
    let y := operandInt o.t v.b
    let n := if y = 0 then 1 else 0
    let owed := fun (i : Instr) (r : Int) =>
      ∃ t, s.oweWith o.d.toNat (some (filled o.t r)) none ⟨some 0, { dz := n }, 0⟩ = .ok () t ∧ exec i s = .next (issued i s t)
        ∧ t.me.fpcr = s.me.fpcr
    (Issues (.div o) s → owed (.div o) (if y = 0 then -1 else x.tdiv y))
      ∧ (Issues (.rem o) s → owed (.rem o) (if y = 0 then x else x.tmod y))
      ∧ (Instr.div o).opcode = 0x04 ∧ (Instr.rem o).opcode = 0x05

/-- R158, R189, R193: what a long-latency producer leaves behind for a general register: the register is empty, the result is the last owed,
with its unit, its events and its flags, and no other register, no flag, no counter and no byte changes; PRODUCER_RESULT then fills the
register with the value, or poisons it, counts the events and sets the flags. -/
def Obligations.OwedResultReturns : Prop :=
  ∀ (s : State) (r : Fin 56) (v : Option Word) (e : Aside),
    ∃ t, s.oweWith r.val v none e = .ok () t ∧ t.me.regs.full.getLsbD r.val = false ∧ SameRegs s.me t.me [r.val] ∧ SameBytes s t
      ∧ t.me.fpcr = s.me.fpcr ∧ t.myCore.regs.ev = s.myCore.regs.ev
      ∧ t.myCore.owed = s.myCore.owed ++ [⟨s.curCtx, r.val, v, none, e.unit?, e.ev, e.sticky⟩]
      ∧ ∃ u, exec (.producerResult s.curCore s.myCore.owed.length) t = .next u ∧ u.me.regs.full.getLsbD r.val = true
        ∧ u.me.regs.psn.getLsbD r.val = v.isNone ∧ (∀ x, v = some x → u.me.regs.w[r] = x) ∧ u.myCore.owed = s.myCore.owed
        ∧ u.me.fpcr = s.me.fpcr ||| e.sticky ∧ u.myCore.regs.ev = (s.countEv s.curCore e.ev).myCore.regs.ev
        ∧ SameRegs t.me u.me [r.val] ∧ SameBytes t u

/-! ## Floating-point instructions -/

namespace Sys2Proof.Claims

open Sys2Proof.Machine Sys2Proof.Safety

/-- Exponent bits, mantissa bits and bias of a scalar floating-point type code: f32, f16, bf16 (R28, R169). -/
def shape (t : BitVec 3) : Nat × Nat × Nat := if t = 4 then (8, 23, 127) else if t = 5 then (5, 10, 15) else (8, 7, 127)

/-- Width of the type. -/
def fwidth (t : BitVec 3) : Nat := 1 + (shape t).1 + (shape t).2.1

/-- The operand's bits (R190). -/
def fbits (t : BitVec 3) (v : Word) : Nat := v.toNat % 2 ^ fwidth t

def expField (t : BitVec 3) (b : Nat) : Nat := b / 2 ^ (shape t).2.1 % 2 ^ (shape t).1

def manField (t : BitVec 3) (b : Nat) : Nat := b % 2 ^ (shape t).2.1

def negative (t : BitVec 3) (b : Nat) : Bool := decide (2 ^ (fwidth t - 1) ≤ b)

/-- A pattern of the type that is neither an infinity nor a NaN. -/
def Finite (t : BitVec 3) (b : Nat) : Prop := b < 2 ^ fwidth t ∧ expField t b + 1 < 2 ^ (shape t).1

def IsNan (t : BitVec 3) (b : Nat) : Prop := expField t b + 1 = 2 ^ (shape t).1 ∧ manField t b ≠ 0

/-- Signalling: the top mantissa bit is 0 (R171). -/
def signals (t : BitVec 3) (b : Nat) : Bool :=
  expField t b + 1 == 2 ^ (shape t).1 && manField t b != 0 && decide (manField t b < 2 ^ ((shape t).2.1 - 1))

/-- 1 where a condition holds: how often an instruction counts an event. -/
def once (b : Bool) : Nat := if b then 1 else 0

/-- How many of some operands are flushed: where FZ = 1 the subnormal ones (R185, R188). -/
def flushes (t : BitVec 3) (fz : Bool) (l : List Nat) : Nat :=
  (l.filter fun b => fz && expField t b == 0 && manField t b != 0).length

def Subnormal (t : BitVec 3) (b : Nat) : Prop := expField t b = 0 ∧ manField t b ≠ 0

/-- The pattern of an infinity. -/
def infinity (t : BitVec 3) (neg : Bool) : Nat :=
  (if neg then 2 ^ (fwidth t - 1) else 0) + (2 ^ (shape t).1 - 1) * 2 ^ (shape t).2.1

/-- The default NaN (R170). -/
def defaultNan (t : BitVec 3) : Nat := infinity t false + 2 ^ ((shape t).2.1 - 1)

/-- The number that a finite pattern stands for (R169). -/
def val (t : BitVec 3) (b : Nat) : ℚ :=
  let e := expField t b
  let m := manField t b
  let k : ℤ := (max e 1 : ℕ) - (shape t).2.2 - (shape t).2.1
  (if negative t b then -1 else 1) * (if e = 0 then (m : ℚ) else 2 ^ (shape t).2.1 + m) * (2 : ℚ) ^ k

/-- The number that an operand stands for: a subnormal one is 0 where FZ = 1 (R185). -/
def operandVal (t : BitVec 3) (fz : Bool) (v : Word) : ℚ :=
  if fz && expField t (fbits t v) == 0 then 0 else val t (fbits t v)

/-- The pattern of an operand as the instruction takes it: a subnormal one is a zero of its sign where FZ = 1 (R185). -/
def flushed (t : BitVec 3) (fz : Bool) (b : Nat) : Nat :=
  if fz && expField t b == 0 then (if negative t b then 2 ^ (fwidth t - 1) else 0) else b

/-- A finite pattern is the result of rounding an exact value once in a mode (R178). -/
def RoundsTo (t : BitVec 3) (m : RMode) (x : ℚ) (r : Nat) : Prop :=
  Finite t r ∧ ∀ q, Finite t q →
    match m with
    | .rne => |val t r - x| ≤ |val t q - x| ∧ (|val t r - x| = |val t q - x| → val t q = val t r ∨ r % 2 = 0)
    | .rtz => 0 ≤ val t r * x ∧ |val t r| ≤ |x| ∧ (0 ≤ val t q * x → |val t q| ≤ |x| → |val t q| ≤ |val t r|)
    | .rup => x ≤ val t r ∧ (x ≤ val t q → val t r ≤ val t q)
    | .rdn => val t r ≤ x ∧ (val t q ≤ x → val t q ≤ val t r)

/-- Rounded with an unbounded exponent, a value reaches the magnitude `top`, a power of two with a next number below it at the distance
`gap`: what overflow and tininess are judged on (R178, R186). -/
def Reaches (m : RMode) (x top gap : ℚ) : Prop :=
  match m with
  | .rne => top - gap / 2 ≤ |x|
  | .rtz => top ≤ |x|
  | .rup => top ≤ |x| ∨ top - gap < x
  | .rdn => top ≤ |x| ∨ x < gap - top

/-- Overflow: the rounded value lies beyond every finite pattern. -/
def Overflows (t : BitVec 3) (m : RMode) (x : ℚ) : Prop :=
  Reaches m x ((2 : ℚ) ^ ((shape t).2.2 + 1)) ((2 : ℚ) ^ (((shape t).2.2 : ℤ) - (shape t).2.1))

/-- Not tiny: the rounded value is a normal number. -/
def ReachesNormal (t : BitVec 3) (m : RMode) (x : ℚ) : Prop :=
  Reaches m x ((2 : ℚ) ^ (1 - ((shape t).2.2 : ℤ))) ((2 : ℚ) ^ (-((shape t).2.2 : ℤ) - (shape t).2.1))

/-- The pattern of an overflow by its mode: an infinity, or the greatest finite magnitude (R178). -/
def overflowPattern (t : BitVec 3) (m : RMode) (neg : Bool) : Nat :=
  if m = .rne ∨ (m = .rup ∧ neg = false) ∨ (m = .rdn ∧ neg = true) then infinity t neg else infinity t neg - 1

/-- The pattern and the events of an exact value, `n` of whose operands are flushed: rounded once, or an overflow, which sets OF and IX;
where FZ = 1 a subnormal result becomes 0 with its sign, which counts a flush and sets UF and IX; otherwise IX where rounding has changed the
value, and UF where that value is tiny besides (R178, R185, R186, R188). -/
def Result (t : BitVec 3) (m : RMode) (fz : Bool) (x : ℚ) (n b : Nat) (ev : FEv) : Prop :=
  ev.iv = 0 ∧ ev.dz = 0 ∧ ev.sat = 0 ∧ ev.nanblock = 0 ∧ ev.trunc = 0 ∧ ev.skip = 0 ∧
    ((Overflows t m x ∧ b = overflowPattern t m (decide (x < 0)) ∧ ev.of = 1 ∧ ev.ix = 1 ∧ ev.uf = 0 ∧ ev.flush = n)
      ∨ (¬Overflows t m x ∧ ev.of = 0 ∧ ∃ r, RoundsTo t m x r ∧
        ((fz = true ∧ Subnormal t r ∧ b = (if negative t r then 2 ^ (fwidth t - 1) else 0) ∧ ev.flush = n + 1 ∧ ev.uf = 1 ∧ ev.ix = 1)
          ∨ (¬(fz = true ∧ Subnormal t r) ∧ b = r ∧ ev.flush = n
            ∧ (val t r = x → ev.ix = 0 ∧ ev.uf = 0)
            ∧ (val t r ≠ x → ev.ix = 1 ∧ (ReachesNormal t m x → ev.uf = 0) ∧ (¬ReachesNormal t m x → ev.uf = 1))))))

/-- A floating-point instruction takes effect with a result's pattern, zero-filled, its events counted and its flags stuck; `iv` adds the
flag IV. -/
def FWrites (i : Instr) (s : State) (d : BitVec 6) (b : Nat) (ev : FEv) (iv : Bool) : Prop :=
  exec i s = .next (issued i s (((s.countEv s.curCore ev).stick ev iv).setReg d.toNat (BitVec.ofNat 64 b)))

/-- A long-latency one takes effect: its result is owed by its unit, with its events and flags (R189, R192, R193). -/
def FOwes (i : Instr) (s : State) (d : BitVec 6) (b : Nat) (ev : FEv) : Prop :=
  ∃ t, s.oweWith d.toNat (some (BitVec.ofNat 64 b)) none ⟨unitOf i, ev, ev.sticky false⟩ = .ok () t ∧ exec i s = .next (issued i s t)

/-- FPCR's mode and FZ in the set that the bundle reads (R176, R177). -/
def modeOf (s : State) : RMode := RMode.ofFpcr s.viewCtx.fpcr

def fzNow (s : State) : Bool := s.viewCtx.fpcr.getLsbD 2

/-- An integer is the result of rounding a value to an integer in a mode (R178, R181). -/
def RoundsToInt (m : RMode) (x : ℚ) (n : ℤ) : Prop :=
  match m with
  | .rne => |(n : ℚ) - x| ≤ 1 / 2 ∧ (|(n : ℚ) - x| = 1 / 2 → n % 2 = 0)
  | .rtz => n = if 0 ≤ x then ⌊x⌋ else ⌈x⌉
  | .rup => n = ⌈x⌉
  | .rdn => n = ⌊x⌋

/-- The range of an integer type code (R172). -/
def lowest (t : BitVec 3) : ℤ := if t.getLsbD 1 then 0 else -2 ^ (width t - 1)

def highest (t : BitVec 3) : ℤ := if t.getLsbD 1 then 2 ^ width t - 1 else 2 ^ (width t - 1) - 1

/-- A value saturated to the range of an integer type. -/
def saturated (t : BitVec 3) (n : ℤ) : ℤ := max (lowest t) (min n (highest t))

end Sys2Proof.Claims

/-- R178, R185, R186, R188, R190, R201: with finite operands FADD, FSUB, FMUL, FMA and FMS take effect and write the exact sum, difference,
product, d + a × b and d − a × b of the flushed operands, rounded once to the type by FPCR.RM, flushed and zero-filled, with the events of
that rounding and of the flushes; an exact zero result is a zero. -/
def Obligations.FloatingArithmeticRoundsOnce : Prop :=
  ∀ (o : AOps) (s : State), o.t = 4 ∨ o.t = 5 ∨ o.t = 6 →
    let z := fzNow s
    let v := valsOf (.fma o) s
    let w := valsOf (.fadd o) s
    let x := fbits o.t w.a
    let y := fbits o.t w.b
    let a := operandVal o.t z w.a
    let b := operandVal o.t z w.b
    let d := operandVal o.t z v.d
    let gives := fun (i : Instr) (e : ℚ) (l : List Nat) =>
      Issues i s → ∃ r ev, Result o.t (modeOf s) z e (flushes o.t z l) r ev ∧ FWrites i s o.d r ev false
    Finite o.t x → Finite o.t y →
    gives (.fadd o) (a + b) [x, y] ∧ gives (.fsub o) (a - b) [x, y] ∧ gives (.fmul o) (a * b) [x, y]
      ∧ (Finite o.t (fbits o.t v.d) → gives (.fma o) (d + a * b) [x, y, fbits o.t v.d] ∧ gives (.fms o) (d - a * b) [x, y, fbits o.t v.d])

/-- R158, R186, R188, R201: with finite operands and a divisor that is not 0 FDIV takes effect and owes the exact quotient rounded once, with
the events of that; a finite nonzero value by 0 gives an infinity with the exclusive OR of the signs, and DZ. FSQRT of a square owes its root
and no event but a flush, of a negative value the default NaN, and IV, and of any other finite value some pattern of the type with neither IV nor
DZ. -/
def Obligations.FloatingDivisionRoundsOnce : Prop :=
  ∀ (o : AOps) (s : State), o.t = 4 ∨ o.t = 5 ∨ o.t = 6 →
    let z := fzNow s
    let w := valsOf (.fdiv o) s
    let x := fbits o.t w.a
    let y := fbits o.t w.b
    let a := operandVal o.t z w.a
    let b := operandVal o.t z w.b
    Finite o.t x →
    (Issues (.fdiv o) s → Finite o.t y →
        (b ≠ 0 → ∃ r ev, Result o.t (modeOf s) z (a / b) (flushes o.t z [x, y]) r ev ∧ FOwes (.fdiv o) s o.d r ev)
          ∧ (a ≠ 0 → b = 0 →
            FOwes (.fdiv o) s o.d (infinity o.t (negative o.t x != negative o.t y)) { dz := 1, flush := flushes o.t z [x, y] })
          ∧ (a = 0 → b = 0 → FOwes (.fdiv o) s o.d (defaultNan o.t) { iv := 1, flush := flushes o.t z [x, y] }))
      ∧ (Issues (.fsqrt o) s →
        (a < 0 → FOwes (.fsqrt o) s o.d (defaultNan o.t) { iv := 1 })
          ∧ (∀ r, Finite o.t r → 0 < val o.t r → ¬(z = true ∧ Subnormal o.t r) → a = val o.t r * val o.t r → FOwes (.fsqrt o) s o.d r {})
          ∧ (0 ≤ a → ∃ r ev, r < 2 ^ fwidth o.t ∧ ev.iv = 0 ∧ ev.dz = 0 ∧ ev.of = 0 ∧ FOwes (.fsqrt o) s o.d r ev))

/-- R171, R186, R188: a NaN operand of an arithmetic instruction gives the default NaN of the type, whatever the other operand is, and so do
the sum of opposite infinities and the product of a zero and an infinity; a finite number and an infinity add to the infinity. IV is set for a
signalling operand and for each of those two invalid forms, and for a quiet NaN it is not. -/
def Obligations.FloatingSpecialOperands : Prop :=
  ∀ (o : AOps) (s : State), o.t = 4 ∨ o.t = 5 ∨ o.t = 6 →
    let z := fzNow s
    let w := valsOf (.fma o) s
    let x := fbits o.t w.a
    let y := fbits o.t w.b
    let d := fbits o.t w.d
    let n := defaultNan o.t
    let nan := fun (l : List Nat) => ({ iv := once (l.any (signals o.t)), flush := flushes o.t z l } : FEv)
    (IsNan o.t x ∨ IsNan o.t y →
      (∀ i ∈ [Instr.fadd o, .fsub o, .fmul o], Issues i s → FWrites i s o.d n (nan [x, y]) false)
        ∧ (∀ i ∈ [Instr.fma o, .fms o], Issues i s → FWrites i s o.d n (nan [x, y, d]) false)
        ∧ (Issues (.fdiv o) s → FOwes (.fdiv o) s o.d n (nan [x, y])))
      ∧ (IsNan o.t x → Issues (.fsqrt o) s → FOwes (.fsqrt o) s o.d n (nan [x]))
      ∧ (Finite o.t x → Finite o.t y → IsNan o.t d → ∀ i ∈ [Instr.fma o, .fms o], Issues i s → FWrites i s o.d n (nan [x, y, d]) false)
      ∧ (Issues (.fadd o) s → ∀ g, x = infinity o.t g → (y = infinity o.t (!g) → FWrites (.fadd o) s o.d n { iv := 1 } false)
          ∧ (Finite o.t y → FWrites (.fadd o) s o.d (infinity o.t g) { flush := flushes o.t z [y] } false))
      ∧ (Issues (.fmul o) s → ∀ g, x = infinity o.t g → Finite o.t y → operandVal o.t z w.b = 0 →
          FWrites (.fmul o) s o.d n { iv := 1, flush := flushes o.t z [y] } false)

/-- R185, R187, R188, R202, R204: FABS and FNEG act on the sign bit alone. FCLASS writes a one-hot mask of the raw bits. FMIN and FMAX write
the default NaN for two NaNs, the other operand, flushed, for one NaN, and of two finite operands the flushed pattern whose number is the
lesser or the greater, −0 below +0; a signalling operand sets IV, a quiet one does not. -/
def Obligations.FloatingSignClassAndOrder : Prop :=
  ∀ (o : AOps) (s : State), o.t = 4 ∨ o.t = 5 ∨ o.t = 6 →
    let z := fzNow s
    let v := valsOf (.fmin o) s
    let x := fbits o.t v.a
    let y := fbits o.t v.b
    let h := 2 ^ (fwidth o.t - 1)
    let e := expField o.t x
    let m := manField o.t x
    let top := 2 ^ (shape o.t).1 - 1
    let neg := negative o.t x
    let cls := if e = top then (if m = 0 then (if neg then 0 else 7) else if m < 2 ^ ((shape o.t).2.1 - 1) then 8 else 9)
      else if e = 0 then (if m = 0 then (if neg then 3 else 4) else if neg then 2 else 5) else if neg then 1 else 6
    let ev : FEv := { iv := once (signals o.t x || signals o.t y), flush := flushes o.t z [x, y] }
    let a := operandVal o.t z v.a
    let b := operandVal o.t z v.b
    (Issues (.fabs o) s → Writes (.fabs o) s o.d (BitVec.ofNat 64 (x % h)))
      ∧ (Issues (.fneg o) s → Writes (.fneg o) s o.d (BitVec.ofNat 64 (if neg then x - h else x + h)))
      ∧ (Issues (.fclass o) s → Writes (.fclass o) s o.d (BitVec.ofNat 64 (2 ^ cls)))
      ∧ (∀ i ∈ [Instr.fmin o, Instr.fmax o], Issues i s →
        (IsNan o.t x → IsNan o.t y → FWrites i s o.d (defaultNan o.t) ev false)
          ∧ (IsNan o.t x → Finite o.t y → FWrites i s o.d (flushed o.t z y) ev false)
          ∧ (IsNan o.t y → Finite o.t x → FWrites i s o.d (flushed o.t z x) ev false)
          ∧ ∃ r < 2 ^ fwidth o.t, FWrites i s o.d r ev false)
      ∧ (Finite o.t x → Finite o.t y →
        (Issues (.fmin o) s → FWrites (.fmin o) s o.d (if a < b ∨ (a = b ∧ neg = true) then flushed o.t z x else flushed o.t z y) ev false)
          ∧ (Issues (.fmax o) s → FWrites (.fmax o) s o.d (if b < a ∨ (a = b ∧ neg = false) then flushed o.t z x else flushed o.t z y) ev false))

/-- R172, R178, R181, R188, R190, R205: CVT and CVTI between integer types write the value saturated to the destination's range, and count the
saturation alone; from a finite float to an integer type, the value rounded to an integer, by FPCR.RM or toward zero, then saturated: IX
where rounding has changed it, IV without a count of its own where it is saturated; an infinity gives the end of the range, a NaN 0 and IV.
From an integer or another float type to a float, the value rounded once; to the same float type, its integral value. -/
def Obligations.ConversionResults : Prop :=
  ∀ (o : AOps) (s : State) (rtz : Bool), o.t.toNat < 7 → o.b.toNat < 7 →
    let i := if rtz then Instr.cvti o else Instr.cvt o
    let v := (valsOf (.cvt o) s).a
    let src := o.b.setWidth 3
    let m := if rtz then RMode.rtz else modeOf s
    let z := fzNow s
    let x := fbits src v
    let f := flushes src z [x]
    let q := operandVal src z v
    Issues i s →
      (o.t.toNat < 4 → o.b.toNat < 4 → let n := operandInt src v
        FWrites i s o.d (filled o.t (saturated o.t n)).toNat { sat := once (saturated o.t n != n) } false)
        ∧ (o.t.toNat < 4 → 4 ≤ o.b.toNat → Finite src x → ∃ n : ℤ, RoundsToInt m q n ∧ let c := saturated o.t n != n
          FWrites i s o.d (filled o.t (saturated o.t n)).toNat { sat := once c, ix := once (decide ((n : ℚ) ≠ q)), flush := f } c)
        ∧ (o.t.toNat < 4 → 4 ≤ o.b.toNat → ∀ g, x = infinity src g →
          FWrites i s o.d (filled o.t (if g then lowest o.t else highest o.t)).toNat { sat := 1 } true)
        ∧ (o.t.toNat < 4 → 4 ≤ o.b.toNat → IsNan src x → FWrites i s o.d 0 { iv := 1 } false)
        ∧ (4 ≤ o.t.toNat → o.b.toNat < 4 → ∃ r ev, Result o.t m z (operandInt src v) 0 r ev ∧ FWrites i s o.d r ev false)
        ∧ (4 ≤ o.t.toNat → 4 ≤ o.b.toNat → Finite src x → src ≠ o.t → ∃ r ev, Result o.t m z q f r ev ∧ FWrites i s o.d r ev false)
        ∧ (4 ≤ o.t.toNat → src = o.t → Finite src x → ∃ (r : Nat) (n : ℤ), Finite o.t r ∧ val o.t r = n ∧ RoundsToInt m q n
          ∧ FWrites i s o.d r { ix := once (decide ((n : ℚ) ≠ q)), flush := f } false)
        ∧ (4 ≤ o.t.toNat → 4 ≤ o.b.toNat → IsNan src x → FWrites i s o.d (defaultNan o.t) { iv := once (signals src x) } false)
        ∧ ∃ r ev iv, FWrites i s o.d r ev iv

/-- R158, R186, R188, R203: the special functions take effect as long-latency producers, whatever the operand. A NaN operand gives the default
NaN, with IV where it signals; FRCP of ±2^k gives ±2^−k where that is in range, without an event; FRCP and FRSQ of a zero give an infinity
and DZ, as FLOG2 does; FEXP2 and FCOS of a zero give 1; FSIN and FTANH of a zero give it back; of a negative number FRSQ and FLOG2 give the
default NaN and IV. A sine, cosine or hyperbolic tangent of any other finite number sets IX. -/
def Obligations.SpecialFunctionResults : Prop :=
  ∀ (o : AOps) (s : State), o.t = 4 ∨ o.t = 5 ∨ o.t = 6 →
    let z := fzNow s
    let v := (valsOf (.frcp o) s).a
    let x := fbits o.t v
    let one := (shape o.t).2.2 * 2 ^ (shape o.t).2.1
    let g := negative o.t x
    let f := flushes o.t z [x]
    let all := [Instr.frcp o, Instr.frsq o, Instr.fexp2 o, Instr.flog2 o, Instr.fsin o, Instr.fcos o, Instr.ftanh o]
    (∀ i ∈ all, Issues i s → (∃ r < 2 ^ fwidth o.t, ∃ ev, FOwes i s o.d r ev)
        ∧ (IsNan o.t x → FOwes i s o.d (defaultNan o.t) { iv := once (signals o.t x) }))
      ∧ (Finite o.t x → operandVal o.t z v = 0 →
        (Issues (.frcp o) s → FOwes (.frcp o) s o.d (infinity o.t g) { dz := 1, flush := f })
          ∧ (Issues (.frsq o) s → FOwes (.frsq o) s o.d (infinity o.t g) { dz := 1, flush := f })
          ∧ (Issues (.flog2 o) s → FOwes (.flog2 o) s o.d (infinity o.t true) { dz := 1, flush := f })
          ∧ (∀ i ∈ [Instr.fexp2 o, Instr.fcos o], Issues i s → FOwes i s o.d one { flush := f })
          ∧ (∀ i ∈ [Instr.fsin o, Instr.ftanh o], Issues i s → FOwes i s o.d (flushed o.t z x) { flush := f }))
      ∧ (Finite o.t x → operandVal o.t z v < 0 → ∀ i ∈ [Instr.frsq o, Instr.flog2 o], Issues i s → FOwes i s o.d (defaultNan o.t) { iv := 1 })
      ∧ (Finite o.t x → operandVal o.t z v ≠ 0 → ∀ i ∈ [Instr.fsin o, Instr.fcos o, Instr.ftanh o], Issues i s →
          ∃ r ev, ev.ix = 1 ∧ ev.iv = 0 ∧ ev.dz = 0 ∧ FOwes i s o.d r ev)
      ∧ (Issues (.frcp o) s → ∀ r, Finite o.t x → Finite o.t r → manField o.t x = 0 → 0 < expField o.t x → 0 < expField o.t r →
          val o.t x * val o.t r = 1 → FOwes (.frcp o) s o.d r {})

/-- R25, R186, R188, R206, R207: the compares take effect and write p := c and q := NOT c. Integers compare signed for i types and unsigned for
n types, and CMPUN of integers is 0; finite floats compare as numbers with +0 = −0, and with a NaN operand only CMPNE and CMPUN hold. A
signalling NaN sets IV in every compare, a quiet one in CMPLT and CMPLE alone; nothing else is counted but flushed operands. PLOG takes effect and
writes p := f and q := NOT f for the function f that its type field selects; with p and q both g7 it writes nothing. -/
def Obligations.ComparesAndPredicateLogic : Prop :=
  (∀ (o : AOps) (s : State), o.t.toNat < 7 →
    let v := valsOf (.cmpeq o) s
    let p := fbits o.t v.a
    let q := fbits o.t v.b
    let wrote := fun (i : Instr) (c : Bool) (n : Nat) =>
      let ev : FEv := { iv := n, flush := if o.t.toNat < 4 then 0 else flushes o.t (fzNow s) [p, q] }
      Gives i s (((s.countEv s.curCore ev).stick ev false).setPair o.d c)
    let table := fun (eq lt un : Bool) (n : Nat) =>
      (Issues (.cmpeq o) s → wrote (.cmpeq o) (eq && !un) n) ∧ (Issues (.cmpne o) s → wrote (.cmpne o) (!eq || un) n)
        ∧ (Issues (.cmplt o) s → wrote (.cmplt o) (lt && !un) (max n (once un))) ∧ (Issues (.cmple o) s → wrote (.cmple o) ((lt || eq) && !un) (max n (once un)))
        ∧ (Issues (.cmpun o) s → wrote (.cmpun o) un n)
    let x := operandInt o.t v.a
    let y := operandInt o.t v.b
    let a := operandVal o.t (fzNow s) v.a
    let b := operandVal o.t (fzNow s) v.b
    (o.t.toNat < 4 → table (x == y) (decide (x < y)) false 0)
      ∧ (4 ≤ o.t.toNat → IsNan o.t p ∨ IsNan o.t q → table false false true (once (signals o.t p || signals o.t q)))
      ∧ (4 ≤ o.t.toNat → Finite o.t p → Finite o.t q → table (a == b) (decide (a < b)) false 0)
      ∧ (4 ≤ o.t.toNat → ∃ eq lt un n, table eq lt un n))
    ∧ ∀ (o : AOps) (s : State), Issues (.plog o) s →
      let x := s.viewCtx.regs.pred (o.a.toNat % 8)
      let y := s.viewCtx.regs.pred (o.b.toNat % 8)
      let f := [x && y, x || y, x != y, x && !y, x || !y, x, true, false]
      ∃ c t, f[o.t.toNat]? = some c ∧ t = s.setPair o.d c ∧ Gives (.plog o) s t
        ∧ (o.d.toNat % 8 ≠ 7 → o.d.toNat % 8 ≠ o.d.toNat / 8 → t.me.regs.pred (o.d.toNat % 8) = c)
        ∧ (o.d.toNat / 8 ≠ 7 → t.me.regs.pred (o.d.toNat / 8) = !c) ∧ SamePreds s.me t.me [o.d.toNat % 8, o.d.toNat / 8]
        ∧ (o.d = 63 → t.me.regs = s.me.regs)

/-! ## Reset and the step -/

/-- R50, R60, R67, R313, R380: what reset leaves. Every slice and every cluster holds the identity map with generation 0 and is
secure, and so is every 3 MiB region; plane 0 is the ordered plane and alone is powered, and all four are live; every core's ASCR is
0. The model's own choices among these values: that the slices are live (log 4), that no context is live (log 9), and memory in its canonical form,
where what an unlisted byte reads as is log 1's. -/
def Obligations.ResetLeavesWhatTheSpecStates : Prop :=
  let s := State.reset
  (s.pack.map = List.range 50 ∧ s.pack.gen = 0 ∧ s.pack.slices.length = 50)
    ∧ (∀ i < 50, (s.slice i).map = List.range 50 ∧ (s.slice i).gen = 0 ∧ (s.slice i).secure = true ∧ (s.slice i).state = .live)
    ∧ (∀ c, (s.cluster c).sliceMap = List.range 50 ∧ (s.cluster c).sliceGen = 0 ∧ (s.cluster c).secure = true)
    ∧ (∀ pa, s.regionSecure pa = true)
    ∧ (s.pack.planes.ord = 0 ∧ s.pack.planes.on = 0b0001 ∧ s.pack.planes.live = 0b1111 ∧ s.pack.planes.hold = 0)
    ∧ (∀ n, (s.core n).regs.ascr = 0) ∧ (∀ n k, (s.ctx n k).live = false) ∧ Inv s

/-- Every step, from any state whose memory is in its canonical form, leaves memory in its canonical form, whatever issues or
happens in it. -/
def Obligations.StepKeepsMemoryCanonical : Prop := ∀ s t : State, Inv s → step s = .next t → Inv t

namespace Sys2Proof.Claims

open Sys2Proof.Machine Sys2Proof.Safety

/-- The state in which context k of core n issues. -/
def issueState (s : State) (n k : Nat) : State := { s with curCore := n, curCtx := k, issue := .done, view := none }

/-- The state in which a bundle's instructions run: the next program counter stands behind the bundle. -/
def advanced (s : State) : State := s.setMe { s.me with npc := s.me.pc + 8 }

/-- What a step adds to an outcome: a bundle whose instructions took effect is complete, its context stands at the next program
counter and has counted the bundle; a program or control context whose bundle does not merely wait is the one that issued last (R342); a
cycle has passed. -/
def Completes (n k : Nat) (r : Host.Outcome State Fault Refusal) : Host.Outcome State Fault Refusal :=
  match r with
  | .next t =>
    let u := if t.issue = .done ∧ t.me.live = true then t.setMe { t.me with pc := t.me.npc, bundles := t.me.bundles + 1 } else t
    let v := if 11 ≤ k ∨ (u.issue = .waiting ∧ (u.ctx n k).wait = none) then u else u.setCore n { u.core n with last := k }
    .next { v with cycle := v.cycle + 1, view := none }
  | r => r

end Sys2Proof.Claims

open Sys2Proof.Claims

/-- R14, R16, R345: a step runs the decoded instruction. Where it is the turn of context k of core n, the eight bytes that its
program counter leads to are a bundle that raises no trap at decode, and only one of its words decodes to an instruction whose guard
is true and which need not wait, the step is exec of that instruction, with the next program counter behind the bundle. -/
def Obligations.StepRunsTheFetchedInstruction : Prop :=
  ∀ (s s1 : State) (n k va : Nat) (tr : Trans) (b : Bundle) (rest : List Byte) (i : Instr),
    s.agenda = [] → s.pack.power.stopped = false → pick s.cycle s.choices = some (State.issueFrom n k) →
    let s0 := issueState s n k
    (∀ l, s0.me.grant ≠ some (.trapping l)) → s0.me.pc.toNat % 8 = 0 → s0.place s0.who s0.me.pc 8 = some (.flat va) → s0.translate n va .fetch .cluster = .ok (tr, s1) →
    tr.pa + 8 ≤ framedEnd → s1.lineHeld n tr.pa = false →
    (if tr.mt = .uncacheable then s1.hbmPoison tr.pa 8 else s1.clusterPoison (clusterOf n) tr.pa 8) = false →
    takeBundle (if tr.mt = .uncacheable then s1.hbmBytes tr.pa 8 else s1.clusterBytes (clusterOf n) tr.pa 8) = some (b, rest) →
    illegalBundle b = none →
    s1.viewCtx.regs.predPending (guardPred (guardC b.w0)) = false →
    (lBit b.w0 = true ∨ s1.viewCtx.regs.predPending (guardPred (guardA b.w1)) = false) →
    (k < 11 ∨ seqAllowed k i = true) → s1.stalled i = false → s1.unitBusy i = false →
    (s1.slotC b = some (.ok i) ∧ s1.slotA b = none) ∨ (s1.slotC b = none ∧ s1.slotA b = some (.ok i)) →
      step s = Completes n k (exec i (advanced s1))

/-- R16, R17, R161, R283: a bundle of two instructions. A trap of the C slot comes first, then one of the A slot, and with either neither
instruction has an effect. Where both take effect, the A-slot instruction reads the set from before the bundle and acts on the state that the
C-slot instruction has left, but for the bindings of ports, which hold as before the bundle. Where either waits the bundle does, and the A-slot instruction has no
effect, but beside a RELAY that runs it has. -/
def Obligations.BundleInstructionsActTogether : Prop :=
  ∀ (c a : Instr) (s t : State), exec c s = .next t →
    (t.issue = .trapped → runPair c a s = .next t)
      ∧ ∀ u, t.issue ≠ .trapped → exec a { s with view := some s.me } = .next u →
        (u.issue = .trapped → runPair c a s = .next u)
          ∧ (t.issue = .waiting → u.issue ≠ .trapped → runPair c a s = .next t)
          ∧ (t.issue ≠ .waiting → u.issue ≠ .done → runPair c a s = .next u)
          ∧ (t.issue = .done → u.issue = .done → let binds := s.myCore.regs.binds
            (t.myCore.regs.binds = binds → ∀ v, exec a { t with view := some s.me } = .next v → v.issue = .done → runPair c a s = .next v.commit)
              ∧ (t.myCore.regs.binds ≠ binds → ∀ v, exec a { t.withBinds binds with view := some s.me } = .next v → v.issue = .done →
                runPair c a s = .next (v.withBinds t.myCore.regs.binds).commit))
          ∧ (t.issue = .waitingRun → u.issue = .done → ∀ v, exec a { t with view := some s.me } = .next v →
            runPair c a s = .next { v with issue := .waiting })

/-! ## Guards, immediates, pointers, control and status registers -/

/-- R16 step 1, R23: the guard is bits 23:20 of a C-slot word and bits 21:18 of an A-slot word. It is true when
the named predicate, negated where bit 3 is set, is 1; code 0b0111 is always and 0b1111 is never. An instruction whose guard is false has no effect of any kind, whatever it is, and of one guarded by never no illegal-bundle
trap comes. -/
def Obligations.GuardFieldSelectsAPredicate : Prop :=
  (∀ (s : State) (i : Instr), let g := i.fields.guard
    (g.toNat % 8 < 7 → s.guarded i = (s.viewCtx.regs.g.getLsbD (g.toNat % 8) != g.getLsbD 3))
      ∧ (g = 0b0111 → s.guarded i = true)
      ∧ (g = 0b1111 → s.guarded i = false ∧ s.viewCtx.regs.predPending (guardPred g) = false)
      ∧ (i.isEvent = false → s.me.live = true → s.me.wait = none → s.viewCtx.regs.predPending (guardPred g) = false → s.guarded i = false →
        exec i s = .next { s with issue := .done }))
    ∧ (∀ b : Bundle, guardC b.w0 = 15 ∨ (lBit b.w0 = false ∧ guardA b.w1 = 15) → illegalBundle b = none)
    ∧ (∀ (w : W32) (l : Option W32) (i : Instr), decodeC w l = .ok i → i.fields.guard = w.extractLsb' 20 4)
    ∧ ∀ (w : W32) (i : Instr), decodeA w = .ok i → i.fields.guard = w.extractLsb' 18 4

/-- R200: RNDC (op6 0x1D) takes effect and writes the counter-based value of a and b, for every type; types 4 to 7 are ill-formed. -/
def Obligations.RandomValueOfACounter : Prop :=
  ∀ (o : AOps) (s : State),
    let x := (((valsOf (.rndc o) s).b ^^^ (valsOf (.rndc o) s).a).toNat % 2 ^ 32 * 0x0019660D + 0x3C6EF35F) % 2 ^ 32
    (Issues (.rndc o) s → Writes (.rndc o) s o.d (BitVec.ofNat 64 (x ^^^ (x / 2 ^ 16))))
      ∧ (4 ≤ o.t.toNat → (Instr.rndc o).wellFormed = false) ∧ (Instr.rndc o).opcode = 0x1D

/-- R108: PTRG and PTRL. A pointer that fails R64 raises the address trap; any other gives the global form of a private, a local or
another pointer, or the local form of a global one, and nothing else changes. The pointer that PTRG makes of a private one is given
back by PTRL on the same context. -/
def Obligations.PointerConversions : Prop :=
  ∀ (o : CROps) (s : State),
    let a := (valsOf (.ptrg o) s).a
    let low := a.toNat % 2 ^ 56
    let tag := a.toNat / 2 ^ 56
    let k := indexOf s.curCore
    let w := s.me.wp.toNat + 512
    let z := 512 * s.me.psize.toNat
    let ptr := fun (t n : Nat) => BitVec.ofNat 64 (t * 2 ^ 56 + n)
    let g := if tag = 0xF1 then ptr 0xF0 (k * 2 ^ 19 + w + low) else if tag = 0 then ptr (s.pack.pkg + 1) low else a
    let l := if tag = s.pack.pkg + 1 then ptr 0 low
      else if tag = 0xF0 ∧ low / 2 ^ 19 = k ∧ w ≤ low % 2 ^ 19 ∧ low % 2 ^ 19 < w + z then ptr 0xF1 (low % 2 ^ 19 - w) else a
    (Issues (.ptrg o) s → if (s.place s.who a 1).isSome then Gives (.ptrg o) s (s.setReg o.d.toNat g) else Traps (.ptrg o) s { code := 5, addr := a })
      ∧ (Issues (.ptrl o) s → if (s.place s.who a 1).isSome then Gives (.ptrl o) s (s.setReg o.d.toNat l) else Traps (.ptrl o) s { code := 5, addr := a })

/-- R162–R165: CSRR writes the register that its number names: the context's own word, identity, FPCR and CPR at once, TECTL as R147 lays it
out, a counter as a long-latency result (an event counter once no producer of the context still owes a count). A number that is not listed raises the illegal-instruction trap with reason 6. -/
def Obligations.ControlRegisterReads : Prop :=
  ∀ (o : CIOps) (s : State), Issues (.csrr o) s →
    let x := s.viewCtx
    let c := s.myCore
    let gives := fun v : Nat => Gives (.csrr o) s (s.setReg o.d.toNat (BitVec.ofNat 64 v))
    (∀ n, csrNumber o.imm o.lit = some n →
      (n = 0 → gives (x.psize.toNat * 2 ^ 32 + x.wp.toNat))
        ∧ (n = 1 → gives (s.me.group.toNat * 2 ^ 32 + s.pack.pkg * 2 ^ 15 + clusterOf s.curCore * 2 ^ 9 + indexOf s.curCore * 2 ^ 4 + s.curCtx))
        ∧ (n = 2 → gives c.regs.ascr.toNat) ∧ (n = 3 → gives c.regs.eebase.toNat) ∧ (n = 5 → gives x.fpcr.toNat)
        ∧ (n = 6 → gives x.cpr.toNat) ∧ (n = 7 → gives (s.cycle - c.cycle0))
        ∧ (n = 4 → gives ((if c.eng.xhalt then 1 else 0) + (if c.eng.cphalt then 8 else 0) + c.eng.xq.length * 2 ^ 8))
        ∧ (n = 8 → gives ((s.cluster (clusterOf s.curCore)).pace % 256))
        ∧ (∀ k < 16, n = 0x10 + k → ∀ q, c.regs.cc[k]? = some q →
            Owes (.csrr o) s s o.d (some (BitVec.ofNat 64 (q.v.toNat + (if q.e then 2 ^ 32 else 0) + q.ps.code * 2 ^ 33))))
        ∧ (∀ k < 16, n = 0x20 + k → (∀ r ∈ c.owed, r.ctx = s.curCtx → r.ev = {}) → ∀ v, c.regs.ev[k]? = some v →
            Owes (.csrr o) s s o.d (some (v.setWidth 64)))
        ∧ (8 < n ∧ n < 0x10 ∨ 0x2F < n → Traps (.csrr o) s { code := 1, reason := 6 }))
      ∧ (csrNumber o.imm o.lit = none → Traps (.csrr o) s { code := 1, reason := 6 })

namespace Sys2Proof.Claims

open Sys2Proof.Machine Sys2Proof.Safety

/-- What DISC and RES make of a queue `q` with its halt (R146, R147): DISC leaves the running commands alone; RES of a halted queue passes
over the failed commands but those of PAGE, which stand at their beginning; either ends the halt, and DISC prevails. -/
def QueueLeaves (disc res : Bool) (q q' : List Cmd) (halt halt' : Bool) : Prop :=
  if disc then q' = q.filter (·.status == .running) ∧ halt' = false
  else if res && halt then
    q' = (q.filter fun x => x.status != .halted || x.reason == 3).map (fun x => if x.status = .halted then x.fresh else x) ∧ halt' = false
  else q' = q ∧ halt' = halt

/-- The commands that DISC drops with a count: all but the running, and but those that were counted when they failed (R146). -/
def dropped (q : List Cmd) : List Cmd := q.filter fun x => x.status != .running && !(x.status == .halted && x.reason != 3)

/-- Each dropped command counts once, with the error flag, on the counter it names, and poisons the register it names (R146, R159); other
counters, and the contexts where no register is named, are as before. -/
def DropsAreSeen (l : List Cmd) (c d : Core) : Prop :=
  (∀ j q, c.regs.cc[j]? = some q → ∃ q', d.regs.cc[j]? = some q'
      ∧ q'.v = q.v + BitVec.ofNat 32 (l.filter fun x => x.counter == some j).length
      ∧ q'.e = (q.e || (l.any fun x => x.counter == some j)) ∧ ((l.all fun x => x.counter != some j) = true → q' = q))
    ∧ (∀ x ∈ l, ∀ r < 56, x.reg = some r → x.exited = false →
        (d.ctx x.ctx).regs.full.getLsbD r = true ∧ (d.ctx x.ctx).regs.psn.getLsbD r = true)
    ∧ ((∀ x ∈ l, x.reg = none) → d.ctxs = c.ctxs)

end Sys2Proof.Claims

open Sys2Proof.Claims

/-- R147, R161, R162, R165: CSRW takes effect: it sets EEBASE's bits 18 to 6, FPCR's flags and fields, CPR's low three bits or an event
counter, and changes nothing else. Written to TECTL, bits 2 and 1 act on the transfer queue and bits 5 and 4 on the core's transform queue as
DISC and RES do (R146), DISC over RES, and no byte, no other core and nothing of a cluster or the package changes. A register that is
read-only or not listed raises the illegal-instruction trap with reason 6. PBIND takes effect: it binds the outbound port that d names
to an inbound FIFO of a core, or unbinds it, once no word written to that port waits behind a store; a binding word with any other bit set, or with a core above 23, raises the same trap. -/
def Obligations.ControlRegistersAndPortsAreSet : Prop :=
  (∀ (o : CIOps) (s : State), Issues (.csrw o) s →
    let v := (valsOf (.csrw o) s).a
    let c := s.myCore
    let core := fun r => Gives (.csrw o) s (s.setMyCore { c with regs := r })
    ∀ n, csrNumber o.imm o.lit = some n →
      (n = 3 → core { c.regs with eebase := BitVec.ofNat 32 (v.toNat / 64 % 2 ^ 13 * 64) })
        ∧ (n = 4 → ∃ t, Gives (.csrw o) s t
            ∧ QueueLeaves (v.getLsbD 2) (v.getLsbD 1) c.eng.xq t.myCore.eng.xq c.eng.xhalt t.myCore.eng.xhalt
            ∧ QueueLeaves (v.getLsbD 5) (v.getLsbD 4) c.eng.cq t.myCore.eng.cq c.eng.cphalt t.myCore.eng.cphalt
            ∧ DropsAreSeen ((if v.getLsbD 2 then dropped c.eng.xq else []) ++ if v.getLsbD 5 then dropped c.eng.cq else []) c t.myCore
            ∧ SameBytes s t ∧ t.clusters = s.clusters ∧ t.pack = s.pack ∧ ∀ m, m ≠ s.curCore → t.core m = s.core m)
        ∧ (n = 5 → Gives (.csrw o) s (s.setMe { s.me with fpcr := v &&& 0x1F07 }))
        ∧ (n = 6 → Gives (.csrw o) s (s.setMe { s.me with cpr := BitVec.ofNat 64 (v.toNat % 8) }))
        ∧ (∀ k < 16, n = 0x20 + k → core { c.regs with ev := c.regs.ev.set k (BitVec.ofNat 32 v.toNat) })
        ∧ (n < 3 ∨ 6 < n ∧ n < 0x20 ∨ 0x2F < n → Traps (.csrw o) s { code := 1, reason := 6 }))
    ∧ (∀ (o : CIOps) (s : State), Issues (.csrw o) s → csrNumber o.imm o.lit = none → Traps (.csrw o) s { code := 1, reason := 6 })
    ∧ ∀ (o : CROps) (s : State), Issues (.pbind o) s →
      let w := (valsOf (.pbind o) s).a.toNat
      let c := s.myCore
      if w < 2 ^ 16 ∧ w / 2 ^ 10 % 32 = 0 ∧ w / 32 % 8 = 0 ∧ w % 32 < 24 then
        if c.su.behind.any (fun q => match q.what with | .word p _ _ _ => p == o.d.toNat | .slots _ _ => false) = true then
          exec (.pbind o) s = .next (waits s)
        else Gives (.pbind o) s (s.setMyCore { c with regs := { c.regs with
          binds := c.regs.binds.set (o.d.toNat - 60) (if 2 ^ 15 ≤ w then some ⟨w % 32, w / 256 % 4⟩ else none) } })
      else Traps (.pbind o) s { code := 1, reason := 6 }

/-! ## Branches, traps, waits -/

/-- R18, R345, R346: the branches take effect: they set the next program counter, CALL and the linking JMPR write the address behind the
bundle to w55, LOOP writes its decremented count and branches while that is not 0, and nothing else changes. JMPR to an address that
is no multiple of 8, or is no address of this package, raises the address trap. -/
def Obligations.BranchesTransferControl : Prop :=
  ∀ s : State,
    let at_ := fun d : Int => s.me.pc + BitVec.ofInt 64 (8 * d)
    let go := fun (t : State) (pc : Word) => t.setMe { t.me with npc := pc }
    (∀ o : CBOps, (Issues (.br o) s → Gives (.br o) s (go s (at_ o.disp.toInt)))
        ∧ (Issues (.call o) s → Gives (.call o) s (go (s.setReg 55 (s.me.pc + 8)) (at_ o.disp.toInt))))
      ∧ (∀ o : CROps,
        let a := (valsOf (.jmpr o) s).a
        let tag := a.toNat / 2 ^ 56
        let ok := a.toNat % 8 = 0 ∧ (tag = 0 ∨ tag ≤ 0xC0 ∧ tag = s.pack.pkg + 1)
        (Issues (.jmpr o) s → (ok → Gives (.jmpr o) s (go s a)) ∧ (¬ok → Traps (.jmpr o) s { code := 5, addr := a }))
          ∧ (Issues (.jmprLink o) s → (ok → Gives (.jmprLink o) s (go (s.setReg 55 (s.me.pc + 8)) a))
            ∧ (¬ok → Traps (.jmprLink o) s { code := 5, addr := a })))
      ∧ (∀ o : CIOps, Issues (.loop o) s →
        let d := (valsOf (.loop o) s).a - 1
        let k := match o.lit with | some l => l.toInt | none => o.imm.toInt
        let t := s.setReg o.d.toNat d
        Gives (.loop o) s (if d = 0 then t else go t (at_ k)))

/-! ## Loads, stores, atomics, fences -/

namespace Sys2Proof.Claims

open Sys2Proof.Machine Sys2Proof.Safety

/-- Displacement, order code and scope code of a CI memory instruction's word or literal (R21, R22). -/
def dispOf (o : CIOps) (size : Nat) : Int :=
  match o.lit with
  | some l => (l.setWidth 24).toInt
  | none => o.imm.toInt * size

def orderOf (o : CIOps) : Nat := match o.lit with | some l => l.toNat / 2 ^ 24 % 4 | none => 0

def scopeOf (o : CIOps) : Nat := match o.lit with | some l => l.toNat / 2 ^ 26 % 8 | none => 2

/-- A load: instruction, destination, displacement, size, signed fill, acquire, scope code (R290). -/
structure LoadForm where
  i : Instr
  d : BitVec 6
  disp : Int
  n : Nat
  signed : Bool
  acq : Bool
  scope : Nat

def loadForms (s : State) (o : CIOps) (q : CROps) : List LoadForm :=
  let f := fun (i : Instr) (n : Nat) (sg : Bool) => (⟨i, o.d, dispOf o n, n, sg, decide (orderOf o = 1 ∨ orderOf o = 3), scopeOf o⟩ : LoadForm)
  [f (.ldb o) 1 true, f (.ldbn o) 1 false, f (.ldh o) 2 true, f (.ldhn o) 2 false, f (.ldw o) 4 true, f (.ldwn o) 4 false,
    f (.ldd o) 8 false, ⟨.ldxd q, q.d, (valsOf (.ldxd q) s).b.toInt * 8, 8, false, false, 2⟩,
    ⟨.ldacq o, o.d, dispOf o 8, 8, false, true, scopeOf o⟩]

/-- A store: instruction, displacement, size, order code, scope code, policy (R293). -/
structure StoreForm where
  i : Instr
  disp : Int
  n : Nat
  order : Nat
  scope : Nat
  pol : Nat

def storeForms (s : State) (o : CIOps) (q : CROps) : List StoreForm :=
  let cpr := s.me.cpr.toNat % 8
  let pol := match o.lit with | some l => l.toNat / 2 ^ 29 | none => cpr
  let f := fun (i : Instr) (n : Nat) => (⟨i, dispOf o n, n, orderOf o, scopeOf o, pol⟩ : StoreForm)
  [f (.stb o) 1, f (.sth o) 2, f (.stw o) 4, f (.std o) 8, ⟨.stxd q, (valsOf (.stxd q) s).b.toInt * 8, 8, 0, 2, cpr⟩,
    ⟨.strel o, dispOf o 8, 8, 2, scopeOf o, pol⟩]

/-- An atomic: instruction, size, and what holds of the bits that it writes for an old value (R302, R303). -/
structure AtomicForm where
  i : Instr
  n : Nat
  new : Word → Nat → Prop

/-- AFADD's sum of the old word and of d (R303): of finite FP32 numbers, rounded once to nearest, operands and result flushed where FZ = 1; of
a NaN the default NaN. -/
def Afadds (s : State) (d m : Word) (r : Nat) : Prop :=
  let x := fbits 4 m
  let y := fbits 4 d
  (Finite 4 x → Finite 4 y → ∃ ev, Result 4 .rne (fzNow s) (operandVal 4 (fzNow s) m + operandVal 4 (fzNow s) d) (flushes 4 (fzNow s) [x, y]) r ev)
    ∧ (IsNan 4 x ∨ IsNan 4 y → r = defaultNan 4)

def atomicForms (s : State) (o : CIOps) : List AtomicForm :=
  let f := fun (i : Instr) (g : Word → Word → Word) => (⟨i, 8, fun m r => r = (g m (valsOf i s).d).toNat⟩ : AtomicForm)
  [f (.aadd o) fun m v => m + v, f (.aand o) fun m v => m &&& v, f (.aor o) fun m v => m ||| v, f (.axor o) fun m v => m ^^^ v,
    f (.amin o) fun m v => if v.toInt < m.toInt then v else m, f (.amax o) fun m v => if m.toInt < v.toInt then v else m,
    f (.aminn o) fun m v => if v.toNat < m.toNat then v else m, f (.amaxn o) fun m v => if m.toNat < v.toNat then v else m,
    f (.aswp o) fun _ v => v, f (.acas o) fun m v => if m = v then s.myCore.srcVal s.viewCtx [] (o.d.toNat + 1) else m,
    ⟨.afadd o, 4, Afadds s (valsOf (.afadd o) s).d⟩]

/-- The context is no handler of a row that it has already given back with RDONE (R249). -/
def NoLateAccess (s : State) : Prop :=
  ∀ tok, s.me.token = some tok → (∀ d ∈ s.myCore.mat.drains, ∀ b, some b ∈ d.bufs → ¬(b.token = tok ∧ b.released = true))
    ∧ ∀ b ∈ s.myCore.mat.spent, b.token ≠ tok

/-- Nothing of the core stands in the way of an access to `n` bytes: no running transfer, no store fault, no store of the context
in the buffer, no row that it has given back (R134, R249, R295, R299). -/
structure Quiet (s : State) (norm : Word) (n : Nat) : Prop where
  score : s.scoreHit s.curCore (rangeOf norm n) = false
  fault : s.faultOverlap (rangeOf norm n) = false
  buffer : ∀ e ∈ s.myCore.su.buf, e.ctx = s.curCtx → (rangeOf e.norm e.size).overlaps (rangeOf norm n) = false
  late : NoLateAccess s

/-- The `n` bytes at a scratchpad key lie in no slot that a register set of its core holds (R157). -/
def NoActiveSlot (s : State) (k n : Nat) : Prop :=
  let c := (k - spBase) / 2 ^ 19
  ∀ q ∈ (s.core c).ctxs, ∀ r ∈ q.2.heldSlots, k + n ≤ spKey c (q.2.wp.toNat + r.1) ∨ spKey c (q.2.wp.toNat + r.1 + r.2) ≤ k

/-- A loaded value, filled to 64 bits (R190, R290). -/
def extended (sg : Bool) (n v : Nat) : Word :=
  if sg = true ∧ 2 ^ (8 * n) ≤ 2 * v then BitVec.ofInt 64 ((v : Int) - 2 ^ (8 * n)) else BitVec.ofNat 64 v

/-- The byte of a physical address as a cluster's harts see it: their L1s' copy, else the home's (R109, R111). -/
def seenByte (s : State) (cl pa : Nat) : Byte := s.clusterByte cl pa

def seenNat (s : State) (cl pa n : Nat) : Nat := bytesToNat ((List.range n).map fun i => seenByte s cl (pa + i))

/-- The L1s of a cluster hold the sector of an address (R109). -/
def SectorHeld (s : State) (cl pa : Nat) : Prop :=
  ∃ e, tabGet (s.cluster cl).l1 (lineOf pa) = some e ∧ e.valid.getLsbD (pa % 192 / 48) = true

/-- Below the slices nothing differs: no tensor line waits to be written back, HBM holds the bytes and the mark of every clean sector that
a slice holds (R76, R82, R84), and every poison mark stands at its granule (R57, R106). -/
def CachesAgree (s : State) : Prop :=
  (∀ l ∈ s.pack.tlines, l.dirty = 0) ∧ (∀ g ∈ s.poison, (granule g).1 = g)
    ∧ ∀ line e, tabGet s.pack.flines line = some e → ∀ k < 4, e.valid.getLsbD k = true → e.dirty.getLsbD k = false →
      let a := 192 * line + 48 * k
      (e.hbm.drop (48 * k)).take 48 = s.bytesAt a 48 ∧ e.hpsn.getLsbD k = s.poisonedAt a 48

/-- A byte that an address may take from below: the one that a tensor line holds for it (R84), or HBM's own byte under a sector that a slice
holds (R76, R82). -/
def Below (s : State) (k : Nat) (b : Byte) : Prop :=
  (∃ l ∈ s.pack.tlines, ∃ o < 192, l.fill + o = k ∧ l.dirty.getLsbD (o / 48) = true ∧ (l.data[o]?).getD 0 = b)
    ∨ ∃ e, tabGet s.pack.flines (lineOf k) = some e ∧ (e.hbm[k % 192]?).getD 0 = b

/-- A byte that a cache, or HBM below a slice, holds for an address (R76, R84, R109). -/
def DirtyCopy (s : State) (k : Nat) (b : Byte) : Prop :=
  Below s k b ∨ ∃ cl, ∃ q ∈ (s.cluster cl).l1, ∃ o < 192, 192 * q.1 + o = k ∧ q.2.dirty.getLsbD o = true ∧ q.2.byte o = b

/-- Memory changes only where a line leaves a cache (R83, R109, R112): every byte is as before, or the one that a cache, or HBM below it,
holds for it. -/
def OnlyWritesBack (s t : State) : Prop := ∀ k, t.byteAt k = s.byteAt k ∨ DirtyCopy s k (t.byteAt k)

/-- The same outside `n` bytes. -/
def OnlyWritesBackBut (s t : State) (lo n : Nat) : Prop :=
  ∀ k, k < lo ∨ lo + n ≤ k → t.byteAt k = s.byteAt k ∨ DirtyCopy s k (t.byteAt k)

/-- No transform of any core is between its issue and its end, so that no write falls into a destination that is undefined (R150). -/
def NoTransform (s : State) : Prop := ∀ p ∈ s.cores, ∀ c ∈ p.2.eng.cq, c.racing = false

/-- The window bytes at a key lie in no active slot (R157): they are cluster memory's, or in a scratchpad where no register set stands. -/
def Free (s : State) (k n : Nat) : Prop := cmBase ≤ k ∨ NoActiveSlot s k n

/-- The state after the order part of an access at a scope (R112, R113): a release writes the cluster's dirty bytes back, an acquire
drops its lines. -/
def ordered (s : State) (sc : Scope) (rel acq : Bool) : State :=
  let s1 := if rel then s.syncL1 (clusterOf s.curCore) sc else s
  if acq then s1.dropL1 (clusterOf s.curCore) sc else s1

/-- Every register of every context is as before. -/
def SameRegisters (s t : State) : Prop := ∀ n k, (t.ctx n k).regs = (s.ctx n k).regs

end Sys2Proof.Claims

/-- R287, R288: an access whose sum carries into the tag, whose address is no multiple of its size, or whose address fails the rules
of pointers and windows raises the address trap with the generic address, whatever the access: load, store, atomic or MONITOR. On a carry or a
borrow that is the sum on bits 55 to 0 under the tag of a, as R287 forms it. -/
def Obligations.BadAddressesTrap : Prop :=
  ∀ (s : State) (o : CIOps) (q : CROps) (i : Instr) (disp : Int) (n : Nat),
    (i, disp, n) ∈ (loadForms s o q).map (fun f => (f.i, f.disp, f.n)) ++ (storeForms s o q).map (fun f => (f.i, f.disp, f.n))
        ++ (atomicForms s o).map (fun f => (f.i, dispOf o f.n, f.n)) ++ [(.monitor o, dispOf o 8, 8)] →
      Issues i s →
        (∀ va, addPtr (valsOf i s).a disp = some va → va.toNat % n ≠ 0 ∨ s.place s.who va n = none → Traps i s { code := 5, addr := va })
          ∧ (addPtr (valsOf i s).a disp = none → Traps i s { code := 5, addr := wrapPtr (valsOf i s).a disp })

/-- R98, R99, R105, R113, R116, R290–R292: a load of a scratchpad or cluster memory takes effect and owes its register the bytes at the
address, little-endian and filled, or poison where a word is poisoned; without an acquire nothing else changes in the scratchpad case. An acquire
whose scope does not match the recorded release raises trap 7; beyond CLUSTER it leaves the cluster with no line. -/
def Obligations.WindowLoadsReturnTheBytes : Prop :=
  ∀ (s : State) (o : CIOps) (q : CROps), ∀ f ∈ loadForms s o q, Issues f.i s → s.me.pfu = none →
    ∀ va k norm, addPtr (valsOf f.i s).a f.disp = some va → va.toNat % f.n = 0 → s.place s.who va f.n = some (.window k norm) →
      Quiet s norm f.n →
      let sc := Scope.ofCode f.scope
      let v := fun (t : State) => if t.poisonedAt k f.n then none else some (extended f.signed f.n (t.natAt k f.n))
      (f.acq = false → f.d.toNat < 56 ∨ s.poisonedAt k f.n = false →
          (k < cmBase → Owes f.i s s f.d (v s)) ∧ ∃ t, Owes f.i s t f.d (v s) ∧ t.me.regs = s.me.regs ∧ SameBytes s t)
        ∧ (f.acq = true → s.mismatch s.curCore (.window k norm) sc = none → f.d.toNat < 56 →
          ∃ t, Owes f.i s t f.d (v t) ∧ t.me.regs = s.me.regs ∧ OnlyWritesBack s t
            ∧ (sc.wider .cluster = false → v t = v s) ∧ (sc.wider .cluster = true → (t.cluster (clusterOf s.curCore)).l1 = []))
        ∧ (f.acq = true → ∀ r, s.mismatch s.curCore (.window k norm) sc = some r →
          Traps f.i s { code := 7, addr := va, arg := releaserWord r })

namespace Sys2Proof.Claims

open Sys2Proof.Machine Sys2Proof.Safety

/-- A load of `n` bytes of memory, translated to `tr`, reads on the state `x` that its order part leaves (R50, R51, R76, R109, R111, R291): a
discarded page 0, a register of the partition's block its bytes, the host a value of its own (log 35), an uncacheable or device page what the
memory controller reads, any other what the cluster's harts see; poison, for which an outbound port traps. -/
def ReadsMemory (f : LoadForm) (s x : State) (a : Nat) (va : Word) (tr : Trans) : Prop :=
  let cl := clusterOf s.curCore
  let val := fun bs : List Byte => extended f.signed f.n (bytesToNat bs)
  let gives := fun (t : State) (v : Option Word) => if f.d.toNat < 56 ∨ v ≠ none then Owes f.i s t f.d v else Traps f.i s { code := 4, reg := f.d.toNat }
  let hbm := fun (t : State) => if t.hbmPoison tr.pa f.n then none else some (val (t.hbmBytes tr.pa f.n))
  let seen := fun (t : State) => if t.clusterPoison cl tr.pa f.n then none else some (extended f.signed f.n (seenNat t cl tr.pa f.n))
  (tr.disc = true → gives x (some 0))
    ∧ (tr.disc = false → x.aliasHit s.curCore a tr.pa f.n = false →
      (windowBase ≤ tr.pa → tr.pa < windowEnd → (∀ b, x.windowRead (x.partOf s.curCore) tr.pa f.n = some b → gives x (some (val b)))
          ∧ (x.windowRead (x.partOf s.curCore) tr.pa f.n = none → Traps f.i s { code := 9, addr := va, arg := BitVec.ofNat 64 tr.pa }))
        ∧ (hostBase ≤ tr.pa → ∃ t w, gives t (some w) ∧ SameBytes x t ∧ SameRegisters x t)
        ∧ (tr.pa + f.n ≤ framedEnd →
          (tr.mt = .device → gives x (hbm x))
          ∧ (tr.mt = .uncacheable → ∃ t, gives t (hbm t) ∧ SameBytes x t ∧ t.pack = x.pack)
          ∧ (tr.mt = .writeBack ∨ tr.mt = .writeThrough →
            ∃ t, gives t (seen t) ∧ OnlyWritesBack x t
              ∧ (tr.pa % 48 + f.n ≤ 48 → SectorHeld x cl tr.pa ∨ CachesAgree x → seen t = seen x))))

end Sys2Proof.Claims

/-- R70, R74, R76, R79, R98, R99, R104, R113, R291, R292: a load of memory is translated: where the walk refuses it, the page, world or
unbacked trap is raised; otherwise it reads by its page's memory type. An acquire first checks its scope against the recorded release, trap 7
where they do not match, and waits while a retiring slice carries the record; then it leaves the cluster without a line where it is wider than
CLUSTER, and reads. The line that the load brings in may displace others: memory takes what those hold, and nothing else of it changes. -/
def Obligations.MemoryLoadsReturnTheBytes : Prop :=
  ∀ (s : State) (o : CIOps) (q : CROps), ∀ f ∈ loadForms s o q, Issues f.i s → s.me.pfu = none →
    ∀ va a, addPtr (valsOf f.i s).a f.disp = some va → va.toNat % f.n = 0 → s.place s.who va f.n = some (.flat a) →
      Quiet s (mkPtr 0 a) f.n →
      let sc := Scope.ofCode f.scope
      (∀ c, s.translate s.curCore a .read sc = .error (.page c) → Traps f.i s { code := 6, reason := c, addr := va, arg := 1 })
        ∧ (s.translate s.curCore a .read sc = .error .world → Traps f.i s { code := 10, addr := va })
        ∧ (∀ pa, s.translate s.curCore a .read sc = .error (.unbacked pa) → Traps f.i s { code := 9, addr := va, arg := BitVec.ofNat 64 pa })
        ∧ ∀ tr s1, s.translate s.curCore a .read sc = .ok (tr, s1) → s.lineHeld s.curCore tr.pa = false →
            (tr.mt = .device → s.storesDone s.curCore s.curCtx = true) →
            let sp := Spot.flat tr.pa tr.mt
            let carried := s1.checkCarried (clusterOf s.curCore) sp sc
            (f.acq = false → ReadsMemory f s s1 a va tr)
              ∧ (f.acq = true → carried = none → s1.mismatch s.curCore sp sc = none →
                ReadsMemory f s ((ordered s1 sc false true).touchLine s.curCore sp none (sc.wider .cluster)) a va tr)
              ∧ (f.acq = true → carried = none → ∀ r, s1.mismatch s.curCore sp sc = some r →
                Traps f.i s { code := 7, addr := va, arg := releaserWord r })
              ∧ (f.acq = true → ∀ line, carried = some line → exec f.i s = .next (waits (s1.waitFor (.carried line))))

/-- R293, R294, R297, R299: a store takes effect at once: with room in the buffer one entry is added behind the others, and nothing else
changes; with the buffer full it waits. A handler's release meets the fault of its program's store. -/
def Obligations.StoresEnterTheBuffer : Prop :=
  ∀ (s : State) (o : CIOps) (q : CROps), ∀ f ∈ storeForms s o q, Issues f.i s → s.me.pfu = none →
    ∀ va p, addPtr (valsOf f.i s).a f.disp = some va → va.toNat % f.n = 0 → s.place s.who va f.n = some p →
      NoLateAccess s →
      let c := s.myCore
      let meets := (Order.ofCode f.order).releases = true ∧ s.me.ih = true ∧ c.storeTrapPending s.curCtx = true
      let e : StoreEntry := { va := va, norm := p.norm, data := (valsOf f.i s).d, size := f.n, pol := f.pol, scope := Scope.ofCode f.scope, order := Order.ofCode f.order, ctx := s.curCtx, pc := s.me.pc, bundle := s.me.bundles, group := s.me.group, launch := s.me.launch, ih := s.me.ih, phase := c.newPhase s.curCtx }
      (meets → Traps f.i s { code := 11 })
        ∧ (¬meets → (∀ pkg a, p ≠ .remote pkg a) → s.scoreHit s.curCore (rangeOf p.norm f.n) = false →
          (c.su.buf.length < 32 → Gives f.i s (s.setMyCore { c with su := { c.su with buf := c.su.buf ++ [e] } }))
            ∧ (32 ≤ c.su.buf.length → exec f.i s = .next (waits s)))

/-- R7, R50, R76, R98, R105, R111, R112, R116, R117, R294, R296, R327, R331: the oldest ready store of a context leaves the buffer and is performed.
In a window the bytes take the data, little-endian. A write-back store at CLUSTER scope is held by its cluster's L1, where its harts see it;
any other goes home: to the slice's bytes, past which a write to an uncacheable or device page goes to the memory controller, to a register of
the block, or to the host. A release beyond CLUSTER first leaves the cluster with no dirty byte, and every release records itself; what an
earlier release or atomic left dirty goes ahead. Of memory elsewhere only what lines that leave a cache bring may change, and no register
changes. -/
def Obligations.StoresArePerformed : Prop :=
  ∀ (s : State) (n i : Nat) (e : StoreEntry), Inv s → (s.core n).su.buf[i]? = some e → e.phase = .ready →
    (∀ j < i, ∀ x, (s.core n).su.buf[j]? = some x → ¬(x.ctx = e.ctx ∧ x.phase.out = true)) → (∀ q ∈ (s.core n).su.behind, q.ctx ≠ e.ctx) →
    NoTransform s →
    let v := e.data.toNat % 256 ^ e.size
    let cl := clusterOf n
    let rel := e.order.releases
    let leaves := fun (x t : State) => exec (.storeLeavesBuffer n i) s = .next t ∧ SameRegisters s t
      ∧ (t.core n).su.buf = (x.core n).su.buf.eraseIdx i
      ∧ (rel = true → e.scope.wider .cluster = true → ∀ q ∈ (t.cluster cl).l1, q.2.dirty = 0)
    (∀ k, 0xF0 ≤ tagOf e.norm → windowKey cl e.norm = k → spBase ≤ k → Free s k e.size →
        ∃ t, leaves s t ∧ t.natAt k e.size = v ∧ OnlyWritesBackBut s t k e.size
          ∧ (rel = false → (∀ q ∈ (s.cluster cl).l1, q.2.sync = false) → SameBytesBut s t k e.size)
          ∧ (rel = true → recOf (t.cluster cl).winRecs (winLine e.norm) = some (s.pack.pkg, n, e.scope)))
      ∧ (∀ tr s1, tagOf e.norm < 0xF0 → s.translate n (lowOf e.norm) .write e.scope = .ok (tr, s1) → s1.lineHeld n tr.pa = false →
        (∀ u, windowBase ≤ tr.pa → tr.pa < windowEnd → s1.windowWrite (s1.partOf n) tr.pa (natBytes e.data.toNat e.size) = some u →
          ∃ t, leaves s1 t ∧ OnlyWritesBack s1 t ∧ t.pack.parts = u.pack.parts ∧ t.pack.launches = u.pack.launches)
        ∧ (hostBase ≤ tr.pa → ∃ t, leaves s1 t ∧ OnlyWritesBack s1 t
          ∧ t.out = s1.out ++ [.hostWrite (s1.partOf n) (tr.pa - hostBase) e.size e.data])
        ∧ (tr.pa + e.size ≤ framedEnd → tr.pa % 48 + e.size ≤ 48 →
          (heldInL1 tr.mt e.pol e.scope = true → ∃ t, leaves s1 t ∧ seenNat t cl tr.pa e.size = v ∧ OnlyWritesBack s1 t
            ∧ (∀ k, k < tr.pa ∨ tr.pa + e.size ≤ k → seenByte t cl k = seenByte s1 cl k ∨ seenByte t cl k = s1.byteAt k ∨ DirtyCopy s1 k (seenByte t cl k))
            ∧ (rel = true → recOf (t.cluster cl).flatRecs (lineOf tr.pa) = some (s.pack.pkg, n, e.scope)))
          ∧ (heldInL1 tr.mt e.pol e.scope = false → ∃ t, leaves s1 t ∧ OnlyWritesBackBut s1 t tr.pa e.size
            ∧ (tr.mt = .writeBack ∨ tr.mt = .writeThrough → t.natAt tr.pa e.size = v ∧ seenNat t cl tr.pa e.size = v)
            ∧ (tr.mt = .uncacheable ∨ tr.mt = .device → bytesToNat (t.hbmBytes tr.pa e.size) = v)
            ∧ (rel = true → recOf t.pack.recs (lineOf tr.pa) = some (s.pack.pkg, n, e.scope)))))

/-- R297, R298, R359: a store that the walk refuses leaves the buffer into the first free record slot: the record holds its address,
data, bundle and VALID at EEBASE + 256 + 32 × slot, nothing else of memory changes, and trap 11 with the reason is pending. -/
def Obligations.FailingStoresAreRecorded : Prop :=
  ∀ (s : State) (n i q c : Nat) (e : StoreEntry), Inv s → (s.core n).su.buf[i]? = some e → e.phase = .ready →
    (∀ j < i, ∀ x, (s.core n).su.buf[j]? = some x → ¬(x.ctx = e.ctx ∧ x.phase.out = true)) → tagOf e.norm < 0xF0 →
    (s.translate n (lowOf e.norm) .write e.scope = .error (.page c) ∨ (s.translate n (lowOf e.norm) .write e.scope = .error .world ∧ c = 8)
      ∨ ∃ pa, s.translate n (lowOf e.norm) .write e.scope = .error (.unbacked pa) ∧ c = 9) → (s.core n).su.slots[q]? = some none →
    (∀ j < q, (s.core n).su.slots[j]? ≠ some none) →
      let off := ((s.core n).regs.eebase.toNat + 256 + 32 * q) % 2 ^ 19
      let at_ := spBase + n * 2 ^ 19 + off
      ∃ t, exec (.storeLeavesBuffer n i) s = .next t ∧ t.natAt at_ 8 = e.va.toNat ∧ t.natAt (at_ + 8) 8 = e.data.toNat
        ∧ t.natAt (at_ + 16) 8 = e.pc.toNat ∧ t.natAt (at_ + 31) 1 = 1 ∧ SameBytesBut s t at_ 32 ∧ SameRegisters s t
        ∧ (t.ctx n e.ctx).pend = (s.ctx n e.ctx).pend ++ [⟨q, 11, c, q, e.va, e.pc, mkPtr 0xF0 (indexOf n * 2 ^ 19 + off)⟩]

/-- R98, R99, R112, R113, R302–R304: an atomic, AFADD among them, takes effect once the context's earlier accesses are done. Its order part
comes first: an acquire whose scope does not match the recorded release raises trap 7, a release writes the cluster's dirty bytes back and an
acquire drops its lines where they are wider than CLUSTER. Then it owes its register the old value, and leaves the new one: in a window, in
the cluster's L1, or at the home slice for a wider scope, a write-through or an uncacheable page; a poisoned value is owed as poison and
nothing is written. Of memory elsewhere only what lines that leave a cache bring may change; no register changes. -/
def Obligations.AtomicsReplaceMemory : Prop :=
  ∀ (s : State) (o : CIOps), ∀ f ∈ atomicForms s o, Inv s → Issues f.i s → s.me.pfu = none →
    ∀ va p, addPtr (valsOf f.i s).a (dispOf o f.n) = some va → va.toNat % f.n = 0 → s.place s.who va f.n = some p →
      s.scoreHit s.curCore (rangeOf p.norm f.n) = false → s.nothingOwed = true → s.storesDone s.curCore s.curCtx = true → NoLateAccess s →
      NoTransform s → o.d.toNat < 56 →
      let n := s.curCore
      let cl := clusterOf n
      let sc := Scope.ofCode (scopeOf o)
      let rel := decide (orderOf o = 2 ∨ orderOf o = 3)
      let acq := decide (orderOf o = 1 ∨ orderOf o = 3)
      (∀ k norm, p = .window k norm → spBase ≤ k → Free s k f.n → let x := ordered s sc rel acq
          (acq = true → ∀ r, s.mismatch n (.window k norm) sc = some r → Traps f.i s { code := 7, addr := va, arg := releaserWord r })
          ∧ (acq = false ∨ s.mismatch n (.window k norm) sc = none →
            (x.poisonedAt k f.n = true → ∃ t, Owes f.i s t o.d none ∧ SameBytes x t)
            ∧ (x.poisonedAt k f.n = false → let m := BitVec.ofNat 64 (x.natAt k f.n)
              ∃ t, Owes f.i s t o.d (some m) ∧ f.new m (t.natAt k f.n) ∧ OnlyWritesBackBut x t k f.n ∧ SameRegisters s t
                ∧ ((∀ q ∈ (x.cluster cl).l1, q.2.sync = false) → SameBytesBut x t k f.n)
                ∧ (rel = true → recOf (t.cluster cl).winRecs (winLine norm) = some (s.pack.pkg, n, sc)))))
        ∧ (∀ a tr s1, p = .flat a → s.translate n a .atomic sc = .ok (tr, s1) →
          (tr.mt = .device → Traps f.i s { code := 5, addr := va })
          ∧ (tr.mt ≠ .device → s.lineHeld n tr.pa = false →
            let sp := Spot.flat tr.pa tr.mt
            let x := ordered s1 sc rel acq
            let carried := s1.checkCarried cl sp sc
            (acq = true → ∀ line, carried = some line → exec f.i s = .next (waits (s1.waitFor (.carried line))))
            ∧ (acq = true → carried = none → ∀ r, s1.mismatch n sp sc = some r → Traps f.i s { code := 7, addr := va, arg := releaserWord r })
            ∧ (acq = false ∨ (carried = none ∧ s1.mismatch n sp sc = none) → x.aliasHit n a tr.pa f.n = false →
              (windowBase ≤ tr.pa → tr.pa < windowEnd → ∀ b r u, x.windowRead (x.partOf n) tr.pa f.n = some b →
                f.new (BitVec.ofNat 64 (bytesToNat b)) r → (∀ r', f.new (BitVec.ofNat 64 (bytesToNat b)) r' → r' = r) →
                x.windowWrite (x.partOf n) tr.pa (natBytes r f.n) = some u →
                ∃ t, Owes f.i s t o.d (some (BitVec.ofNat 64 (bytesToNat b))) ∧ SameRegisters s t ∧ OnlyWritesBack x t
                  ∧ t.pack.parts = u.pack.parts ∧ t.pack.launches = u.pack.launches)
              ∧ (hostBase ≤ tr.pa → ∃ t m r, Owes f.i s t o.d (some m) ∧ f.new m r ∧ SameRegisters s t ∧ OnlyWritesBack x t
                ∧ t.out = x.out ++ [.hostWrite (x.partOf n) (tr.pa - hostBase) f.n (BitVec.ofNat 64 r)])
              ∧ (tr.pa + f.n ≤ framedEnd → tr.pa % 48 + f.n ≤ 48 →
                (heldInL1 tr.mt (memOpts o s.me.cpr f.n).pol sc = true →
                  ∃ t v, Owes f.i s t o.d v ∧ (∀ m, v = some m → f.new m (seenNat t cl tr.pa f.n)) ∧ OnlyWritesBack x t ∧ SameRegisters s t
                    ∧ (x.clusterPoison cl tr.pa f.n = false → SectorHeld x cl tr.pa ∨ CachesAgree x →
                      v = some (BitVec.ofNat 64 (seenNat x cl tr.pa f.n)))
                    ∧ ∀ k, k < tr.pa ∨ tr.pa + f.n ≤ k → seenByte t cl k = seenByte x cl k ∨ seenByte t cl k = x.byteAt k ∨ DirtyCopy x k (seenByte t cl k))
                ∧ (heldInL1 tr.mt (memOpts o s.me.cpr f.n).pol sc = false →
                  ∃ t v, Owes f.i s t o.d v ∧ (∀ m, v = some m → f.new m (t.natAt tr.pa f.n)) ∧ OnlyWritesBackBut x t tr.pa f.n ∧ SameRegisters s t
                    ∧ (x.poisonedAt tr.pa f.n = false → CachesAgree x →
                      v = some (BitVec.ofNat 64 (bytesToNat (x.agentBytes cl tr.pa f.n))))
                    ∧ (rel = true → recOf t.pack.recs (lineOf tr.pa) = some (s.pack.pkg, n, sc)))))))

/-- R112, R113, R115, R301, R305: DRAINST, FENCE and the CFLUSH forms take effect. DRAINST waits for the context's stores and changes
nothing. A FENCE with a release part waits for the context's accesses too; beyond CLUSTER scope it leaves the cluster with no dirty byte,
each one written to its home, and with an acquire part with no line. CFLUSH beyond CLUSTER scope writes one line back, and CFLUSH.INV at
any scope leaves the cluster without it; on a window, and on a page that no L1 holds, they do nothing. A handler meets the fault of a
store of its program at DRAINST and at a release (R299). -/
def Obligations.FencesAndFlushesWriteBack : Prop :=
  ∀ s : State, Inv s → let cl := clusterOf s.curCore
    ((s.cluster cl).l1.map Prod.fst).Pairwise (· < ·) →
    let done := s.storesDone s.curCore s.curCtx
    let meets := s.me.ih = true ∧ s.myCore.storeTrapPending s.curCtx = true
    (∀ o, Issues (.drainst o) s → (done = true → Gives (.drainst o) s s)
        ∧ (done = false → meets → Traps (.drainst o) s { code := 11 }) ∧ (done = false → ¬meets → exec (.drainst o) s = .next (waits s)))
      ∧ (∀ o : CIOps, Issues (.fence o) s →
        let sc := o.imm.toNat % 8
        let kind := o.imm.toNat / 8 % 4
        let held := 2 ≤ kind ∧ ¬(s.nothingOwed = true ∧ done = true)
        (held → s.nothingOwed = true → meets → Traps (.fence o) s { code := 11 })
          ∧ (held → ¬(s.nothingOwed = true ∧ meets) → exec (.fence o) s = .next (waits s)) ∧ (¬held → sc ≤ 2 → Gives (.fence o) s s)
          ∧ (¬held → 2 < sc → ∃ t, Gives (.fence o) s t ∧ (∀ q ∈ (t.cluster cl).l1, q.2.dirty = 0) ∧ (kind ≠ 2 → (t.cluster cl).l1 = [])
            ∧ SameRegisters s t ∧ (∀ k, t.byteAt k = s.agentByte cl k ∨ Below s k (t.byteAt k))
            ∧ (CachesAgree s → ∀ k < backedEnd, t.byteAt k = s.agentByte cl k)))
      ∧ (∀ (o : CIOps) (inv : Bool),
        let i := if inv then Instr.cflushInv o else Instr.cflush o
        Issues i s → ∀ va, addPtr (valsOf i s).a (dispOf o 8) = some va →
          (0xF0 ≤ tagOf va ∧ tagOf va ≤ 0xF2 → Gives i s s)
            ∧ (∀ a tr s1, tagOf va < 0xF0 → s.place s.who va 1 = some (.flat a) →
                s.scoreHit s.curCore (rangeOf (mkPtr 0 (a - a % 192)) 192) = false →
                s.translate s.curCore a .noCheck (Scope.ofCode (scopeOf o)) = .ok (tr, s1) →
              ((tr.mt = .uncacheable ∨ tr.mt = .device ∨ tr.disc = true) → Gives i s s1)
                ∧ (tr.mt = .writeBack ∨ tr.mt = .writeThrough → tr.disc = false → s.storesToLine (lineOf tr.pa) = false →
                  s.lineHeld s.curCore tr.pa = false →
                  (scopeOf o ≤ 2 → inv = false → Gives i s s1)
                    ∧ (2 < scopeOf o ∨ inv = true → ∃ t, Gives i s t ∧ SameRegisters s t
                      ∧ (∀ k, lineOf k = lineOf tr.pa → t.byteAt k = s1.agentByte cl k ∨ Below s1 k (t.byteAt k)) ∧ OnlyWritesBack s1 t
                      ∧ ∀ e, tabGet (t.cluster cl).l1 (lineOf tr.pa) = some e → inv = false ∧ e.dirty = 0))))

/-- R306, R307: MONITOR of a window, or of memory that the walk admits, takes effect and arms a watch on the dword for the value of d,
triggered at once where the dword holds another value at its home, or dirty in the cluster's L1s. MWAIT writes the code of a watch that was triggered, 3 with no watch armed, and disarms it; otherwise it waits, with
a limit where a is not 0. -/
def Obligations.MonitoredWaiting : Prop :=
  ∀ s : State,
    (∀ (o : CIOps) (va norm : Word) (k : Nat), Issues (.monitor o) s → addPtr (valsOf (.monitor o) s).a (dispOf o 8) = some va →
        va.toNat % 8 = 0 → s.place s.who va 8 = some (.window k norm) →
        let d := (valsOf (.monitor o) s).d
        ∃ t, Gives (.monitor o) s t ∧ SameBytes s t ∧ SameRegisters s t
          ∧ t.me.watch = some ⟨k, va, d, BitVec.ofNat 64 (s.natAt k 8), 0, false, false, if s.natAt k 8 = d.toNat then 0 else 1⟩)
      ∧ (∀ (o : CIOps) (va : Word) (a : Nat) (tr : Trans) (s1 : State), Issues (.monitor o) s →
        addPtr (valsOf (.monitor o) s).a (dispOf o 8) = some va → va.toNat % 8 = 0 → s.place s.who va 8 = some (.flat a) →
        s.translate s.curCore a .monitor (Scope.ofCode (scopeOf o)) = .ok (tr, s1) → tr.mt = .writeBack ∨ tr.mt = .writeThrough →
        tr.pa < windowBase → tr.pa < backedEnd → s.lineHeld s.curCore tr.pa = false →
        let d := (valsOf (.monitor o) s).d
        let home := s1.natAt tr.pa 8
        let own := bytesToNat (s1.agentBytes (clusterOf s.curCore) tr.pa 8)
        ∃ t, Gives (.monitor o) s t ∧ SameBytes s1 t ∧ SameRegisters s t
          ∧ t.me.watch = some ⟨tr.pa, mkPtr 0 a, d, BitVec.ofNat 64 home, ascrAsid s.myCore.regs.ascr, tr.glob, true,
              if home = d.toNat ∧ own = d.toNat then 0 else 1⟩)
      ∧ (∀ o : CROps, Issues (.mwait o) s →
        let ends := fun code : Nat =>
          let t := s.setReg o.d.toNat (BitVec.ofNat 64 code)
          Gives (.mwait o) s (t.setMe { t.me with watch := none, wait := none, grant := none })
        let n := (valsOf (.mwait o) s).a.toNat % 2 ^ 32
        (∀ c, s.me.grant = some (.code c) → ends c)
          ∧ ((∀ c, s.me.grant ≠ some (.code c)) →
            (s.me.watch = none → ends 3)
              ∧ ∀ w, s.me.watch = some w → (w.code ≠ 0 → ends w.code)
                ∧ (w.code = 0 → Sleeps (.mwait o) s (.watch (if n = 0 then none else some (s.cycle + n))))))

/-! ## Tensors, queues, counters, commands, bands -/

namespace Sys2Proof.Claims

open Sys2Proof.Machine Sys2Proof.Safety

/-- The tensor of an id that the issuing core may use (R88). -/
structure Usable (s : State) (id : Nat) (x : Tensor) : Prop where
  known : tabGet s.pack.tensors id = some x
  part : x.part = s.partOf s.curCore
  asid : x.asid = ascrAsid s.myCore.regs.ascr
  world : (field x.desc 56 1 == 1) = ascrSec s.myCore.regs.ascr

/-- No tensor of the issuing core's partition and address space has the id (R88). -/
def NoTensor (s : State) (id : Nat) : Prop :=
  ∀ x, tabGet s.pack.tensors id = some x → x.part ≠ s.partOf s.curCore ∨ x.asid ≠ ascrAsid s.myCore.regs.ascr

/-- A tensor of the core's partition and address space, but of the other world (R88). -/
structure OtherWorld (s : State) (id : Nat) (x : Tensor) : Prop where
  known : tabGet s.pack.tensors id = some x
  part : x.part = s.partOf s.curCore
  asid : x.asid = ascrAsid s.myCore.regs.ascr
  world : (field x.desc 56 1 == 1) ≠ ascrSec s.myCore.regs.ascr

/-- Memory changes only where a line leaves a cache, and where a walk sets the A bit of a leaf (R73, R83). -/
def OnlyWalks (s t : State) : Prop :=
  ∀ k, ∃ b, (b = s.byteAt k ∨ DirtyCopy s k b) ∧ (t.byteAt k = b ∨ t.byteAt k = b ||| 0x80)

/-- The queue instructions reach the line at a pointer (R100, R101): its physical address, and the state after translation. -/
structure QueueAt (s : State) (p : Word) (acc : Acc) (pa : Nat) (s2 : State) : Prop where
  reaches : ∃ va tr s1, s.place s.who p 1 = some (.flat va) ∧ s.translate s.curCore va acc .package = .ok (tr, s1) ∧ tr.pa = pa
    ∧ s1.lineCarried (lineOf pa) = false ∧ s2 = s1.reachHome s1.curCore (bucketOf pa)
  backed : pa < framedEnd
  free : s.lineHeld s.curCore pa = false
  world : (s2.slice (homeSlice s2.pack.map (bucketOf pa))).secure = true → ascrSec s.myCore.regs.ascr = true

/-- A command as its issue records it (R125, R144, R212, R238). -/
structure Recorded (s : State) (cmd : Cmd) (op : Nat) (r : List Byte) (addr : Word) (d : BitVec 6) (seq : Nat) : Prop where
  op : cmd.op = op
  record : cmd.record = r
  addr : cmd.addr = addr
  pc : cmd.pc = s.me.pc
  ctx : cmd.ctx = s.curCtx
  group : cmd.group = s.me.group
  counter : cmd.counter = some (d.toNat % 16)
  fz : cmd.fz = fzNow s
  space : cmd.wp = s.me.wp ∧ cmd.psize = s.me.psize
  status : cmd.status = .queued
  seq : cmd.seq = seq
  token : cmd.token = s.me.token

/-- The transfer, vector and matrix instructions with a record: instruction, opcode, engine, record length in dwords. -/
def commandForms (o : CROps) : List (Instr × Nat × Eng × Nat) :=
  [(.xcopy o, 0x28, .transfer, 8), (.xconv o, 0x29, .transfer, 8), (.xtran o, 0x2A, .transfer, 8), (.xexp o, 0x2B, .transfer, 8),
    (.xpack o, 0x2C, .transfer, 8), (.getx o, 0x2D, .transfer, 8), (.putx o, 0x2E, .transfer, 8), (.putacc o, 0x2F, .transfer, 8),
    (.agath o, 0x6B, .transfer, 8), (.rscat o, 0x6C, .transfer, 8), (.atoa o, 0x6D, .transfer, 8),
    (.mma o, 0x42, .matrix, 8), (.mmas o, 0x43, .matrix, 8), (.mlda o, 0x45, .matrix, 8), (.msta o, 0x46, .matrix, 8),
    (.mdrain o, 0x47, .matrix, 8),
    (.vchain o, 0x50, .vector, 8), (.vred o, 0x51, .vector, 8), (.vscan o, 0x52, .vector, 8), (.vsort o, 0x53, .vector, 8),
    (.vtopk o, 0x54, .vector, 8), (.vsrch o, 0x55, .vector, 8), (.vpack24 o, 0x56, .vector, 8), (.vconv o, 0x57, .vector, 8),
    (.vrand o, 0x58, .vector, 8), (.vgath o, 0x59, .vector, 8), (.vscat o, 0x5A, .vector, 8), (.vcmp o, 0x5B, .vector, 8),
    (.vsel o, 0x5C, .vector, 8), (.vjoin o, 0x5D, .vector, 8), (.vfill o, 0x5E, .vector, 8), (.vhist o, 0x5F, .vector, 8),
    (.foenc o, 0x60, .vector, 8), (.fograd o, 0x66, .vector, 12)]

/-- Room in an engine's queue: 16 commands for the transfer engine, 8 for the others (R125, R214, R238). -/
def hasRoom (s : State) (e : Eng) : Prop := (s.myCore.queue e).length < (if e = .transfer then 16 else 8) ∧ (e = .transfer → s.myCore.scoreUsed < 16)

def nextSeq (s : State) (e : Eng) : Nat :=
  match e with
  | .matrix => s.myCore.eng.mseq
  | .vector => s.myCore.eng.vseq
  | .transfer => s.myCore.eng.xseq
  | .copro => s.myCore.eng.cseq

end Sys2Proof.Claims

/-- R86–R96: the tensor instructions take effect on a tensor of the core's partition, address space and world. TDROP increments its
generation, so that its lines, unpinned, are stale; TDROP.FREE releases its id, and with it, or where the generation wraps, they are gone.
TLOOK reports the line and writes the predicate; TFETCH queues prefetches, which TFETCH_FILL takes up; TFLUSH leaves its lines clean,
TFLUSH.INV drops them, and lines of other tensors leave only to make room; THALO unpins its tiles; TLD owes the element of the line that the
slice then holds, or poison; TREG gives the lowest free id, or 0 where there is none. THALO with a mark pins its tiles, each filled, and its
predicate says whether all are pinned. An id or a tile that is not the core's raises the address trap, one of the other world the world
violation, and so do coordinates out of range and a page that the tensor path may not reach. That a descriptor address that is no
multiple of 8 raises the address trap, and TDROP from another address space or world faults, is the model's choice (log 49). -/
def Obligations.TensorInstructionsTakeEffect : Prop :=
  ∀ (s : State) (o : CROps), s.me.pfu = none →
    (∀ (free : Bool) (x : Tensor), let i := if free then Instr.tdropFree o else Instr.tdrop o
        let id := (valsOf i s).a.toNat
        Issues i s → id < 4096 → Usable s id x → ∃ t, Gives i s t ∧ t.mem = s.mem ∧ SameRegisters s t
          ∧ t.pack.tlines = (if free = true ∨ x.gen = 4095 then s.pack.tlines.filter fun l => l.id ≠ id
              else s.pack.tlines.map fun l => if l.id = id then { l with pin := false } else l)
          ∧ tabGet t.pack.tensors id = (if free then none else some { x with gen := (x.gen + 1) % 4096 })
          ∧ ∀ j, j ≠ id → tabGet t.pack.tensors j = tabGet s.pack.tensors j)
      ∧ (∀ x : Tensor, let a := (valsOf (.tlook o) s).a.toNat
        let id := a / 2 ^ 32
        let tile := a % 2 ^ 32
        a < 2 ^ 44 → Usable s id x → tile < descCount x.desc →
          let l := s.pack.tlines.find? fun l => l.id == id && l.gen == x.gen && l.tile == tile
          let w := x.gen * 2 ^ 32 + homeSlice s.pack.map (tileBucket id tile) * 2 ^ 16
          (Issues (.tlook o) s → Gives (.tlook o) s (match l with
              | some l => (s.setReg o.d.toNat (BitVec.ofNat 64 (w + (if l.pin then 512 else 0) + l.dirty.toNat * 32 + l.valid.toNat * 2
                  + (if l.valid = 0 then 0 else 1)))).setPred (o.b.toNat % 8) (l.valid != 0)
              | none => (s.setReg o.d.toNat (BitVec.ofNat 64 w)).setPred (o.b.toNat % 8) false))
            ∧ (Issues (.tfetch o) s → ∃ q, Gives (.tfetch o) s (s.setMyCore { s.myCore with fetches := s.myCore.fetches ++ q }) ∧ (id, tile) ∈ q)
            ∧ (Issues (.thalo o) s → ∀ (n : Nat) (mark : Bool), (valsOf (.thalo o) s).b.toNat = 2 * n + (if mark then 1 else 0) →
              1 ≤ n → n < 4096 → tile + n ≤ descCount x.desc →
              let r := s.markTiles id x mark ((List.range n).map (tile + ·))
              (∀ e, r = .error e → Traps (.thalo o) s e)
                ∧ ∀ p t, r = .ok (p, t) → Gives (.thalo o) s (t.setPred (o.d.toNat % 8) p) ∧ SameRegisters s t ∧ OnlyWalks s t
                  ∧ (mark = false → p = true
                    ∧ ∀ l ∈ t.pack.tlines, l.id = id → l.gen = x.gen → tile ≤ l.tile → l.tile < tile + n → l.pin = false)
                  ∧ (mark = true → p = true → ∀ j < n, ∃ l ∈ t.pack.tlines, l.id = id ∧ l.gen = x.gen ∧ l.tile = tile + j
                    ∧ l.pin = true ∧ l.valid = 15))
            ∧ (Issues (.thalo o) s → let b := (valsOf (.thalo o) s).b
              (2 ^ 13 ≤ b.toNat ∨ b.toNat < 2 → Traps (.thalo o) s { code := 5, addr := b })
                ∧ (2 ≤ b.toNat → b.toNat < 2 ^ 13 → descCount x.desc < tile + b.toNat / 2 →
                  Traps (.thalo o) s { code := 5, addr := (valsOf (.thalo o) s).a })))
      ∧ (∀ i ∈ [Instr.tdrop o, .tdropFree o, .tflush o, .tflushInv o, .tld o], Issues i s → let a := (valsOf i s).a
        (4096 ≤ a.toNat ∨ NoTensor s a.toNat → Traps i s { code := 5, addr := a })
          ∧ ∀ x, a.toNat < 4096 → OtherWorld s a.toNat x → Traps i s { code := 10, addr := descBase x.desc })
      ∧ (∀ i ∈ [Instr.tlook o, .tfetch o, .thalo o], Issues i s → let a := (valsOf i s).a
        let id := a.toNat / 2 ^ 32
        (2 ^ 44 ≤ a.toNat ∨ NoTensor s id → Traps i s { code := 5, addr := a })
          ∧ (∀ x, a.toNat < 2 ^ 44 → OtherWorld s id x → Traps i s { code := 10, addr := descBase x.desc })
          ∧ ∀ x, a.toNat < 2 ^ 44 → Usable s id x → descCount x.desc ≤ a.toNat % 2 ^ 32 → Traps i s { code := 5, addr := a })
      ∧ (∀ (inv : Bool) (x : Tensor), let i := if inv then Instr.tflushInv o else Instr.tflush o
        let id := (valsOf i s).a.toNat
        Issues i s → id < 4096 → Usable s id x → s.nothingOwed = true → s.storesDone s.curCore s.curCtx = true →
          ∃ t, Gives i s t ∧ SameRegisters s t ∧ OnlyWritesBack s t
            ∧ (∀ l ∈ t.pack.tlines, l.id = id → l.gen = x.gen → inv = false ∧ l.dirty = 0)
            ∧ (∀ l ∈ t.pack.tlines, l.id ≠ id → l ∈ s.pack.tlines)
            ∧ ((∀ q ∈ (s.cluster (clusterOf s.curCore)).l1, q.2.dirty = 0) → ∀ l ∈ s.pack.tlines, l.id ≠ id → l ∈ t.pack.tlines))
      ∧ (∀ (x : Tensor) (tr : Trans) (s1 : State), let a := (valsOf (.tld o) s).a.toNat
        let at_ := fun i : Nat => ((unpackCoords (descRank x.desc) (valsOf (.tld o) s).b)[i]?).getD 0
        let cs := (List.range 4).map fun i => at_ i / descTile x.desc i
        Issues (.tld o) s → a < 4096 → Usable s a x → (∀ i < 4, at_ i < descDim x.desc i) →
        s.lineAddr (x.linePtr (lineOffset x.desc cs)) = .ok (tr, s1) → o.d.toNat < 56 →
          ∃ t v, Owes (.tld o) s t o.d v ∧ (tr.disc = true → v = some 0) ∧ OnlyWritesBack s1 t
            ∧ (tr.disc = false →
              let co := unpackCoords (descRank x.desc) (valsOf (.tld o) s).b
              let u := unitPlace (descFmt x.desc) (elementIndex x.desc co)
              ∃ l, t.tline a x.gen (tileIndex x.desc cs) = some l
                ∧ v = if (sectorsTouched u.1 u.2).any (fun k => l.psn.getLsbD k) then none
                    else some (BitVec.ofNat 64 (rawElement (descFmt x.desc) (elementIndex x.desc co) ((l.data.drop u.1).take u.2)))))
      ∧ (∀ x : Tensor, let a := (valsOf (.tld o) s).a.toNat
        let at_ := fun i : Nat => ((unpackCoords (descRank x.desc) (valsOf (.tld o) s).b)[i]?).getD 0
        let cs := (List.range 4).map fun i => at_ i / descTile x.desc i
        Issues (.tld o) s → a < 4096 → Usable s a x →
          ((∃ i < 4, descDim x.desc i ≤ at_ i) → Traps (.tld o) s { code := 5, addr := (valsOf (.tld o) s).b })
            ∧ ∀ e, (∀ i < 4, at_ i < descDim x.desc i) → s.lineAddr (x.linePtr (lineOffset x.desc cs)) = .error e → Traps (.tld o) s e)
      ∧ (∀ (id : Nat) (d : List Byte) (x1 x2 : Trans) (s1 s2 s3 : State), let a := (valsOf (.treg o) s).a
        Issues (.treg o) s → (s.place s.who a 96).isSome → a.toNat % 8 = 0 → placeOf a % 48 = 0 → s.readDesc a 12 = .ok d s1 →
        s1.descOk d = true → (field d 56 1 == 1) = ascrSec s1.myCore.regs.ascr → 0 ≤ (backing d).1 → (backing d).2 < 3 * 2 ^ 50 →
        s1.lineAddr (wrapPtr (descBase d) ((backing d).1 - lowOf (descBase d))) = .ok (x1, s2) →
        s2.lineAddr (wrapPtr (descBase d) ((backing d).2 - lowOf (descBase d))) = .ok (x2, s3) →
        ((∀ j < 4096, 1 ≤ j → (tabGet s3.pack.tensors j).isSome) → Gives (.treg o) s (s3.setReg o.d.toNat 0))
          ∧ (1 ≤ id → id < 4096 → tabGet s3.pack.tensors id = none → (∀ j < id, 1 ≤ j → (tabGet s3.pack.tensors j).isSome) →
          ∃ t : State, Gives (.treg o) s (t.setReg o.d.toNat (BitVec.ofNat 64 id)) ∧ SameBytes s3 t
            ∧ (tabGet t.pack.tensors id).map (·.desc) = some d ∧ Usable t id ⟨s3.partOf s3.curCore, ascrAsid s3.myCore.regs.ascr, d,
                (backing d).1.toNat, (backing d).2.toNat, 0⟩))
      ∧ (Issues (.treg o) s → let a := (valsOf (.treg o) s).a
        ((s.place s.who a 96).isNone ∨ a.toNat % 8 ≠ 0 → Traps (.treg o) s { code := 5, addr := a })
          ∧ ∀ d s1, (s.place s.who a 96).isSome → a.toNat % 8 = 0 → s.readDesc a 12 = .ok d s1 →
            let good := s1.descOk d = true ∧ placeOf a % 48 = 0
            let mine := (field d 56 1 == 1) = ascrSec s1.myCore.regs.ascr
            let inside := 0 ≤ (backing d).1 ∧ (backing d).2 < 3 * 2 ^ 50
            (¬good → Traps (.treg o) s { code := 1, reason := 6 })
              ∧ (good → ¬mine → Traps (.treg o) s { code := 10, addr := a })
              ∧ (good → mine → ¬inside → Traps (.treg o) s { code := 5, addr := descBase d })
              ∧ (good → mine → inside → ∀ e,
                (s1.lineAddr (wrapPtr (descBase d) ((backing d).1 - lowOf (descBase d))) = .error e → Traps (.treg o) s e)
                  ∧ ∀ x1 s2, s1.lineAddr (wrapPtr (descBase d) ((backing d).1 - lowOf (descBase d))) = .ok (x1, s2) →
                    s2.lineAddr (wrapPtr (descBase d) ((backing d).2 - lowOf (descBase d))) = .error e → Traps (.treg o) s e))
      ∧ (∀ (n : Nat) (p : Nat × Nat) (q : List (Nat × Nat)), (s.core n).fetches = p :: q →
          ∃ t, exec (.tfetchFill n) s = .next t ∧ (t.core n).fetches = q ∧ SameRegisters s t ∧ OnlyWalks s t)

/-- R100–R102: the queue instructions take effect. QINIT makes an empty queue of the capacity at the line's home slice, unless that holds 64,
or removes it; QPUSH puts the value
behind the last, and the result predicate says so; a full or absent queue is left as it is. QPOP owes the oldest entry with a true
predicate, or poison for a poisoned one, or 0 with a false one. QWAIT goes on where the queue holds an entry or is absent, and otherwise waits until QWAIT_WAKE.
A window holds no queue. An operation on a line that a retiring slice carries waits for the new map (R104). -/
def Obligations.QueueInstructionsTakeEffect : Prop :=
  ∀ (s : State) (o : CROps), Inv s →
    (∀ (pa : Nat) (s2 s3 : State) (tr : Trans), let p := (valsOf (.qinit o) s).a
        let c := (valsOf (.qinit o) s).b.toNat
        Issues (.qinit o) s → c ≤ 4096 → lowOf p % 192 = 0 → tagOf p = 0 ∨ (tagOf p ≤ 0xC0 ∧ tagOf p = s.pack.pkg + 1) → QueueAt s p .write pa s2 →
        (∀ va tr s1, s.place s.who p 1 = some (.flat va) → s.translate s.curCore va .write .package = .ok (tr, s1) → tr.mt = .writeBack) →
        s2.translate s2.curCore (lowOf p + 192 + 8 * c - 1) .write .package = .ok (tr, s3) → tr.pa = pa + 192 + 8 * c - 1 →
        s2.samePage (lowOf p) (lowOf p + 192 + 8 * c - 1) = true →
        let others := s3.pack.queues.filter fun q => q.pa ≠ pa
        let h := homeSlice s3.pack.map (bucketOf pa)
        let b := decide (c = 0 ∨ (others.filter fun q => q.slice == h).length < 64)
        ∃ t : State, Gives (.qinit o) s (t.setPred (o.d.toNat % 8) b) ∧ SameBytes s3 t
          ∧ t.pack.queues = if c = 0 then others else if b then others ++ [⟨pa, h, c, 0, 0⟩] else s3.pack.queues)
      ∧ (∀ (pa : Nat) (s2 : State), let p := (valsOf (.qpush o) s).a
        Issues (.qpush o) s → QueueAt s p .atomic pa s2 → s2.storesDone s2.curCore s2.curCtx = true →
        (∀ l q r, s2.pack.queues = l ++ q :: r → q.pa = pa → (∀ x ∈ l, x.pa ≠ pa) →
          ((q.tail + 8192 - q.head) % 8192 ≠ q.cap → ∃ t : State, Gives (.qpush o) s (t.setPred (o.d.toNat % 8) true)
            ∧ t.natAt (pa + 192 + 8 * (q.tail % q.cap)) 8 = (valsOf (.qpush o) s).b.toNat
            ∧ OnlyWritesBackBut s2 t (pa + 192 + 8 * (q.tail % q.cap)) 8
            ∧ t.pack.queues = l ++ { q with tail := (q.tail + 1) % 8192 } :: r)
          ∧ ((q.tail + 8192 - q.head) % 8192 = q.cap → ∃ t : State, Gives (.qpush o) s (t.setPred (o.d.toNat % 8) false) ∧ t.pack.queues = s2.pack.queues))
        ∧ ((∀ x ∈ s2.pack.queues, x.pa ≠ pa) → ∃ t : State, Gives (.qpush o) s (t.setPred (o.d.toNat % 8) false) ∧ t.pack.queues = s2.pack.queues))
      ∧ (∀ (pa : Nat) (s2 : State), let p := (valsOf (.qpop o) s).a
        Issues (.qpop o) s → QueueAt s p .atomic pa s2 →
        (∀ l q r, s2.pack.queues = l ++ q :: r → q.pa = pa → (∀ x ∈ l, x.pa ≠ pa) →
          ((q.tail + 8192 - q.head) % 8192 ≠ 0 → let k := pa + 192 + 8 * (q.head % q.cap)
            (o.d.toNat < 56 ∨ s2.poisonedAt k 8 = false → ∃ t u : State, t.pack.queues = l ++ { q with head := (q.head + 1) % 8192 } :: r ∧ OnlyWritesBack s2 t
              ∧ t.owe o.d.toNat (if s2.poisonedAt k 8 then none else some (BitVec.ofNat 64 (s2.natAt k 8))) (some (o.b.toNat % 8, true)) = .ok () u
              ∧ Gives (.qpop o) s u)
            ∧ (56 ≤ o.d.toNat → s2.poisonedAt k 8 = true → Traps (.qpop o) s { code := 4, reg := o.d.toNat }))
          ∧ ((q.tail + 8192 - q.head) % 8192 = 0 → ∃ u, s2.owe o.d.toNat (some 0) (some (o.b.toNat % 8, false)) = .ok () u ∧ Gives (.qpop o) s u)))
      ∧ (∀ (pa : Nat) (s2 : State), let p := (valsOf (.qwait o) s).a
        Issues (.qwait o) s → s.me.grant = none → QueueAt s p .read pa s2 →
        (∀ l q r, s2.pack.queues = l ++ q :: r → q.pa = pa → (∀ x ∈ l, x.pa ≠ pa) →
          ((q.tail + 8192 - q.head) % 8192 ≠ 0 → Gives (.qwait o) s s2)
          ∧ ((q.tail + 8192 - q.head) % 8192 = 0 → exec (.qwait o) s = .next (waits (s2.setMe { s2.me with wait := some (.queue pa), grant := none }))))
        ∧ ((∀ x ∈ s2.pack.queues, x.pa ≠ pa) → Gives (.qwait o) s s2))
      ∧ (∀ k norm, s.me.grant = none →
        (s.place s.who (valsOf (.qpush o) s).a 1 = some (.window k norm) → Issues (.qpush o) s → s.storesDone s.curCore s.curCtx = true →
            ∃ t : State, Gives (.qpush o) s (t.setPred (o.d.toNat % 8) false) ∧ t.pack.queues = s.pack.queues)
          ∧ (s.place s.who (valsOf (.qpop o) s).a 1 = some (.window k norm) → Issues (.qpop o) s →
            ∃ u, s.owe o.d.toNat (some 0) (some (o.b.toNat % 8, false)) = .ok () u ∧ Gives (.qpop o) s u)
          ∧ (s.place s.who (valsOf (.qwait o) s).a 1 = some (.window k norm) → Issues (.qwait o) s → Gives (.qwait o) s s))
      ∧ (∀ f ∈ [(Instr.qpush o, Acc.atomic), (.qpop o, .atomic), (.qwait o, .read)], ∀ va tr s1, let p := (valsOf f.1 s).a
        Issues f.1 s → s.me.grant = none → s.place s.who p 1 = some (.flat va) → s.translate s.curCore va f.2 .package = .ok (tr, s1) →
        tr.pa < framedEnd → s.lineHeld s.curCore tr.pa = false → s1.lineCarried (lineOf tr.pa) = true →
          Sleeps f.1 s (.carried (lineOf tr.pa)))
      ∧ (Issues (.qwait o) s → s.me.grant = some .done → Gives (.qwait o) s (s.setMe { s.me with wait := none, grant := none }))
      ∧ (∀ n k pa, (s.ctx n k).live = true → (s.ctx n k).wait = some (.queue pa) → (s.ctx n k).grant ≠ none →
        exec (.qwaitWake n k) s = .next (s.setCtx n k { s.ctx n k with wait := none, grant := some .done }))

/-- R140–R143: CSET sets a counter, clears its error flag and narrows its scope to CORE. CTEST writes p := ready and q := the error flag.
CWAIT goes on where the counter has reached its target, by the signed 32-bit difference, and otherwise waits until CWAIT_COMPLETE; a
ready CWAIT or CTEST leaves the counter's value and flag and sets its scope to CORE. -/
def Obligations.CountersAreSetAndAwaited : Prop :=
  ∀ (s : State) (o : CROps),
    let n := o.a.toNat % 16
    let w := fun i => match o.lit with | some l => l | none => BitVec.ofNat 32 (valsOf i s).b.toNat
    ∀ q : Counter, s.myCore.regs.cc[n]? = some q →
      let ready := fun w : W32 => decide (0 ≤ (q.v - w).toInt)
      (Issues (.cset o) s → Gives (.cset o) s (s.setMyCore { s.myCore with regs := { s.myCore.regs with
          cc := s.myCore.regs.cc.set n ⟨w (.cset o), false, .core⟩ } }))
        ∧ (Issues (.ctest o) s → o.d.toNat % 8 < 7 → o.d.toNat / 8 < 7 → o.d.toNat % 8 ≠ o.d.toNat / 8 →
          let p := ready (BitVec.ofNat 32 (valsOf (.ctest o) s).b.toNat)
          ∃ t, Gives (.ctest o) s t ∧ t.me.regs.pred (o.d.toNat % 8) = p ∧ t.me.regs.pred (o.d.toNat / 8) = q.e
            ∧ t.myCore.regs.cc[n]? = some (if p then { q with ps := .core } else q))
        ∧ (Issues (.ctest o) s → ∃ t, Gives (.ctest o) s t ∧ SameRegs s.me t.me [])
        ∧ (Issues (.cwait o) s →
          (ready (w (.cwait o)) = true → ∃ t, Gives (.cwait o) s t ∧ t.me.regs = s.me.regs ∧ t.myCore.regs.cc[n]? = some { q with ps := .core })
            ∧ (ready (w (.cwait o)) = false → Sleeps (.cwait o) s (.counter n (w (.cwait o)))))
        ∧ (∀ m k, (s.ctx m k).live = true → ∀ v, (s.ctx m k).wait = some (.counter n v) → (s.core m).regs.cc[n]? = some q → ready v = true →
          exec (.cwaitComplete m k) s = .next (s.setCtx m k { s.ctx m k with wait := none, grant := none }))

/-- R125, R212, R238, R244, R247, R272, R317: the engine instructions take effect at issue. A record in a scratchpad is read as its bytes; with
room in the queue and the context's stores done, one command holding the record, its address, the bundle and the counter is added behind
the others, and registers and memory are as before; with no room the bundle waits. MZERO has no record. XFORM answers busy where two of the
core's commands are unfinished or its share is halted; an accepted one keeps what its source shares with its destination, and its destination
is undefined from then on (R148, R150). XFPOLL writes the state of the core's ticket, or 0, with the share's halt and the number of
unfinished commands (R151). -/
def Obligations.CommandsEnterTheirQueues : Prop :=
  (∀ (s : State) (va norm : Word) (k n : Nat), s.me.pfu = none → va.toNat % 16 = 0 → s.place s.who va (8 * n) = some (.window k norm) →
      k < cmBase → Quiet s norm (8 * n) → s.poisonedAt k (8 * n) = false → s.readRecord va n 16 = .ok (s.bytesAt k (8 * n)) s)
    ∧ (∀ (s s1 : State) (o : CROps) (r : List Byte), ∀ f ∈ commandForms o, Issues f.1 s → s.me.pfu = none →
      s.readRecord (valsOf f.1 s).a f.2.2.2 16 = .ok r s1 →
      (f.2.1 ∈ [0x29, 0x2A, 0x2B, 0x2C] → anyOverlap (s1.cmdRanges s1.who f.2.1 r false).1 (s1.cmdRanges s1.who f.2.1 r false).2 = false) →
        (hasRoom s1 f.2.2.1 → s1.storesDone s1.curCore s1.curCtx = true →
          ∃ cmd t, Gives f.1 s t ∧ t.myCore.queue f.2.2.1 = s1.myCore.queue f.2.2.1 ++ [cmd] ∧ t.mem = s1.mem ∧ SameRegisters s1 t
            ∧ Recorded s1 cmd f.2.1 r (valsOf f.1 s).a o.d (nextSeq s1 f.2.2.1))
          ∧ ((s1.myCore.queue f.2.2.1).length = (if f.2.2.1 = .transfer then 16 else 8) → ∃ t, exec f.1 s = .next (waits t)))
    ∧ (∀ (s s1 : State) (o : CROps) (r : List Byte), Issues (.getxReg o) s → s.me.pfu = none → s.readRecord (valsOf (.getxReg o) s).a 8 16 = .ok r s1 →
      field r 24 2 = 1 → field r 8 8 = 0 → field r 26 1 ≠ 15 → s1.myCore.eng.xq.length < 16 → s1.storesDone s1.curCore s1.curCtx = true →
        ∃ cmd t, Gives (.getxReg o) s t ∧ t.myCore.eng.xq = s1.myCore.eng.xq ++ [cmd] ∧ t.mem = s1.mem ∧ cmd.reg = some o.b.toNat
          ∧ Recorded s1 cmd 0x2D r (valsOf (.getxReg o) s).a o.d s1.myCore.eng.xseq
          ∧ (o.b.toNat < 56 → t.me.regs.full.getLsbD o.b.toNat = false) ∧ SameRegs s1.me t.me [o.b.toNat])
    ∧ (∀ (s : State) (o : CROps), Issues (.mzero o) s → s.me.pfu = none → s.myCore.eng.mq.length < 8 → s.storesDone s.curCore s.curCtx = true →
        ∃ cmd t, Gives (.mzero o) s t ∧ t.myCore.eng.mq = s.myCore.eng.mq ++ [cmd] ∧ t.mem = s.mem ∧ SameRegisters s t
          ∧ cmd.arg = (valsOf (.mzero o) s).a ∧ Recorded s cmd 0x44 [] 0 o.d s.myCore.eng.mseq)
    ∧ (∀ (s s1 : State) (o : CROps) (r : List Byte), Issues (.xform o) s → s.me.pfu = none → s.readRecord (valsOf (.xform o) s).a 8 16 = .ok r s1 →
      s1.storesDone s1.curCore s1.curCtx = true →
        let ticket := BitVec.ofNat 64 (indexOf s1.curCore * 2 ^ 16 + s1.myCore.eng.cseq % 2 ^ 16)
        (s1.myCore.coproCount < 2 → s1.myCore.eng.cphalt = false →
          ∃ (cmd : Cmd) (t : State), Gives (.xform o) s (t.setReg o.d.toNat ticket) ∧ t.myCore.eng.cq = s1.myCore.eng.cq ++ [cmd]
            ∧ ∃ c0, (cmd, t.mem) = ((s1.openTransform s1.curCore c0).1, (s1.openTransform s1.curCore c0).2.mem) ∧ c0.race = Race.none
              ∧ Recorded s1 cmd 0x33 r (valsOf (.xform o) s).a o.b s1.myCore.eng.cseq)
          ∧ (2 ≤ s1.myCore.coproCount ∨ s1.myCore.eng.cphalt = true →
            Gives (.xform o) s ((s1.setPred (o.g.toNat % 8) (o.g.getLsbD 3)).count s1.curCore .busy 1)))
    ∧ ∀ (s : State) (o : CROps), Issues (.xfpoll o) s →
        let at_ := s.myCore.eng.tickets.find? fun x => ticketWord s.curCore x.seq == (valsOf (.xfpoll o) s).a
        let st := match at_ with | some x => x.state | none => 0
        Gives (.xfpoll o) s (s.setReg o.d.toNat (BitVec.ofNat 64 (st + (if s.myCore.eng.cphalt then 2 ^ 8 else 0) + 2 ^ 9 * s.myCore.coproCount)))

/-- R235, R248, R251–R254: MALLOC takes the lowest place that holds a band of n rows, writes its handle and a true predicate, or 0 and a
false one where none does; MFREE releases a band on which nothing is pending; MJOIN and MJOIN_COMPLETE wait for that; MRDROW owes the word
of a band that may be read; MSTAT reports; RDONE releases the row buffer of its token. -/
def Obligations.BandInstructionsTakeEffect : Prop :=
  ∀ (s : State) (o : CROps), let c := s.myCore
    let bands := fun (s : State) (b : List Band) => s.setMyCore { s.myCore with mat := { s.myCore.mat with bands := b } }
    let named := fun (i : Instr) (b : Band) => (valsOf i s).a.toNat = b.serial * 512 + b.first ∧ b.first < 512 ∧ b.serial < 128
      ∧ ∃ l r, c.mat.bands = l ++ b :: r ∧ ∀ x ∈ l, ¬(x.first = b.first ∧ x.serial = b.serial)
    let free := fun f n : Nat => ∀ b ∈ c.mat.bands, f + n ≤ b.first ∨ b.first + b.size ≤ f
    (Issues (.malloc o) s → ∀ n, (valsOf (.malloc o) s).a.toNat = n → 1 ≤ n → n ≤ 512 → (∀ b ∈ c.mat.bands, 1 ≤ b.size) →
        (∀ f, f + n ≤ 512 → free f n → (∀ g < f, ¬free g n) → c.mat.bands.length < 32 →
          ∃ (t : State) (b : Band), Gives (.malloc o) s ((t.setReg o.d.toNat (BitVec.ofNat 64 (c.mat.serial * 512 + f))).setPred (o.b.toNat % 8) true)
            ∧ t.myCore.mat.bands = c.mat.bands ++ [b] ∧ b.first = f ∧ b.size = n ∧ b.serial = c.mat.serial ∧ b.pending = 0
            ∧ SameBytesBut s t (accKey s.curCore f 0) (512 * n))
          ∧ (32 ≤ c.mat.bands.length ∨ (∀ f, f + n ≤ 512 → ¬free f n) → Gives (.malloc o) s ((s.setReg o.d.toNat 0).setPred (o.b.toNat % 8) false)))
      ∧ (Issues (.mfree o) s → ∀ b, named (.mfree o) b → (b.pending = 0 → Gives (.mfree o) s (bands s (c.mat.bands.filter fun x => x.first ≠ b.first)))
          ∧ (0 < b.pending → exec (.mfree o) s = .next (waits s)))
      ∧ (Issues (.mjoin o) s → ∀ b, named (.mjoin o) b → (b.pending = 0 → ∃ t, Gives (.mjoin o) s t ∧ t.me.regs = s.me.regs
            ∧ ∀ x ∈ t.myCore.mat.bands, x.first = b.first → x.serial = b.serial → s.curCtx ∈ x.seen)
          ∧ (0 < b.pending → Sleeps (.mjoin o) s (.band (BitVec.ofNat 16 (valsOf (.mjoin o) s).a.toNat))))
      ∧ (∀ m k h, (s.ctx m k).live = true → (s.ctx m k).wait = some (.band h) →
          (∀ b ∈ (s.core m).mat.bands, b.first = h.toNat % 512 → b.serial = h.toNat / 512 → b.pending = 0) →
          exec (.mjoinComplete m k) s = .next (s.setCtx m k { s.ctx m k with wait := none, grant := none }))
      ∧ (Issues (.mrdrow o) s → ∀ b, named (.mrdrow o) b → let v := (valsOf (.mrdrow o) s).b.toNat
          v < 2 ^ 16 → v / 128 < b.size → o.d.toNat < 56 →
          (b.pending = 0 → b.invalid = false → s.curCtx ∈ b.seen →
            let k := accKey s.curCore (b.first + v / 128) (v % 128)
            Owes (.mrdrow o) s s o.d (if s.poisonedAt k 4 then none else some (BitVec.ofNat 64 (s.natAt k 4))))
          ∧ ∃ t w, Owes (.mrdrow o) s t o.d w ∧ SameBytes s t)
      ∧ (Issues (.mstat o) s → ∃ v, Gives (.mstat o) s (s.setReg o.d.toNat v)
          ∧ ∀ b, named (.mstat o) b → b.pending < 16 → b.size ≤ 512 → v.toNat % 2 ^ 48 = b.pending * 2 ^ 40 + b.size * 2 ^ 16 + b.first * 2 ^ 7
            + (if b.invalid then 3 else if b.pending = 0 then 1 else 2))
      ∧ (Issues (.rdone o) s → s.me.pfu = none → s.storesDone s.curCore s.curCtx = true → let k := (valsOf (.rdone o) s).a
          (∃ d ∈ c.mat.drains, ∃ x, some x ∈ d.bufs ∧ x.token = k ∧ x.released = false) →
            ∃ t, Gives (.rdone o) s t ∧ SameBytes s t ∧ SameRegisters s t
              ∧ ∀ d ∈ t.myCore.mat.drains, ∀ x, some x ∈ d.bufs → x.token = k → x.released = true)

/-! ## The judge and the relay sequencer -/

namespace Sys2Proof.Claims

open Sys2Proof.Machine Sys2Proof.Safety

/-- The judge's status word (R260). -/
def judgeWord (j : Judge) : Word :=
  BitVec.ofNat 64 (j.ended.toNat * 2 ^ 48 + (if j.susp ≠ none ∧ j.active = none then 2 ^ 28 else 0) + j.reason * 2 ^ 24 + j.state * 2 ^ 16 + j.fc)

/-- The relay's status word (R284). -/
def relayWord (r : Relay) : Word :=
  BitVec.ofNat 64 (r.curSeq.toNat * 2 ^ 32 + r.reason * 2 ^ 24 + r.stack.length * 2 ^ 16 + r.owner * 2 ^ 11 + r.state * 2 ^ 8 + r.count)

/-- The relay has performed a leg (R284): COUNT has advanced, and REASON is 0 where that was a successful continuation after a fault of the
relay's own. -/
def Performed (q k : Relay) : Prop :=
  k.count = (q.count + 1) % 256 ∧ k.held = none ∧ k.reason = if q.resumed = true ∧ q.reason ≠ 20 then 0 else q.reason

/-- The relay has performed a leg and goes on at a link (R281): at the leg it names, or, where it is 0, back to the link that stands on the
stack, or to the end. -/
def GoesOn (q k : Relay) (next : Word) : Prop :=
  Performed q k ∧ k.state = q.state ∧ (next ≠ 0 → k.next = next ∧ k.stack = q.stack ∧ k.ending = q.ending)
    ∧ (next = 0 → q.stack = [] → k.ending = true) ∧ ∀ a l, next = 0 → q.stack = a :: l → k.next = a ∧ k.stack = l

/-- The sequencer of core `n` fetches the leg that it has come to: nothing stands in the way of its bytes, and it is not held already
(R135, R275). -/
def Fetches (s : State) (n : Nat) : Prop :=
  let q := (s.core n).relay
  q.held = none ∧ s.rangesHeld n (s.normRange (s.relayWho n) q.next (s.legSpan n q.next)) = false

/-- The leg as it begins, fetched and checked (R276). -/
def legAt (s : State) (n : Nat) : FetchRes :=
  let q := (s.core n).relay
  (s.setRelay n { q with cur := q.next, no := if q.accepted = [] then q.no + 1 else q.no }).fetchLeg n q.next

/-- The sequencer holds a leg that has passed its checks (R276, R278): now fetched, or kept since it had to wait; `s2` is the state from which
it is performed. -/
def Holds (s s2 : State) (n : Nat) (f : Fetched) : Prop :=
  ((s.core n).relay.held = some f.hold ∧ s2 = s)
    ∨ (Fetches s n ∧ ∃ s1, legAt s n = .ok f s1 ∧ s2 = s1.setRelay n { (s1.core n).relay with held := some f.hold })

/-- A number that a decoded value stands for, 0 where it is none; a subnormal f32 operand is flushed where FZ = 1 (R185). -/
def numberOf (fz : Bool) (v : FVal) : ℚ :=
  match v with
  | .fin neg m e =>
    let x := (if neg then -1 else 1) * (m : ℚ) * (2 : ℚ) ^ e
    if fz = true ∧ |x| < (2 : ℚ) ^ (-126 : ℤ) then 0 else x
  | _ => 0

/-- A word of the judge's row after an arrival (R264): y + s × w of finite numbers, w widened from the weights' format, rounded once. -/
def RowWord (fz : Bool) (f : FFmt) (sk w y y' : Nat) : Prop :=
  Finite 4 sk → Finite 4 y → (∃ neg m e, f.decode w = .fin neg m e) →
    ∃ n ev, Result 4 .rne fz (numberOf fz (FFmt.f32.decode y) + numberOf fz (FFmt.f32.decode sk) * numberOf fz (f.decode w)) n y' ev

/-- The margin test on finite numbers (R264): one lane is above every other by at least the threshold and the tail, taken exactly. -/
def Leads (lanes : List Nat) (x : ℚ) : Prop :=
  ∃ i < lanes.length, ∀ j < lanes.length, j ≠ i → x ≤ val 4 ((lanes[i]?).getD 0) - val 4 ((lanes[j]?).getD 0)

def withJudge (s : State) (j : Judge) : State := s.setMyCore { s.myCore with judge := j }

def withRelay (s : State) (r : Relay) : State := s.setMyCore { s.myCore with relay := r }

end Sys2Proof.Claims

/-- R260–R262, R265, R266, R268–R270: the judge's instructions take effect. FOOPEN opens an idle or closed judge on a record within R261 and a
valid band; FOSTEP and FORUN begin a consumption of an open judge and complete, with the status, once it is finished, or once another context's FOCLOSE has
closed it, with the status of that; FOCLOSE closes where every stream has ended or holds its lap marker, and otherwise waits; FOSHEET stores the finish sheet; FOSTAT reports. With no
judge open FOSTEP, FORUN and FOCLOSE, and FOSHEET before the first, raise the illegal-instruction trap with reason 6. -/
def Obligations.JudgeInstructionsTakeEffect : Prop :=
  ∀ (s : State) (o : CROps), s.me.pfu = none → let j := s.myCore.judge
    (∀ (s1 : State) (r : List Byte) (b : Band), Issues (.foopen o) s → s.readRecord (valsOf (.foopen o) s).a 8 16 = .ok r s1 →
        s1.myCore.judge.state = 0 ∨ s1.myCore.judge.state = 3 → s1.openOk r = true →
        s1.myCore.band? (BitVec.ofNat 16 (field r 40 2)) = some b → b.invalid = false → field r 42 2 < b.size →
          ∃ t, Gives (.foopen o) s t ∧ SameRegisters s1 t ∧ let k := t.myCore.judge
            k.state = 1 ∧ k.record = r ∧ k.fc = 0 ∧ k.sheet = [] ∧ k.ended = 0 ∧ k.reason = 0 ∧ k.band = BitVec.ofNat 16 (field r 40 2))
      ∧ (∀ i : Instr, i = .forun o ∨ (i = .fostep o ∧ 1 ≤ (valsOf i s).a.toNat ∧ (valsOf i s).a.toNat ≤ 1024) → Issues i s →
        let ends := let k := { j with susp := none, active := none }
          Gives i s ((withJudge s k).setReg o.d.toNat (judgeWord k))
        let at_ := j.ousted.find? fun q => q.1 == s.curCtx
        let mine := at_ ≠ none
        (∀ k w, at_ = some (k, some w) → Gives i s ((withJudge s (j.leave s.curCtx)).setReg o.d.toNat w))
          ∧ (∀ k, at_ = some (k, none) → exec i s = .next (waits s))
          ∧ (¬mine → j.state = 0 ∨ j.state = 3 → Traps i s { code := 1, reason := 6 })
          ∧ (¬mine → j.state = 2 → j.active = none → ends)
          ∧ (¬mine → j.state = 1 → j.susp = some (some 0) → j.active = some s.curCtx → ends)
          ∧ (¬mine → j.state = 1 → j.susp = none → j.active = none → ∃ t, exec i s = .next (waits t) ∧ t.mem = s.mem ∧ SameRegisters s t
              ∧ t.myCore.judge.active = some s.curCtx
              ∧ t.myCore.judge.susp = some (if i = .forun o then none else some (valsOf i s).a.toNat)))
      ∧ (Issues (.foclose o) s → field j.record 13 1 ≤ 16 →
        (j.state = 0 ∨ j.state = 3 → Traps (.foclose o) s { code := 1, reason := 6 })
          ∧ (j.state = 1 ∨ j.state = 2 → (∀ r < field j.record 13 1, j.ended.getLsbD r = true ∨ ∃ w ∈ tabGetD j.fifos r [], w.getLsbD 31 = true) →
            ∃ t, Gives (.foclose o) s (t.setReg o.d.toNat (judgeWord t.myCore.judge)) ∧ t.mem = s.mem ∧ SameRegisters s t
              ∧ t.myCore.judge.state = 3 ∧ t.myCore.judge.fc = j.fc ∧ t.myCore.judge.active = none
              ∧ (∀ k, j.active = some k → k ≠ s.curCtx → (k, some (judgeWord t.myCore.judge)) ∈ t.myCore.judge.ousted)
              ∧ (∀ q ∈ t.myCore.judge.ousted, q.2 ≠ none) ∧ t.myCore.judge.reason = (if j.state = 1 then 4 else j.reason))
          ∧ (j.state = 1 ∨ j.state = 2 → (∃ r < field j.record 13 1, j.ended.getLsbD r = false ∧ ∀ w ∈ tabGetD j.fifos r [], w.getLsbD 31 = false) →
            ∃ t, exec (.foclose o) s = .next (waits t) ∧ t.mem = s.mem ∧ SameRegisters s t ∧ t.myCore.judge.state = j.state))
      ∧ (Issues (.fosheet o) s → Inv s → let a := (valsOf (.fosheet o) s).a
        (j.state = 0 → Traps (.fosheet o) s { code := 1, reason := 6 })
          ∧ (j.state ≠ 0 → a.toNat % 4 = 0 → j.fc = 0 → Gives (.fosheet o) s (s.setReg o.d.toNat 0))
          ∧ ∀ k norm, j.state ≠ 0 → a.toNat % 4 = 0 → j.sheet.length = j.fc → 0 < j.fc → s.place s.who a (4 * j.fc) = some (.window k norm) →
              k < cmBase → NoActiveSlot s k (4 * j.fc) → s.scoreHit s.curCore (rangeOf norm (4 * j.fc)) = false → s.storesDone s.curCore s.curCtx = true →
              NoTransform s →
            ∃ t, Gives (.fosheet o) s (t.setReg o.d.toNat (BitVec.ofNat 64 j.fc)) ∧ OnlyWritesBackBut s t k (4 * j.fc) ∧ SameRegisters s t
              ∧ ((∀ q ∈ (s.cluster (clusterOf s.curCore)).l1, q.2.sync = false) → SameBytesBut s t k (4 * j.fc))
              ∧ ∀ n w, j.sheet[n]? = some w → t.natAt (k + 4 * n) 4 = w.toNat)
      ∧ (Issues (.fostat o) s → Gives (.fostat o) s (s.setReg o.d.toNat (judgeWord j)))

/-- R259, R263, R264, R266, R309, R319: STREAM_WORD_ARRIVAL puts a word of the partition's own, for a cluster that the routing tables mark
live, behind the others of its rank, and diverts any other into the containment record, which is counted: the table is router 0's, which is
the model's choice (log 44). JUDGE_ARRIVAL takes the earliest head, the lowest rank first: the sheet grows by its word, the finish count by
one, and every word of the row takes y + s × w; the judge finishes where the margin is met, or else at the record's limit; and with every
stream ended it finishes too. -/
def Obligations.JudgeTakesArrivals : Prop :=
  ∀ (s : State) (n : Nat),
    (∀ (rank : Nat) (cap : BitVec 16) (w : W32), let q := tabGetD (s.core n).judge.fifos rank []
        (s.accepts hubRouter n cap = true → rank < 16 → q.length < 64 → ∃ t, exec (.streamWordArrival n rank cap w) s = .next t
            ∧ tabGetD (t.core n).judge.fifos rank [] = q ++ [w] ∧ t.mem = s.mem ∧ SameRegisters s t)
          ∧ (s.accepts hubRouter n cap = false → ∃ t, exec (.streamWordArrival n rank cap w) s = .next t ∧ (t.core n).judge = (s.core n).judge
            ∧ t.pack.steward.containment = s.pack.steward.containment ++ [(n, s.partOf n, cap)]
            ∧ (t.core n).regs.ev = (s.count n .contain 1 |>.core n).regs.ev))
      ∧ (∀ k, let j := (s.core n).judge
        let heads := ((List.range (field j.record 13 1)).filter fun r => !j.ended.getLsbD r).map fun r => (r, (tabGetD j.fifos r []).head?)
        j.state = 1 → j.active = some k → j.susp ≠ none → j.susp ≠ some (some 0) →
          ((∀ h ∈ heads, ∃ w, h.2 = some w ∧ w.getLsbD 31 = true) → ∃ t, exec (.judgeArrival n) s = .next t ∧ t.mem = s.mem ∧ SameRegisters s t
            ∧ (t.core n).judge.state = 2 ∧ (t.core n).judge.reason = 1 ∧ (t.core n).judge.fc = j.fc)
          ∧ (∀ r w, (r, some w) ∈ heads → w.getLsbD 31 = false → (∀ h ∈ heads, ∃ x, h.2 = some x ∧ (x.getLsbD 31 = true
                ∨ heatIn w < heatIn x ∨ (heatIn w = heatIn x ∧ r ≤ h.1))) →
            let s0 : State := { s with curCore := n, curCtx := k, view := none }
            s0.me.live = true → s0.me.wait ≠ some .away → s0.nothingOwed = true → s0.storesDone n k = true → s0.accPoison n (jRow j) (jN j) = false →
            ∀ rd s1, s0.arrivalReads j w = .ok rd s1 →
              ∃ t, exec (.judgeArrival n) s = .next t ∧ (t.core n).judge.sheet = j.sheet ++ [w] ∧ (t.core n).judge.fc = j.fc + 1
                ∧ let fz := fzOf s1.me.fpcr
                  let y := fun (x : State) (i : Nat) => x.natAt (accKey n (jRow j) i) 4
                  let early := field j.record 14 1 / 2 % 2 = 1
                  let thr := field j.record 36 4
                  let lanes := (List.range (field j.record 35 1)).map fun i => y t (field j.record 34 1 + i)
                  let last := j.fc + 1 = field j.record 32 2
                  let now := fun reason => (t.core n).judge.reason = reason ∧ (t.core n).judge.state = if reason = 0 then 1 else 2
                  SameBytesBut s1 t (accKey n (jRow j) 0) (4 * jN j)
                  ∧ (Inv s1 → ∀ f, weightFmt (field j.record 12 1) = some f → ∀ i < jN j, ∃ x, rd.2.1[i]? = some x ∧ RowWord fz f rd.1 x (y s1 i) (y t i))
                  ∧ (¬early → now (if last then 3 else 0))
                  ∧ (Inv s1 → early → 2 ≤ lanes.length → field j.record 34 1 + lanes.length ≤ jN j →
                    ∀ tl, rd.2.2 = some tl → Finite 4 tl → Finite 4 thr → (∀ b ∈ lanes, Finite 4 b) →
                    (Leads lanes (val 4 thr + val 4 tl) → now 2) ∧ (¬Leads lanes (val 4 thr + val 4 tl) → now (if last then 3 else 0)))))

/-- R274, R276, R281–R286: RELAY begins a chain: the relay runs for its owner from the first leg and the bundle waits; RESUME goes on with a
relay that is suspended, paused at a call or faulted, where no further leg has met an error, and REASON stays until the continuation is
successful. LEG_FETCH performs a leg that passes its checks, now fetched or held since it had to wait, and a leg that must wait is held: a BR,
CALL, RET, EXIT or CODE leg moves the chain, a LOAD or FOW leg writes every target's scratchpad, an MMA or MMAS leg enters the queue of every
target that has room, and passes on once all have accepted it; a check that fails is a leg fault with its reason, and a CODE leg that leads to
no bundle address the address trap at the RELAY. RELAY_END completes the owner's bundle.
RSTAT reports the status, RSTAT.LEG the current leg, and RSTAT.ABANDON abandons a relay that does not run and leaves what RSTAT reports of its
last leg and fault. -/
def Obligations.RelayInstructionsTakeEffect : Prop :=
  ∀ (s : State) (o : CROps), s.me.pfu = none → let r := s.myCore.relay
    (Issues (.relay o) s → r.state = 0 → s.place s.who (valsOf (.relay o) s).a 1 ≠ none → s.storesDone s.curCore s.curCtx = true →
        ∃ t : State, exec (.relay o) s = .next { t with issue := .waitingRun } ∧ t.mem = s.mem ∧ t.me.wait = some .relay ∧ let q := t.myCore.relay
          q.state = 1 ∧ q.owner = s.curCtx ∧ q.next = (valsOf (.relay o) s).a ∧ q.stack = [] ∧ q.count = 0 ∧ q.targets = [])
      ∧ (Issues (.relayResume o) s → r.owner = s.curCtx → r.ownerWp = s.me.wp →
        (2 ≤ r.state → r.state ≤ 4 → (∀ t ∈ r.targets, t.error = none ∨ r.faulted = some t.no) →
          ∃ t : State, exec (.relayResume o) s = .next { t with issue := .waitingRun } ∧ t.myCore.relay.state = 1
            ∧ t.myCore.relay.reason = r.reason ∧ t.me.wait = some .relay)
        ∧ (r.state = 1 → Traps (.relayResume o) s { code := 1, reason := 6 }))
      ∧ (Issues (.rstat o) s → Gives (.rstat o) s (s.setReg o.d.toNat (relayWord r)))
      ∧ (Issues (.rstatLeg o) s → Gives (.rstatLeg o) s (s.setReg o.d.toNat r.cur))
      ∧ (Issues (.rstatAbandon o) s → (r.state < 2 → Gives (.rstatAbandon o) s (s.setReg o.d.toNat (relayWord r)))
          ∧ (2 ≤ r.state → ∃ t, Gives (.rstatAbandon o) s t ∧ t.myCore.relay.state = 0 ∧ t.myCore.relay.targets = []
            ∧ t.myCore.relay.reason = r.reason ∧ t.myCore.relay.cur = r.cur ∧ t.myCore.relay.curSeq = r.curSeq ∧ t.myCore.relay.count = r.count))
      ∧ (∀ n, let q := (s.core n).relay
        let x := s.ctx n q.owner
        q.state = 1 → x.live = true → x.wait = some .relay → (s.part (s.partOf n)).paused = false →
          (q.ending = true → q.targets = [] → ∃ t, exec (.relayEnd n) s = .next t ∧ t.mem = s.mem ∧ (t.core n).relay.state = 0
            ∧ (t.ctx n q.owner).wait = none ∧ (t.ctx n q.owner).pc = x.pc + 8 ∧ (t.ctx n q.owner).regs = x.regs
            ∧ (t.core n).relay.reason = q.reason ∧ (t.core n).relay.count = q.count)
          ∧ (q.ending = false →
            let faults := fun (s1 : State) (leg : Word) (reason : Nat) => ∃ t, exec (.legFetch n) s = .next t ∧ t.mem = s1.mem
              ∧ (t.core n).relay.state = 4 ∧ (t.core n).relay.reason = reason
              ∧ (t.ctx n q.owner).pend = (s1.ctx n q.owner).pend ++ [⟨32, 13, reason, 0, leg, q.pc, 0⟩]
            (Fetches s n → s.legAddress q.next = false → faults s q.next 2)
            ∧ (∀ reason s1, Fetches s n → legAt s n = .bad reason s1 none → reason ≠ 0 → faults s1 q.next reason)
            ∧ ∀ f s2, Holds s s2 n f →
              let k := (s2.core n).relay
              let moves := fun (p : Relay) (next : Word) => ∃ t, exec (.legFetch n) s = .next t ∧ t.mem = s2.mem ∧ SameRegisters s2 t ∧ GoesOn p (t.core n).relay next
              (f.leg.baton = 8 → moves k (if (s2.ctx n k.owner).regs.pred (f.leg.flags / 8 % 8) = decide (f.leg.flags / 4 % 2 = 1) then f.leg.alt else f.leg.next))
              ∧ (f.leg.baton = 9 → (k.stack.length < 8 → moves { k with stack := f.leg.next :: k.stack } f.leg.alt)
                ∧ (8 ≤ k.stack.length → faults s2 k.cur 19))
              ∧ (f.leg.baton = 10 → (∀ a l, k.stack = a :: l → moves { k with stack := l } a) ∧ (k.stack = [] → faults s2 k.cur 19))
              ∧ (f.leg.baton = 11 → ∃ t, exec (.legFetch n) s = .next t ∧ t.mem = s2.mem ∧ SameRegisters s2 t ∧ Performed k (t.core n).relay
                ∧ (t.core n).relay.ending = true)
              ∧ (f.leg.baton = 12 → f.leg.alt.toNat % 8 = 0 → ∃ t, exec (.legFetch n) s = .next t ∧ t.mem = s2.mem ∧ SameRegisters s2 t
                ∧ Performed k (t.core n).relay ∧ (t.core n).relay.state = 2
                ∧ (t.core n).relay.succ = some f.leg.next ∧ (t.ctx n k.owner).pc = f.leg.alt ∧ (t.ctx n k.owner).wait = none)
              ∧ (f.leg.baton = 12 → f.leg.alt.toNat % 8 ≠ 0 → (s2.ctx n k.owner).ih = false → ∃ t l, exec (.legFetch n) s = .next t ∧ t.mem = s2.mem
                ∧ SameRegisters s2 t ∧ (t.core n).relay.state = 3 ∧ (t.core n).relay.next = k.next ∧ (t.ctx n k.owner).pc = k.pc
                ∧ (t.ctx n k.owner).wait = none ∧ (t.ctx n k.owner).grant = some (.trapping l) ∧ l.code = 5 ∧ l.addr = f.leg.alt ∧ l.pcx = k.pc)
              ∧ (3 ≤ f.leg.baton → f.leg.baton ≤ 4 → Inv s2 → NoTransform s2 → s2.loadWaits n f = false → f.leg.shape + f.data.length ≤ 2 ^ 19 →
                (∀ m ∈ f.targets, m < 1200 ∧ NoActiveSlot s2 (spKey m f.leg.shape) f.data.length) →
                ∃ t, exec (.legFetch n) s = .next t ∧ (∀ m ∈ f.targets, t.bytesAt (spKey m f.leg.shape) f.data.length = f.data)
                  ∧ (∀ a, (∀ m ∈ f.targets, a < spKey m f.leg.shape ∨ spKey m f.leg.shape + f.data.length ≤ a) →
                    t.byteAt a = s2.byteAt a ∨ DirtyCopy s2 a (t.byteAt a))
                  ∧ SameRegisters s2 t ∧ GoesOn k (t.core n).relay f.leg.next)
              ∧ (3 ≤ f.leg.baton → f.leg.baton ≤ 4 → s2.loadWaits n f = true → Fetches s n → exec (.legFetch n) s = .next s2)
              ∧ (f.leg.baton ≤ 2 → f.targets.Nodup →
                let todo := f.targets.filter fun m => !k.accepted.contains m
                let now := todo.filter fun m => decide ((s2.core m).eng.mq.length < 8)
                (now = [] → todo ≠ [] → Fetches s n → exec (.legFetch n) s = .next s2)
                  ∧ (now ≠ [] ∨ todo = [] → ∃ t, exec (.legFetch n) s = .next t
                    ∧ (∀ m ∈ now, ∃ c, (t.core m).eng.mq = (s2.core m).eng.mq ++ [c] ∧ c.op = (if f.leg.baton = 1 then 0x42 else 0x43)
                      ∧ c.leg = some n ∧ c.payload = f.data ∧ c.got = [f.leg.fmt, f.leg.k, f.leg.n] ∧ c.instNo = k.no)
                    ∧ (∀ m, m ∉ now → (t.core m).eng.mq = (s2.core m).eng.mq)
                    ∧ (now = todo → (∀ x ∈ k.targets, x.error = none) → k.faulted ≠ some k.no → SameRegisters s2 t ∧ GoesOn k (t.core n).relay f.leg.next)
                    ∧ (now ≠ todo → SameRegisters s2 t ∧ (t.core n).relay.accepted = k.accepted ++ now ∧ (t.core n).relay.held = some f.hold
                      ∧ (t.core n).relay.next = k.next ∧ (t.core n).relay.count = k.count)))))

/-! ## Groups, hurdles, collectives -/

namespace Sys2Proof.Claims

open Sys2Proof.Machine Sys2Proof.Safety

/-- The issuing context has arrived at an episode `e` and waits for it (R320–R322): `old` is the episode it joined, none where it opened one.
`t` is the state in which it waits: no register has changed, and memory only where the arrival is a release beyond the cluster. -/
structure Arrives (i : Instr) (s t : State) (level : Nat) (old : Option Episode) (e : Episode) : Prop where
  waits : exec i s = .next (waits t)
  asleep : t.me.wait = some (.hurdle e.serial)
  joined : t.pack.episodes = match old with
    | none => s.pack.episodes ++ [e]
    | some o => s.pack.episodes.map fun x => if x.serial = o.serial then e else x
  regs : SameRegisters s t
  bytes : (level ≤ 2 → t.mem = s.mem) ∧ OnlyWritesBack s t

/-- The episode that a first arrival opens. -/
def opened (s : State) (key : HurdleKey) : Episode :=
  { serial := s.pack.nextEpisode, level := key.level, id := key.id, part := key.part, inst := key.inst, n := key.n,
    arrived := [(s.curCore, s.curCtx)], remote := 0, sums := List.replicate 16 0, contributed := [], complete := false }

/-- What CNTSUM adds to an episode: the core's sixteen event counters, once for a core, each sum saturating (R322). -/
def contributes (s : State) (e : Episode) : Episode :=
  if e.contributed.contains s.curCore then e
  else { e with
    sums := (List.range 16).map fun j => min ((e.sums[j]?).getD 0 + ((s.myCore.regs.ev[j]?).getD 0).toNat) (2 ^ 64 - 1)
    contributed := s.curCore :: e.contributed }

end Sys2Proof.Claims

/-- R314–R317, R320–R322: GROUP installs a list of members or removes it, and waits while a collective of the group is unfinished. HURDLE and
CNTSUM arrive once the context's accesses are done, opening an episode or joining the first open one of their key, and wait; another n there, a level
or an n out of range, or a POD level without an address-space number is reason 6. HURDLE_EPISODE_COMPLETE ends an episode whose n arrivals are
made and the waits for it, and the bundles complete: CNTSUM stores the sums. A collective command that has begun keeps its own part and parks;
parked it takes another member's contribution; it ends when the last is in, and its counter counts, after the answers of a destination in
another package. A contribution from another package whose digest is not that of the receiver's group, or which its port does not accept, is
diverted whether or not a command waits for it (R315, R319); the port judges by router 0's table (log 44). -/
def Obligations.GroupsHurdlesAndCollectives : Prop :=
  ∀ (s : State) (o : CROps), s.me.pfu = none →
    (Issues (.group o) s → let b := (valsOf (.group o) s).b.toNat
        let gid := b % 64
        let n := b / 2 ^ 16
        let p := s.partOf s.curCore
        (b = gid + 256 + n * 2 ^ 16 ∨ (b = gid + n * 2 ^ 16 ∧ 1 ≤ n ∧ n ≤ 4096)) → n < 2 ^ 13 →
          (s.collBusy p gid = true → exec (.group o) s = .next (waits s))
          ∧ (s.collBusy p gid = false →
            (b = gid + 256 + n * 2 ^ 16 → ∃ t, Gives (.group o) s t ∧ t.mem = s.mem ∧ SameRegisters s t ∧ tabGet t.pack.groups (64 * p + gid) = none)
            ∧ ∀ r s1, b = gid + n * 2 ^ 16 → s.readRecord (valsOf (.group o) s).a (2 * n) 16 = .ok r s1 →
              (s1.groupOk s1.curCore r n = false → Traps (.group o) s (Trap.illegal 6))
              ∧ (s1.groupOk s1.curCore r n = true → ∃ t, Gives (.group o) s t ∧ t.mem = s1.mem ∧ SameRegisters s1 t
                ∧ tabGet t.pack.groups (64 * s1.partOf s1.curCore + gid) = some ⟨r, n, crc32c r⟩)))
      ∧ (∀ q : CIOps, let i := Instr.hurdle q
        let level := q.imm.toNat % 8
        let id := q.imm.toNat / 8 % 16
        let n := (valsOf i s).a.toNat
        Issues i s →
          ((n = 0 ∨ 2 ^ 24 ≤ n ∨ level = 0 ∨ 5 < level) → Traps i s (Trap.illegal 6))
          ∧ (1 ≤ n → n < 2 ^ 24 → 1 ≤ level → level ≤ 5 →
            (s.myArrival = none →
              (s.hurdleKey level id n = none → Traps i s (Trap.illegal 6))
              ∧ ∀ key, s.hurdleKey level id n = some key →
                ((∀ e ∈ s.pack.episodes, e.joins key = false) → s.nothingOwed = true → s.storesDone s.curCore s.curCtx = true →
                  ∃ t, Arrives i s t level none (opened s key))
                ∧ ∀ l e r, s.pack.episodes = l ++ e :: r → (∀ x ∈ l, x.joins key = false) → e.joins key = true →
                  (e.n ≠ n → Traps i s (Trap.illegal 6))
                  ∧ (e.n = n → s.nothingOwed = true → s.storesDone s.curCore s.curCtx = true →
                    ∃ t, Arrives i s t level (some e) { e with arrived := (s.curCore, s.curCtx) :: e.arrived }))
            ∧ ∀ l e r, s.pack.episodes = l ++ e :: r → (∀ x ∈ l, x.serial ≠ e.serial) → s.myArrival = some e.serial →
              (e.complete = false → Sleeps i s (.hurdle e.serial))
              ∧ (e.complete = true → ∃ t, Gives i s t ∧ SameRegisters s t ∧ (level ≤ 2 → t.mem = s.mem) ∧ OnlyWritesBack s t
                ∧ (∀ a ∈ t.me.arrivals, a.episode ≠ e.serial)
                ∧ ∀ x ∈ t.pack.episodes, x.serial = e.serial → (s.curCore, s.curCtx) ∉ x.arrived)))
      ∧ (∀ (clr : Bool) k norm, let i := if clr then Instr.cntsumClr o else Instr.cntsum o
        let a := (valsOf i s).a
        let b := (valsOf i s).b.toNat
        let level := b % 8
        let id := b / 8 % 16
        let n := b / 2 ^ 16
        Issues i s → ((n = 0 ∨ level = 0 ∨ 5 < level ∨ b / 2 ^ 7 % 2 ^ 9 ≠ 0 ∨ 2 ^ 40 ≤ b) → Traps i s (Trap.illegal 6)) ∧ (Inv s → 1 ≤ level → level ≤ 5 → b / 2 ^ 7 % 2 ^ 9 = 0 → 1 ≤ n → b < 2 ^ 40 → a.toNat % 16 = 0 →
        s.place s.who a 128 = some (.window k norm) → s.scoreHit s.curCore (rangeOf norm 128) = false →
          (s.myArrival = none → s.hurdleKey level id n = none → Traps i s (Trap.illegal 6))
          ∧ (s.myArrival = none → ∀ key, s.hurdleKey level id n = some key → s.nothingOwed = true → s.storesDone s.curCore s.curCtx = true →
            ((∀ e ∈ s.pack.episodes, e.joins key = false) →
              ∃ t, Arrives i s t level none { contributes s (opened s key) with arrived := [(s.curCore, s.curCtx)] }
                ∧ t.myCore.regs.ev = if clr then List.replicate 16 0 else s.myCore.regs.ev)
            ∧ ∀ l e r, s.pack.episodes = l ++ e :: r → (∀ x ∈ l, x.joins key = false) → e.joins key = true →
              (e.n ≠ n → Traps i s (Trap.illegal 6))
              ∧ (e.n = n → ∃ t, Arrives i s t level (some e) { contributes s e with arrived := (s.curCore, s.curCtx) :: e.arrived }
                ∧ t.myCore.regs.ev = if clr && !e.contributed.contains s.curCore then List.replicate 16 0 else s.myCore.regs.ev))
          ∧ ∀ l e r, s.pack.episodes = l ++ e :: r → (∀ x ∈ l, x.serial ≠ e.serial) → s.myArrival = some e.serial →
            (e.complete = false → Sleeps i s (.hurdle e.serial))
            ∧ (e.complete = true → k < cmBase → NoActiveSlot s k 128 → ∃ t, Gives i s t ∧ SameRegisters s t
              ∧ (∀ x ∈ t.me.arrivals, x.episode ≠ e.serial)
              ∧ (∀ x ∈ t.pack.episodes, x.serial = e.serial → (s.curCore, s.curCtx) ∉ x.arrived)
              ∧ (level ≤ 2 → SameBytesBut s t k 128 ∧ ∀ j v, j < 16 → e.sums[j]? = some v → v < 2 ^ 64 → t.natAt (k + 8 * j) 8 = v))))
      ∧ (∀ i e, s.pack.episodes[i]? = some e → e.complete = false → e.arrived.length + e.remote = e.n →
        ∃ t, exec (.hurdleEpisodeComplete i) s = .next t ∧ t.mem = s.mem ∧ t.pack.episodes = s.pack.episodes.set i { e with complete := true }
          ∧ ∀ m k, t.ctx m k = if (s.ctx m k).wait = some (.hurdle e.serial) then { s.ctx m k with wait := none } else s.ctx m k)
      ∧ (∀ (n i : Nat) (part : CollPart) (bs : List Byte), part.ext = some bs → s.pack.inPod = true →
        (∀ g, s.groupOf n part.gid = some g → g.digest ≠ part.digest) ∨ s.accepts hubRouter n part.cap = false →
          exec (.collectiveContribution n i part) s = .next (s.contain n part.cap))
      ∧ ∀ (n i : Nat) (c : Cmd) (part : CollPart) (q : Coll), (s.core n).eng.xq[i]? = some c → 0x6B ≤ c.op →
        s.collPlan n c = .ok q →
        (∀ bs s1 s2 s3 c1, part.ext = none → c.status = .running → c.got = [] → c.stores = [] → c.sent = [] → c.race.hit = [] →
          s.anyRemote (c.who n) [(ptrField c.record 0, q.src)] = false →
          s.readParts (c.who n) c.scope false [(ptrField c.record 0, q.src)] c.payload = .ok (bs, s1) → s1.checkResult n c 24 = .ok s2 →
          (s2.sendChunks n c q bs).takeChunk n { c with payload := bs } q q.me.rank (chunkFor c.op q.chunk q.me.rank bs) = .ok (s3, c1) →
            exec (.collectiveContribution n i part) s = .next (s3.setCmd n .transfer { c1 with status := .parked })
              ∧ c1.got = [q.me.rank] ∧ c1.payload = bs)
          ∧ (c.status = .parked → collAsked ∉ c.sent → part.rank ∉ c.got →
            ∀ m, (q.members.find? fun y => y.rank == part.rank) = some m →
              (∀ x s1 c1, m.pkg = s.pack.pkg → part.ext = none → s.collSender c m = some x → q.me.rank ∉ x.sent → diverted q.me.rank ∉ x.sent →
                (clusterOf n = m.cluster ∨ s.accepts m.cluster n q.me.cap = true) →
                x.op = c.op → (∀ f ∈ [(16, 2), (18, 1), (19, 1)], field x.record f.1 f.2 = field c.record f.1 f.2) →
                (chunkFor x.op q.chunk q.me.rank x.payload).length = q.chunk →
                s.takeChunk n c q m.rank (chunkFor x.op q.chunk q.me.rank x.payload) = .ok (s1, c1) →
                  exec (.collectiveContribution n i part) s
                      = .next ((s1.setCmd n .transfer c1).setCmd m.global .transfer { x with sent := q.me.rank :: x.sent })
                    ∧ c1.got = m.rank :: c.got)
              ∧ ∀ bs g s1 c1, m.pkg ≠ s.pack.pkg → s.pack.inPod = true → part.ext = some bs → part.inst = c.instNo →
                field c.record 20 1 = part.gid → s.groupOf n part.gid = some g → g.digest = part.digest → s.accepts hubRouter n part.cap = true →
                part.kind = c.op → part.count = field c.record 16 2 → part.fmt.toNat = field c.record 18 1 → part.op = field c.record 19 1 →
                bs.length = q.chunk → s.takeChunk n c q part.rank bs = .ok (s1, c1) →
                  exec (.collectiveContribution n i part) s = .next (s1.setCmd n .transfer c1) ∧ c1.got = part.rank :: c.got)
          ∧ (∀ s1 c1, c.status = .parked → (s.part (s.partOf n)).paused = false → collWrote ∉ c.sent → s.collDone c q = true →
            s.collEnd n c q = .park s1 c1 →
              ∃ t, exec (.collectiveComplete n i) s = .next t ∧ (t.core n).regs.cc = (s1.core n).regs.cc
                ∧ ∀ y ∈ (t.core n).eng.xq, y.seq = c.seq → y.status = .parked ∧ collWrote ∈ y.sent)
          ∧ ∀ s1 k x, c.status = .parked → (s.part (s.partOf n)).paused = false → collWrote ∉ c.sent → s.collDone c q = true →
            s.collEnd n c q = .done s1 → c.leg = none → c.counter = some k → (s1.core n).regs.cc[k]? = some x →
              ∃ t, exec (.collectiveComplete n i) s = .next t ∧ (t.core n).regs.cc[k]? = some ⟨x.v + 1, x.e, x.ps.max c.scope⟩
                ∧ ∀ y ∈ (t.core n).eng.xq, y.seq ≠ c.seq

/-! ## The engines' events -/

namespace Sys2Proof.Claims

open Sys2Proof.Machine Sys2Proof.Safety

/-- A command of core `n` is no handler's of a row that it has given back with RDONE (R249). -/
def NotLate (c : Core) (x : Cmd) : Prop :=
  ∀ tok, x.token = some tok → (∀ d ∈ c.mat.drains, ∀ b, some b ∈ d.bufs → ¬(b.token = tok ∧ b.released = true)) ∧ ∀ b ∈ c.mat.spent, b.token ≠ tok

end Sys2Proof.Claims

/-- R126–R130, R132, R135, R140: a running XCOPY between scratchpads, none of whose bytes anything has stored to since its start, completes: the
destination takes the source's bytes, RESULT in the record the number of bytes, of every other byte only what an earlier release or atomic
left dirty goes ahead to its home (R331), the counter counts it once without an error, and the command leaves the queue. -/
def Obligations.CopiesMoveTheBytes : Prop :=
  ∀ (s : State) (n i k ks kd kr : Nat) (c : Cmd) (q : Counter) (ns nd nr : Word), Inv s → (s.core n).eng.xq[i]? = some c → c.status = .running →
    c.op = 0x28 → xferOk 0x28 c.record = true → c.sent = [] → c.leg = none → c.race.took = [] → c.race.hit = [] → NotLate (s.core n) c → NoTransform s → c.scope.code ≤ 2 → c.counter = some k →
    (s.core n).regs.cc[k]? = some q →
    let len := field c.record 16 4
    s.place (c.who n) (ptrField c.record 0) len = some (.window ks ns) → s.place (c.who n) (ptrField c.record 8) len = some (.window kd nd) →
    s.place (c.who n) (ptrUp c.addr 48) 4 = some (.window kr nr) → ks < cmBase → kd < cmBase → kr < cmBase →
    s.poisonedAt ks len = false → (kr + 4 ≤ kd ∨ kd + len ≤ kr) → NoActiveSlot s kd len → NoActiveSlot s kr 4 →
      ∃ t, exec (.transferCommandComplete n i) s = .next t ∧ t.bytesAt kd len = s.bytesAt ks len ∧ t.natAt kr 4 = len
        ∧ (∀ a, (a < kd ∨ kd + len ≤ a) → (a < kr ∨ kr + 4 ≤ a) → t.byteAt a = s.byteAt a ∨ DirtyCopy s a (t.byteAt a)) ∧ SameRegisters s t
        ∧ (t.core n).regs.cc[k]? = some ⟨q.v + 1, q.e, q.ps.max c.scope⟩ ∧ ∀ x ∈ (t.core n).eng.xq, x.seq ≠ c.seq

namespace Sys2Proof.Claims

open Sys2Proof.Machine Sys2Proof.Safety

/-- A command of a queue has completed (R126, R128, R140): it has left, and the counter that it names has counted it once, without an
error, at its scope. `s` is the state before that. -/
def Counted (s t : State) (n : Nat) (e : Eng) (c : Cmd) : Prop :=
  (∀ y ∈ (t.core n).queue e, y.seq ≠ c.seq)
    ∧ (c.leg = none → ∀ k x, c.counter = some k → (s.core n).regs.cc[k]? = some x → (t.core n).regs.cc[k]? = some ⟨x.v + 1, x.e, x.ps.max c.scope⟩)

/-- Transfer command `i` of core `n`, which stood as `x`, runs from now on (R126, R135): of the bytes that its work changes, some may be
written already. -/
structure Runs (s t : State) (n i : Nat) (x : Cmd) : Prop where
  queue : ∃ y, (t.core n).eng.xq[i]? = some y ∧ y = { x with status := .running, race := y.race }
  regs : SameRegisters s t
  bytes : Inv s → x.token = none → ∀ k, k < spBase ∨ Free s k 1 → t.byteAt k = s.byteAt k
    ∨ (x.op ≤ 0x2E ∧ ∃ u, s.workTransfer n { x with status := .running, race := s.raceOf n x } = .done u ∧ t.byteAt k = u.byteAt k)

/-- Nothing but core `n` changes. -/
def OnlyCore (s t : State) (n : Nat) : Prop := SameBytes s t ∧ t.clusters = s.clusters ∧ t.pack = s.pack ∧ ∀ m, m ≠ n → t.core m = s.core m

end Sys2Proof.Claims

/-- R126, R127, R145–R150, R214–R217, R238–R249: the engines' events come about where their conditions hold. A transfer command that may start
runs; one that is done leaves the queue and counts; the answers of a parked command let it run with their data, and their events count; the
members that have a collective's chunks acknowledge them, and those that its destination stands with answer. TECTL's DISC drops all but running
commands and ends a halt, and RES ends a halt and lets a command with a page error run again. A transform whose operands pass their checks is
done, leaves and counts; a vector command starts, and completes by another event. MZERO makes every word of its band +0 and the band valid. An
MDRAIN copies a row into a buffer and writes a released one. The model's choices here: a command does its work whole as it completes, of which
free bits say what is written as it starts (log 53), and a collective waits for the acknowledgement of its chunks (log 23). -/
def Obligations.EngineEventsComeAbout : Prop :=
  ∀ (s : State) (n : Nat), let c := s.core n
    (∀ i x, c.eng.xq[i]? = some x → x.status = .queued → c.eng.xhalt = false → (s.part (s.partOf n)).paused = false →
        (∀ e ∈ c.eng.xq.take i, e.status ≠ .queued ∧ s.holdsBack n e x = false) →
        (c.eng.xq.filter fun e => e.status.active).length < 4 →
        ∃ t, exec (.transferCommandStart n i) s = .next t ∧ Runs s t n i x)
      ∧ (∀ i x, c.eng.xq[i]? = some x → x.status = .running → x.op < 0x30 → ∀ s1, s.workTransfer n x = .done s1 →
          ∃ t, exec (.transferCommandComplete n i) s = .next t ∧ Counted s1 t n .transfer x
            ∧ (x.scope.code ≤ 2 → x.token = none → Inv s1 → ∀ k, k ∉ x.race.hit → t.byteAt k = s1.byteAt k))
      ∧ (∀ i x data, c.eng.xq[i]? = some x → x.status = .parked →
        (x.sent ≠ [] → x.op < 0x30 ∨ collAsked ∈ x.sent → ∀ ev : List (Nat × Nat),
          ∃ t, exec (.commandParkResume n i (.complete ev) data) s = .next t
            ∧ Runs (ev.foldl (fun s e => s.countNo n e.1 e.2) s) t n i { x with payload := x.payload ++ data }
            ∧ (ev = [] → (t.core n).regs = c.regs)
            ∧ ∀ j k v, ev = [(j, k)] → c.regs.ev[j]? = some v → (t.core n).regs.ev[j]? = some (BitVec.ofNat 32 (min (v.toNat + k) (2 ^ 32 - 1))))
        ∧ (0x6B ≤ x.op → collAsked ∉ x.sent → collWrote ∈ x.sent → ∀ ev,
          ∃ t, exec (.commandParkResume n i (.complete ev) data) s = .next t ∧ t.mem = s.mem ∧ SameRegisters s t
            ∧ (t.core n).eng.xq[i]? = some { x with sent := collAnswered :: x.sent.filter (· != collWrote) })
        ∧ (0x6B ≤ x.op → collAsked ∉ x.sent → collWrote ∉ x.sent → collAcked ∉ x.sent →
          ∃ t, exec (.commandParkResume n i (.complete []) data) s = .next t ∧ t.mem = s.mem ∧ SameRegisters s t
            ∧ (t.core n).eng.xq[i]? = some { x with sent := collAcked :: x.sent }))
      ∧ (∃ t, exec (.tectlDisc n) s = .next t ∧ QueueLeaves true false c.eng.xq (t.core n).eng.xq c.eng.xhalt (t.core n).eng.xhalt
        ∧ DropsAreSeen (dropped c.eng.xq) c (t.core n) ∧ OnlyCore s t n)
      ∧ (∃ t, exec (.tectlCpdisc n) s = .next t ∧ QueueLeaves true false c.eng.cq (t.core n).eng.cq c.eng.cphalt (t.core n).eng.cphalt
        ∧ DropsAreSeen (dropped c.eng.cq) c (t.core n) ∧ OnlyCore s t n)
      ∧ (∃ t, exec (.tectlRes n) s = .next t ∧ QueueLeaves false true c.eng.xq (t.core n).eng.xq c.eng.xhalt (t.core n).eng.xhalt
        ∧ DropsAreSeen [] c (t.core n) ∧ OnlyCore s t n)
      ∧ (∃ t, exec (.tectlCpres n) s = .next t ∧ QueueLeaves false true c.eng.cq (t.core n).eng.cq c.eng.cphalt (t.core n).eng.cphalt
        ∧ DropsAreSeen [] c (t.core n) ∧ OnlyCore s t n)
      ∧ (∀ cl third m x s1, s.nextTransform cl third = some (m, x) →
        State.runTransform (s.misuseCmd m x (x.race.src ++ x.race.dst)) m x = .ok s1 →
        ∃ t, exec (.transformCommand cl third) s = .next t ∧ Counted s1 t m .copro x ∧ (x.scope.code ≤ 2 → x.token = none → t.mem = s1.mem)
          ∧ (x.leg = none → ∀ k ∈ (t.core m).eng.tickets, k.seq = x.seq → k.state = 3))
      ∧ (∀ x v r s1 s2 s3, c.eng.vq = x :: r → x.status = .queued → c.eng.vhalt = false → (s.part (s.partOf n)).paused = false →
        x.op ≤ 0x5F → (∀ y : Range, s.scoreHit n y = false) → vRecordOk x.op x.record = true →
        s.readShapes (x.who n) x.op x.record x.scope = .ok (v, s1) → (∀ y : Range, s1.scoreHit n y = false) → vShapesOk x.op x.record v = true →
        v.streams = false → s1.unboundDst n (v.dsts x.op) = false → s1.vTranslate (x.who n) x.op (vFn x.record) v x.scope = .ok s2 →
        s2.checkResult n x 52 = .ok s3 → ∃ t y l, let run := { x with status := .running, payload := keepShapes x.record s1 (x.who n) x.op x.scope }
          exec (.vectorCommand n) s = .next t ∧ SameRegisters s t ∧ (t.core n).eng.vq = y :: l ∧ y = { run with sent := [vUnderWay], race := y.race }
            ∧ (Inv s3 → x.token = none → ∀ k, k < spBase ∨ Free s3 k 1 → t.byteAt k = s3.byteAt k
              ∨ ∃ c1 c2 u, c1 = { run with sent := [vUnderWay], race := c1.race } ∧ (s3.setCmd n .vector run).vElements n c1 v = .ok (c2, u)
                ∧ t.byteAt k = u.byteAt k))
      ∧ (∀ x r s1 s2 s3 c1, c.eng.vq = x :: r → x.status = .running → c.eng.vhalt = false → x.op ≤ 0x5F → x.got = [] → vUnderWay ∈ x.sent →
        let v := keptShapes x.record x.op x.payload
        let c2 := { c1 with race := Race.none }
        v.streams = false → s.rangesHeld n ((v.srcs x.op ++ v.dsts x.op).flatMap (s.shapeRanges (x.who n))) = false →
        (s.setCmd n .vector x).checkResult n x 52 = .ok s1 → (s1.setCmd n .vector { x with race := Race.none }).vElements n x v = .ok (c1, s2) →
        (((s2.mixHits (s.setCmd n .vector x) n x.race).misuseCmd n x (x.race.src ++ x.race.dst)).setCmd n .vector c2).writeResult n c2 52
          (c1.got.headD 0) = .ok s3 →
          ∃ t, exec (.vectorCommand n) s = .next t ∧ Counted s3 t n .vector x ∧ (x.scope.code ≤ 2 → t.mem = s3.mem))
      ∧ (∀ x b r, Inv s → c.eng.mq = x :: r → x.status = .queued → c.eng.mhalt = false → (s.part (s.partOf n)).paused = false →
        x.op = 0x44 → x.counted = true → c.band? x.handle = some b → c.receptionRow = none → x.scope.code ≤ 2 → x.leg = none →
          ∃ t, exec (.matrixCommand n) s = .next t ∧ Counted s t n .matrix x ∧ SameRegisters s t
            ∧ SameBytesBut s t (accKey n b.first 0) (512 * b.size)
            ∧ (∀ i < b.size, ∀ j < 128, t.natAt (accKey n (b.first + i) j) 4 = 0)
            ∧ ∃ b', (t.core n).band? x.handle = some b' ∧ b'.invalid = false ∧ b'.pending = b.pending - 1)
      ∧ ∀ d r h, c.mat.drains = d :: r → (s.part (s.partOf n)).paused = false → d.shape? = some h → d.lost = [] →
        (∀ e, s.checkResult n d.cmd 52 = .error e → e.reason ≠ 0) →
        (∀ j b t, d.buf? (·.released) = some (j, b) → s.writeRow n d h j b = some t → exec (.mdrainRow n) s = .next t)
          ∧ ∀ j b, Inv s → d.buf? (·.released) = none → (d.buf? fun b => !b.queued) = none → d.next + 1 < drainRows d → freeBuf d.bufs = some j →
            c.band? d.cmd.handle = some b → s.bufHeld n d j = false → s.accPoison n (b.first + mFrow d.cmd.record + d.next) 128 = false →
            field d.cmd.record 30 1 = 0 → d.bufAt j + 512 ≤ 2 ^ 19 → NoActiveSlot s (spKey n (d.bufAt j)) 512 →
              ∃ t, exec (.mdrainRow n) s = .next t ∧ SameBytesBut s t (spKey n (d.bufAt j)) 512 ∧ SameRegisters s t
                ∧ t.bytesAt (spKey n (d.bufAt j)) 512 = s.bytesAt (accKey n (b.first + mFrow d.cmd.record + d.next) 0) 512
                ∧ ∃ d' ∈ (t.core n).mat.drains, d'.cmd.seq = d.cmd.seq ∧ d'.next = d.next + 1
                  ∧ d'.bufs[j]? = some (some ⟨d.next, rowToken d.cmd.seq j, false, false, false⟩)

/-! ## Contexts, tasks, launches -/

/-- R156, R307, R347–R350, R357, R358, R367, R368, R167: the instructions about contexts take effect. START begins the lowest-numbered free
helper at the program address on the workspace; FORK the selected sequencers; JOIN reports their mailboxes once none of them runs; SETWP
writes the old set back with the next bundle's address in slot 64 and loads the new: at once where the context's earlier stores are performed,
else behind them (R168). The model's readings here: slot 64 takes the next bundle's address in a handler's SETWP too, SETWP to the workspace it
leaves goes on at the next bundle, and a handler's EXIT leaves slot 64 to memory (log 34); a workspace word with a reserved bit raises
reason 6 (log 51). EXIT writes the set back and ends the context; SLEEP
waits for its count; WORLD reports; IDLE ends where a task is queued, a trap is pending or a pre-emption begins. The events JOIN_COMPLETE,
SLEEP_EXPIRY, IDLE_WAKE, MWAIT_WAKE and MWAIT_TIMEOUT end the waits. -/
def Obligations.ContextInstructions : Prop :=
  ∀ (s : State) (o : CROps),
    (let a := (valsOf (.start o) s).a
      let b := (valsOf (.start o) s).b
      Issues (.start o) s →
        (s.curCtx ≠ 0 ∨ workspaceOk b = false → Traps (.start o) s { code := 1, reason := 6 })
          ∧ (s.curCtx = 0 → workspaceOk b = true →
            (s.codePtr a = false → Traps (.start o) s { code := 5, addr := a })
              ∧ (s.codePtr a = true →
                ((∀ h, 1 ≤ h → h ≤ 10 → (s.ctx s.curCore h).live = true) → Gives (.start o) s (s.setReg o.d.toNat (BitVec.allOnes 64)))
                ∧ (∀ h, 1 ≤ h → h ≤ 10 → (s.ctx s.curCore h).live = false → (∀ j, 1 ≤ j → j < h → (s.ctx s.curCore j).live = true) →
                  s.storesDone s.curCore s.curCtx = true →
                    ∃ t : State, Gives (.start o) s (t.setReg o.d.toNat (BitVec.ofNat 64 (h - 1))) ∧ SameBytes s t ∧ SameOthers s t s.curCore h
                      ∧ let x := t.ctx s.curCore h
                        x.live = true ∧ x.pc = a ∧ x.wp = b.setWidth 19 ∧ x.psize = b.extractLsb' 32 8 ∧ x.group = s.me.group ∧ x.launch = s.me.launch
                          ∧ ∀ i : Fin 56, x.regs.w[i] = s.slotWord s.curCore (b.toNat % 2 ^ 19) i.val))))
      ∧ (let a := (valsOf (.fork o) s).a
        let b := (valsOf (.fork o) s).b
        Issues (.fork o) s →
          (8 ≤ b.toNat → Traps (.fork o) s { code := 1, reason := 6 }) ∧ (b = 0 → Gives (.fork o) s s)
            ∧ (∀ fs s1, 0 < b.toNat → b.toNat < 8 → a.toNat % 16 = 0 → (s.place s.who a 48).isSome →
              s.readForks a (maskEngines b) = .ok fs s1 → (∀ f ∈ fs, s1.codePtr f.2.1 = true ∧ workspaceOk f.2.2 = true) →
              s1.myCore.seqs.length = 3 → (∀ e < 3, b.getLsbD e = true → (s1.myCore.seq e).mailbox ≠ .running) → s1.storesDone s1.curCore s1.curCtx = true →
                ∃ t, Gives (.fork o) s t ∧ t.mem = s1.mem ∧ ∀ f ∈ fs, let x := t.ctx s1.curCore (11 + f.1)
                  x.live = true ∧ x.pc = f.2.1 ∧ x.wp = f.2.2.setWidth 19 ∧ (t.myCore.seq f.1).mailbox = .running ∧ (t.myCore.seq f.1).forker = s1.curCtx))
      ∧ (let a := (valsOf (.join o) s).a
        let at_ := fun (e : Nat) => if a.getLsbD e then (s.myCore.seq e).mailbox else .idle
        let w := fun (e : Nat) => if at_ e = .done then 2 ^ e else if at_ e = .fault then 2 ^ (4 + e) else 0
        Issues (.join o) s → (8 ≤ a.toNat → Traps (.join o) s { code := 1, reason := 6 })
          ∧ (a.toNat < 8 → (∀ e < 3, at_ e ≠ .running) → Gives (.join o) s (s.setReg o.d.toNat (BitVec.ofNat 64 (w 0 + w 1 + w 2))))
          ∧ (a.toNat < 8 → (∃ e < 3, at_ e = .running) → Sleeps (.join o) s (.join a.toNat)))
      ∧ (let a := (valsOf (.setwp o) s).a
        let new := a.toNat % 2 ^ 19
        let pc := s.slotWord s.curCore new 64
        let old := s.me.wp.toNat
        let past := s.myCore.su.past s.curCtx s.me.bundles
        Issues (.setwp o) s → Inv s → (∀ q ∈ s.myCore.su.behind, q.ctx ≠ s.curCtx) → (workspaceOk a = false → Traps (.setwp o) s { code := 1, reason := 6 })
          ∧ (workspaceOk a = true → s.me.regs.full = BitVec.allOnes 56 → s.me.regs.pend = 0 → s.slotsBuffered new = false →
            s.poisonedAt (slotKey s.curCore new 64) 64 = false →
              (pc.toNat % 8 ≠ 0 → Traps (.setwp o) s { code := 5, addr := pc })
              ∧ (pc.toNat % 8 = 0 → past = false → new + 576 ≤ old ∨ old + 576 ≤ new → ∃ t, Gives (.setwp o) s t ∧ SameOthers s t s.curCore s.curCtx
                ∧ SameBytes s t ∧ (∀ i : Fin 56, t.me.regs.w[i] = s.slotWord s.curCore new i.val) ∧ t.me.npc = pc ∧ t.me.wp = a.setWidth 19
                ∧ t.me.psize = a.extractLsb' 32 8 ∧ t.me.ih = s.me.ih ∧ t.me.watch = none
                ∧ ∃ regs top, t.myCore.su.behind = s.myCore.su.behind ++ [⟨s.curCtx, s.me.bundles, .slots (slotKey s.curCore old 0) regs⟩,
                    ⟨s.curCtx, s.me.bundles, .slots (slotKey s.curCore old 64) top⟩]
                  ∧ (∀ i : Fin 56, bytesToNat ((regs.drop (8 * i.val)).take 8) = s.me.regs.w[i].toNat) ∧ bytesToNat (top.take 8) = (s.me.pc + 8).toNat)
              ∧ (pc.toNat % 8 = 0 → past = true → ∃ t, Gives (.setwp o) s t ∧ SameOthers s t s.curCore s.curCtx
                ∧ SameBytesBut s t (slotKey s.curCore old 0) 576 ∧ t.slotWord s.curCore old 64 = s.me.pc + 8
                ∧ (∀ i : Fin 56, t.slotWord s.curCore old i.val = s.me.regs.w[i] ∧ t.me.regs.w[i] = t.slotWord s.curCore new i.val)
                ∧ t.slotWord s.curCore old 66 = s.me.fpcr ∧ t.slotWord s.curCore old 67 = s.me.cpr
                ∧ t.me.npc = (if new = old then s.me.pc + 8 else pc) ∧ t.me.wp = a.setWidth 19 ∧ t.me.psize = a.extractLsb' 32 8 ∧ t.me.ih = s.me.ih ∧ t.me.watch = none)))
      ∧ (Issues (.exit o) s → s.nothingOwed = true → s.storesDone s.curCore s.curCtx = true → Inv s →
        ∃ t, Gives (.exit o) s t ∧ (t.ctx s.curCore s.curCtx).live = false
          ∧ (11 ≤ s.curCtx → s.curCtx ≤ 13 → s.myCore.seqs.length = 3 → ((t.core s.curCore).seq (s.curCtx - 11)).mailbox = .done)
          ∧ (s.me.pend = [] → s.me.origin = none → SameBytesBut s t (slotKey s.curCore s.me.wp.toNat 0) 576
            ∧ (∀ i : Fin 56, t.slotWord s.curCore s.me.wp.toNat i.val = s.me.regs.w[i])
            ∧ (s.me.ih = false → t.slotWord s.curCore s.me.wp.toNat 64 = s.me.pc + 8)))
      ∧ (Issues (.sleep o) s → Gives (.sleep o) s (s.setMe { s.me with
          wait := some (.sleep (s.cycle + (valsOf (.sleep o) s).a.toNat % 2 ^ 32)), grant := none }))
      ∧ (∀ c : CXOps, let p := s.partOf s.curCore
        let w := (if ascrSec s.myCore.regs.ascr then 1 else 0) + p % 8 * 2 + (if s.me.ih then 16 else 0)
          + (if (s.part p).vector.isSome then 32 else 0) + s.pack.pkg % 256 * 256
        let leave := s.myCore.runq ≠ [] ∨ s.me.pend ≠ [] ∨ (s.part p).paused = true
        (Issues (.world c) s → Gives (.world c) s (s.setReg c.d.toNat (BitVec.ofNat 64 w)))
          ∧ (Issues (.idle c) s → (s.me.grant = some (.code 0) ∨ leave → Gives (.idle c) s (s.setMe { s.me with wait := none, grant := none }))
            ∧ (s.me.grant ≠ some (.code 0) → ¬leave → Sleeps (.idle c) s .idle)))
      ∧ (∀ n k, let x := s.ctx n k
        let held := x.pend ≠ [] ∨ (s.part (s.partOf n)).paused = true
        let ends := fun (i : Instr) (g : Option Grant) => exec i s = .next (s.setCtx n k { x with wait := none, grant := g })
        x.live = true →
          (∀ m, x.wait = some (.join m) → (∀ e < 3, m.testBit e = true → ((s.core n).seq e).mailbox ≠ .running) → ends (.joinComplete n k) none)
            ∧ (∀ c, x.wait = some (.sleep c) → c ≤ s.cycle ∨ held → ends (.sleepExpiry n k) none)
            ∧ (x.wait = some .idle → x.grant ≠ none ∨ (s.core n).runq ≠ [] ∨ held → ends (.idleWake n k) (some (.code 0)))
            ∧ (∀ u, x.wait = some (.watch u) →
              (x.watch = none → ends (.mwaitWake n k) (some (.code 3)))
                ∧ (∀ w, x.watch = some w → (w.code ≠ 0 → ends (.mwaitWake n k) (some (.code w.code))) ∧ (w.code = 0 → held → ends (.mwaitWake n k) (some (.code 4))))
                ∧ (∀ c, u = some c → c ≤ s.cycle → ends (.mwaitTimeout n k) (some (.code 5)))))

/-- R337–R340, R404, R405: LAUNCH queues a launch of its partition's starter; one whose record breaks the rules, or that places a core the
parent holds, raises the illegal-instruction trap. LAUNCH_START makes the control context of every placed core live at the record's program
address and writes RUNNING to STATUS, or writes FAILED with its reason; LAUNCH_COMPLETE frees the cores, writes DONE and counts for the
parent. -/
def Obligations.LaunchesAreQueuedPlacedAndEnded : Prop :=
  ∀ s : State, Inv s →
    (∀ (o : CROps) (r : List Byte) (s1 s2 : State) (k : Nat), Issues (.launch o) s → s.readRecord (valsOf (.launch o) s).a 16 64 = .ok r s1 →
        s1.statusPlace (valsOf (.launch o) s).a = .ok k s2 → s2.nothingOwed = true → s2.storesDone s2.curCore s2.curCtx = true →
        let p := s2.partOf s2.curCore
        let mine := match s2.me.launch with | some id => (tabGet s2.pack.launches id).elim [] (·.cores) | none => []
        let good := launchOk r false = true ∧ s2.clustersOwned p r = true ∧ ∀ n ∈ placedCores r, n ∉ mine
        (¬good → Traps (.launch o) s { code := 1, reason := 6 })
          ∧ (good → ∃ t l, Gives (.launch o) s t ∧ SameRegisters s2 t ∧ (t.part p).starts = (s2.part p).starts ++ [s2.pack.nextLaunch]
            ∧ tabGet t.pack.launches s2.pack.nextLaunch = some l ∧ l.record = r ∧ l.part = p ∧ l.status = k ∧ l.state = 0
            ∧ l.parent = some (s2.curCore, o.d.toNat % 16) ∧ l.parentAscr = s2.myCore.regs.ascr))
      ∧ (∀ (p id : Nat) (l : Launch), (s.part p).starts.head? = some id → tabGet s.pack.launches id = some l →
        let r := if l.entry.isSome then s.bytesAt (l.status - 88) 128 else l.record
        let plain := (l.status < windowBase ∨ windowEnd ≤ l.status) ∧ (l.status < spBase ∨ cmBase ≤ l.status ∨ NoActiveSlot s l.status 8)
        (∀ why, s.launchFault l r = some why → ∃ t, exec (.launchStart p) s = .next t ∧ tabGet t.pack.launches id = none ∧ SameRegisters s t
            ∧ (plain → t.natAt l.status 8 = 3 + why * 256 ∧ OnlyWritesBackBut s t l.status 8
              ∧ (spBase ≤ l.status → l.status < cmBase → SameBytesBut s t l.status 8)))
          ∧ (s.launchFault l r = none → s.launchFits p r (placedCores r) ((List.range 50).filter fun c => (field r 8 8).testBit c) = true →
            ∃ t, exec (.launchStart p) s = .next t
              ∧ (plain → (∀ n ∈ placedCores r, l.status + 8 ≤ spKey n 0 ∨ spKey n 0x80000 ≤ l.status) → t.natAt l.status 8 = 1)
              ∧ (tabGet t.pack.launches id).map (fun m => (m.state, m.cores)) = some (1, placedCores r)
              ∧ ∀ n ∈ placedCores r, (t.core n).launch = some id ∧ (t.ctx n 0).live = true ∧ (t.ctx n 0).pc.toNat = field r 0 8
                ∧ (t.ctx n 0).wp.toNat = field r 20 4 % 2 ^ 19 ∧ (t.ctx n 0).launch = some id ∧ (t.core n).regs.cc = List.replicate 16 ⟨0, false, .core⟩))
      ∧ (∀ (id : Nat) (l : Launch), tabGet s.pack.launches id = some l → l.state = 1 → s.launchBusy id l = false →
        ∃ t, exec (.launchComplete id) s = .next t ∧ tabGet t.pack.launches id = none ∧ SameRegisters s t
          ∧ (l.status < windowBase ∨ windowEnd ≤ l.status → (l.status < spBase ∨ cmBase ≤ l.status ∨ NoActiveSlot s l.status 8) → t.natAt l.status 8 = 2)
          ∧ (∀ n ∈ l.cores, (t.core n).launch = none)
          ∧ ∀ c n q, l.parent = some (c, n) → (s.core c).regs.cc[n]? = some q → (t.core c).regs.cc[n]? = some ⟨q.v + 1, q.e, q.ps.max l.scope⟩)

/-- R341, R344, R351–R356, R370: SEND puts a task into the outbound buffer, TASK_ARRIVAL into the target's run queue, and TASK_DISPATCH gives
the head of the highest non-empty priority to the lowest-numbered free helper, its payload in w0 to w3. TASKQ gives a task to the photo-finish
unit, which starts the pending task with the smallest key, commits the oldest finished one, performing its held writes and counting, and
returns an aborted one to pending. PACE_UPDATE smooths the pace. The model's readings here: a dispatched task keeps its entry's priority
(log 39), the port judges an arrival of the pod by router 0's table (log 44), and held writes are performed as they were issued (log 36). -/
def Obligations.TasksAreSentHeldAndRun : Prop :=
  ∀ s : State, Inv s →
    (∀ (o : CROps) (r : List Byte) (s1 : State), Issues (.send o) s → s.readRecord (valsOf (.send o) s).a 8 16 = .ok r s1 → s1.me.pfu = none →
        (sendOk r = false → Traps (.send o) s { code := 1, reason := 6 })
          ∧ (sendOk r = true → s1.nothingOwed = true → s1.storesDone s1.curCore s1.curCtx = true →
            (s1.myCore.outq.length < 4 → ∃ t q, Gives (.send o) s t ∧ SameRegisters s1 t ∧ t.myCore.outq = s1.myCore.outq ++ [q]
              ∧ q.pkg = (if field r 40 2 = 0xFFFF then s1.pack.pkg else field r 40 2)
              ∧ q.cluster = (if field r 42 1 = 0xFF then clusterOf s1.curCore else field r 42 1) ∧ q.core = field r 43 1
              ∧ q.cap = (s1.part (s1.partOf s1.curCore)).pkey ∧ q.pas = s1.pasOf s1.curCore ∧ q.task = s1.taskOfRecord r)
            ∧ (4 ≤ s1.myCore.outq.length → ∃ t, exec (.send o) s = .next (waits t))))
      ∧ (∀ (o : CROps) (r : List Byte) (s1 : State) (m : PfuTask), Issues (.send o) s → s.readRecord (valsOf (.send o) s).a 8 16 = .ok r s1 →
        s1.spec = some m → sendOk r = true → field r 40 2 = 0xFFFF → field r 42 1 = 0xFF → s1.nothingOwed = true →
        s1.storesDone s1.curCore s1.curCtx = true → ∃ t q, Gives (.send o) s t ∧ t.mem = s1.mem
          ∧ t.pfuTask (clusterOf s1.curCore) m.seq = some { m with sends := m.sends ++ [q] } ∧ q.core = field r 43 1 ∧ q.task = s1.taskOfRecord r)
      ∧ (∀ (o : CROps) (r : List Byte) (s1 : State), Issues (.taskq o) s → s.readRecord (valsOf (.taskq o) s).a 8 16 = .ok r s1 →
        let cl := clusterOf s1.curCore
        let me := (s1.taskOf s1.curCore s1.curCtx).map (·.2)
        let early := ∃ m, me = some m ∧ (field r 48 8 < m.ts.toNat ∨ 16 ≤ m.children)
        (taskqOk r = false ∨ early → Traps (.taskq o) s { code := 1, reason := 6 })
          ∧ (taskqOk r = true → ¬early → s1.storesDone s1.curCore s1.curCtx = true → (s1.cluster cl).pfu.length < 240 → clusterOf s.curCore = cl →
            (∀ u ∈ (s1.cluster cl).pfu, u.fixed = true → u.ts.toNat < field r 48 8) →
              ∃ t u l, Gives (.taskq o) s t ∧ t.mem = s1.mem ∧ SameRegisters s1 t ∧ (t.cluster cl).pfu = l ++ [u]
                ∧ l.map (·.seq) = (s1.cluster cl).pfu.map (·.seq) ∧ (t.cluster cl).pfuSeq = ((s1.cluster cl).pfuSeq + 1) % 2 ^ 32
                ∧ u.ts.toNat = field r 48 8 ∧ u.seq = (s1.cluster cl).pfuSeq ∧ u.task = s1.taskOfRecord r ∧ u.parent = me.map (·.seq)
                ∧ u.state = .pending ∧ u.fixed = false ∧ u.srcCore = s1.curCore ∧ u.counter = o.d.toNat % 16))
      ∧ (∀ (cluster core : Nat) (cap : BitVec 16) (pas : Option Nat) (m : TaskMsg), let n := 24 * cluster + core
        let i := Instr.taskArrival (.pod cluster core cap pas m)
        let welcome := s.podOk n pas = true ∧ s.accepts hubRouter n cap = true
        (welcome → (s.core n).launch.isSome → (s.core n).runq.length < 64 →
            ∃ t, exec i s = .next t ∧ t.mem = s.mem ∧ SameRegisters s t
              ∧ (t.core n).runq = (s.core n).runq ++ [⟨{ m with launch := none }, m.pri, 0, none, none⟩])
          ∧ (¬welcome → exec i s = .next (s.contain n cap) ∧ ((s.contain n cap).core n).runq = (s.core n).runq)
          ∧ (welcome → (s.core n).launch = none → exec i s = .next (s.refuseTask n n m.group) ∧ ((s.refuseTask n n m.group).core n).runq = (s.core n).runq))
      ∧ (∀ (n i : Nat) (q : OutTask), (s.core n).outq[i]? = some q →
        (∀ j < i, ∀ x, (s.core n).outq[j]? = some x → (x.pkg, x.cluster, x.core) ≠ (q.pkg, q.cluster, q.core)) →
        (q.pkg ≠ s.pack.pkg → ∃ t, exec (.taskArrival (.buffer n i)) s = .next t ∧ t.out = s.out ++ [.task q.pkg q.cluster q.core q.cap q.pas q.task]
            ∧ (t.core n).outq = (s.core n).outq.eraseIdx i ∧ t.mem = s.mem ∧ SameRegisters s t)
          ∧ (q.pkg = s.pack.pkg → let m := 24 * q.cluster + q.core
            s.accepts (clusterOf n) m q.cap = true → (s.core m).launch.isSome → (s.core m).runq.length < 64 →
              ∃ t, exec (.taskArrival (.buffer n i)) s = .next t ∧ (t.core m).runq = (s.core m).runq ++ [⟨q.task, q.task.pri, 0, none, none⟩]
                ∧ (t.core n).outq = (s.core n).outq.eraseIdx i))
      ∧ (∀ (n k i : Nat) (r : RunEntry), (s.core n).launch.isSome → (s.core n).lost = false → (s.part (s.partOf n)).paused = false →
        1 ≤ k → k ≤ 10 → (s.ctx n k).live = false → (∀ j, 1 ≤ j → j < k → (s.ctx n j).live = true) → (s.core n).runq[i]? = some r →
        (∀ j x, (s.core n).runq[j]? = some x → x.pri ≤ 3 ∧ (r.pri < x.pri ∨ (r.pri = x.pri ∧ i ≤ j))) →
          ∃ t, exec (.taskDispatch n) s = .next t ∧ (t.ctx n k).live = true ∧ (t.core n).runq.length + 1 = (s.core n).runq.length
            ∧ let x := t.ctx n k
              (r.migrated = none → x.pc = r.task.pc ∧ x.regs.w[0] = r.task.p0 ∧ x.regs.w[1] = r.task.p1 ∧ x.regs.w[2] = r.task.p2
                ∧ x.regs.w[3] = r.task.p3 ∧ x.group = r.task.group ∧ x.launch = r.task.launch ∧ x.prio = r.task.pri ∧ x.token = r.token)
              ∧ (∀ m, r.migrated = some m → x.origin = some m.origin ∧ x.psize.toNat = m.psize % 256 ∧ .notice m.pkg m.tag .accepted ∈ t.out))
      ∧ (∀ (cl : Nat) (u : PfuTask) (n k : Nat), firstPending (s.cluster cl).pfu = some u → s.pfuCore cl = some (n, k) →
        livePfu (s.cluster cl).pfu < 64 → ∃ t, exec (.pfuTaskStart cl) s = .next t
          ∧ (t.ctx n k).live = true ∧ (t.ctx n k).pc = u.task.pc ∧ (t.ctx n k).pfu = some u.seq
          ∧ t.pfuTask cl u.seq = some { u with state := .running, core := n, ctx := k, doomed := false })
      ∧ (∀ (cl : Nat) (u : PfuTask) (l r : List PfuTask), (s.cluster cl).pfu = l ++ u :: r → u.state = .finished → s.pfuOldest cl u = true →
        u.doomed = false → (∀ x ∈ l, x.state ≠ .finished) → s.heldsWait u = false → NoTransform s →
          ∃ t, exec (.pfuCommit cl) s = .next t ∧ (∀ x ∈ (t.cluster cl).pfu, x.seq ≠ u.seq) ∧ (u.held = [] → SameBytes s t)
            ∧ (∀ h, u.held = [h] → h.order.releases = false →
              (h.mt = none → h.key < cmBase → spBase ≤ h.key → NoActiveSlot s h.key h.size →
                OnlyWritesBackBut s t h.key h.size ∧ t.natAt h.key h.size = h.data.toNat % 256 ^ h.size)
              ∧ (h.mt = some .writeBack → h.scope.code ≤ 2 → h.pol < 4 → h.key + h.size ≤ framedEnd → h.key % 48 + h.size ≤ 48 →
                OnlyWritesBack s t ∧ seenNat t (clusterOf u.core) h.key h.size = h.data.toNat % 256 ^ h.size))
            ∧ (t.core u.core).outq = (s.core u.core).outq ++ u.sends
            ∧ ∀ q, (s.core u.srcCore).regs.cc[u.counter]? = some q → (t.core u.srcCore).regs.cc[u.counter]? = some ⟨q.v + 1, q.e, q.ps.max .cluster⟩)
      ∧ (∀ (cl seq : Nat) (u : PfuTask), s.pfuTask cl seq = some u → u.doomed = true →
        (u.state = .running → (s.ctx u.core u.ctx).pfu = some u.seq ∧ ∀ o ∈ (s.core u.core).owed, o.ctx ≠ u.ctx) →
          ∃ t v, exec (.pfuAbort cl seq) s = .next t ∧ t.pfuTask cl seq = some v ∧ v.state = .pending ∧ v.ts = u.ts ∧ v.task = u.task ∧ v.held = []
            ∧ v.sends = [] ∧ v.reads = [] ∧ v.doomed = false ∧ (u.state = .running → (t.ctx u.core u.ctx).live = false))
      ∧ (∀ cl, (s.cluster cl).paceAt < s.cycle / 4096 → exec (.paceUpdate cl) s = .next (s.setCluster cl { s.cluster cl with
          paceAt := s.cycle / 4096, pace := (3 * (s.cluster cl).pace + min 255 (s.activity cl * 255 / 264)) / 4 }))

/-! ## Traps, invalidations, the steward -/

namespace Sys2Proof.Claims

open Sys2Proof.Machine Sys2Proof.Safety

/-- What a delivery leaves (R359–R361): the handler's entry with w54 and w55 set and IH = 1, the set with slots 64 to 73 of the workspace
written. `y` is the context's register set before, `a` the saved program counter. -/
structure Entered (s t : State) (n k : Nat) (y : Ctx) (v a cause addr pcx arg : Word) : Prop where
  pc : (t.ctx n k).pc = v
  ih : (t.ctx n k).ih = true
  live : (t.ctx n k).live = y.live
  w54 : (t.ctx n k).regs.w[54] = 0xF100000000000000
  w55 : (t.ctx n k).regs.w[55] = cause
  full : (t.ctx n k).regs.full.getLsbD 54 = true ∧ (t.ctx n k).regs.full.getLsbD 55 = true
  regs : SameRegs y (t.ctx n k) [54, 55]
  preds : (t.ctx n k).regs.g = y.regs.g
  bytes : SameBytesBut s t (slotKey n y.wp.toNat 64) 80
  slots : let at_ := t.slotWord n y.wp.toNat
    at_ 64 = a ∧ at_ 65 = y.slot65 ∧ at_ 66 = y.fpcr ∧ at_ 67 = y.cpr ∧ at_ 68 = cause ∧ at_ 69 = addr ∧ at_ 70 = pcx ∧ at_ 71 = arg
      ∧ at_ 72 = y.regs.w[54] ∧ at_ 73 = y.regs.w[55]

/-- The cause word (R360). -/
def causeWord (y : Ctx) (code reason reg idx : Nat) (slotA async : Bool) : Word :=
  let b := fun (c : Bool) => if c then 1 else 0
  BitVec.ofNat 64 (code % 256 + reason % 256 * 2 ^ 8 + b slotA * 2 ^ 16 + b async * 2 ^ 17 + b (y.regs.psn.getLsbD 54) * 2 ^ 18
    + b (y.regs.psn.getLsbD 55) * 2 ^ 19 + reg % 64 * 2 ^ 20 + idx % 16 * 2 ^ 26)

end Sys2Proof.Claims

/-- R299, R349, R359–R363: TRAP takes the trap of code 15, whose saved program counter is the next bundle's. A trap enters the handler at
the partition's vector once w54 and w55 are full; until then the trap, as it was raised, is kept with the context, whose next bundle takes it
whatever has changed since. In a handler, or with no vector, it ends the context; in a sequencer it ends the sequencer, whose mailbox reads
FAULT. TRAP_DELIVERY delivers the pending trap of the lowest rank in the same way; SEQUENCER_FAULT ends a sequencer. -/
def Obligations.TrapsAreTaken : Prop :=
  ∀ s : State, Inv s →
    (∀ o : CIOps, Issues (.trap o) s →
        let k : Int := match o.lit with | some l => l.toInt | none => o.imm.toInt
        Traps (.trap o) s { code := 15, addr := BitVec.ofInt 64 k, arg := (valsOf (.trap o) s).a, after := true })
      ∧ (∀ (x : Trap) (slotA : Bool) (word : W32),
        let t := s.takeTrap x slotA word
        let y := (s.settle s.curCore s.curCtx).me
        let v := (s.part (s.partOf s.curCore)).vector
        (s.curCtx < 11 → s.me.ih = false → ∀ a, v = some a → y.regs.full.getLsbD 54 = true → y.regs.full.getLsbD 55 = true →
            t.issue = .trapped ∧ Entered s t s.curCore s.curCtx y a (if x.after then s.me.pc + 8 else s.me.pc)
              (causeWord y x.code x.reason x.reg 0 slotA false) x.addr s.me.pc (if x.code = 1 then word.setWidth 64 else x.arg))
          ∧ (s.curCtx < 11 → s.me.ih = false → v ≠ none → ¬(y.regs.full.getLsbD 54 = true ∧ y.regs.full.getLsbD 55 = true) →
            t = waits (s.setMe { s.me with grant := some (.trapping
              ⟨x.code, x.reason, x.reg, slotA, x.addr, s.me.pc, if x.code = 1 then word.setWidth 64 else x.arg,
                if x.after then s.me.pc + 8 else s.me.pc⟩) }))
          ∧ (∀ l a, s.me.grant = some (.trapping l) → v = some a → y.regs.full.getLsbD 54 = true → y.regs.full.getLsbD 55 = true →
            ∃ u, s.runBundle = .next u ∧ u.issue = .trapped ∧ Entered s u s.curCore s.curCtx y a l.saved
              (causeWord y l.code l.reason l.reg 0 l.slotA false) l.addr l.pcx l.arg)
          ∧ (s.curCtx < 11 → s.me.live = true → s.me.ih = true ∨ v = none → t.issue = .trapped ∧ t.me.live = false)
          ∧ (11 ≤ s.curCtx → s.curCtx ≤ 13 → s.myCore.seqs.length = 3 → t.issue = .trapped ∧ t.me.live = false
            ∧ ((t.core s.curCore).seq (s.curCtx - 11)).mailbox = .fault))
      ∧ (∀ (n k : Nat) (p : PendTrap) (a : Word), let x := s.ctx n k
        let y := (s.settle n k).ctx n k
        (s.part (s.partOf n)).paused = false → x.live = true → x.ih = false → k < 11 → x.completesFirst = false → x.wait ≠ some .away →
        firstPend x.pend = some p → (s.part (s.partOf n)).vector = some a → y.regs.full.getLsbD 54 = true → y.regs.full.getLsbD 55 = true →
          ∃ t, exec (.trapDelivery n k) s = .next t ∧ (t.ctx n k).pend = x.pend.erase p
            ∧ Entered s t n k y a x.pc (causeWord y p.code p.reason 0 p.idx false true) p.addr p.pcx p.arg)
      ∧ (∀ n e, e < 3 → (s.ctx n (11 + e)).live = true → (s.ctx n (11 + e)).pend ≠ [] → (s.core n).seqs.length = 3 →
        ∃ t, exec (.sequencerFault n e) s = .next t ∧ (t.ctx n (11 + e)).live = false ∧ ((t.core n).seq e).mailbox = .fault)

/-- R300, R364: TRET, in a handler whose stores are performed, returns: w54 and w55 come back from slots 72 and 73 with their poison, the
program counter from slot 64, slots 68 to 71 into the set (of the cause word the bits 29:0, R360), and IH is 0; a slot 64 that is no multiple of 8 ends the context. TRET.TERM and
TRET.TERMALL first terminate the group that a names, on the core or wherever the launch has reached; where that is the context's own, the
context ends. In a pod TRET.TERMALL first has the other packages terminate it: that one message tells them, and that one notice brings their
acknowledgement, is the model's choice (log 40). Outside a handler they raise the illegal-instruction trap with reason 6. -/
def Obligations.TrapReturns : Prop :=
  ∀ (s : State) (o : CROps), s.me.ih = true → s.myCore.storesOut s.curCtx = false →
    let n := s.curCore
    let k := s.curCtx
    let at_ := fun (s : State) => s.slotWord n s.me.wp.toNat
    let returned := fun (s t : State) => t.me.pc = at_ s 64 ∧ t.me.npc = at_ s 64 ∧ t.me.ih = false ∧ t.me.regs.w[54] = at_ s 72 ∧ t.me.regs.w[55] = at_ s 73
      ∧ t.me.regs.psn.getLsbD 54 = (at_ s 68).getLsbD 18 ∧ t.me.regs.psn.getLsbD 55 = (at_ s 68).getLsbD 19 ∧ SameRegs s.me t.me [54, 55]
      ∧ t.me.cause = at_ s 68 &&& 0x3FFFFFFF ∧ t.me.taddr = at_ s 69 ∧ t.me.pcx = at_ s 70 ∧ t.me.targ = at_ s 71
    (Issues (.tret o) s → ∃ t, Gives (.tret o) s t
        ∧ ((at_ s 64).toNat % 8 = 0 → returned s t) ∧ ((at_ s 64).toNat % 8 ≠ 0 → t.me.live = false)
        ∧ ((at_ s 64).toNat % 8 = 0 → (at_ s 68).toNat % 256 ≠ 11 → SameBytes s t))
      ∧ (∀ all : Bool, let i := if all then Instr.tretTermall o else Instr.tretTerm o
        let g := (valsOf i s).a.setWidth 16
        let s1 := s.endWait.terminate (if all then n :: (s.reached s.me.launch).filter (· != n) else [n]) g
        Issues i s →
          (all = false ∨ s.pack.inPod = false ∨ s.me.grant = some .done → ∃ t, Gives i s t
            ∧ (∀ j, (s.ctx n j).group = g → (t.ctx n j).live = false) ∧ (s.me.group ≠ g → (at_ s1 64).toNat % 8 = 0 → returned s1 t))
          ∧ (all = true → s.pack.inPod = true → s.me.grant ≠ some .done → ∃ t, exec i s = .next (waits t) ∧ SameBytes s t ∧ SameRegisters s t
            ∧ t.out = s.out ++ [.terminate g (s.part (s.partOf n)).pkey] ∧ t.me.wait = some .terminate))
      ∧ (s.me.live = true → s.me.wait = some .terminate →
        exec (.migrationNotice ⟨n, k, .terminated⟩) s = .next (s.setMe { s.me with wait := none, grant := some .done }))
      ∧ (∀ i s', i = .tret o ∨ i = .tretTerm o ∨ i = .tretTermall o → Issues i s' → s'.me.ih = false → Traps i s' { code := 1, reason := 6 })

/-- R70–R78, R306: INVPG, INVAS and INVALL need ASCR.TC; with the context's stores done they take effect: every covered entry of the partition
leaves every TLB and the ingress translation unit, every other stays, and one acknowledgement more is owed. TLBSYNC goes on once none is;
INVALIDATION_ACKNOWLEDGE takes the oldest away once no photo-finish unit holds a write for it but for tasks that wait behind the issuer's own,
which are condemned. DISCARD marks its pages DSC, drops D, and completes with its acknowledgement. That the entries leave and the pages are
marked at issue, the acknowledgement coming later, is the model's choice (log 37). A table walk translates for a live context, or its fault leaves everything as it was. -/
def Obligations.InvalidationsTakeEffect : Prop :=
  ∀ (s : State) (o : CXOps), Inv s →
    (∀ f : Instr × Inval × (TlbEntry → Prop), let own := ascrAsid s.myCore.regs.ascr
        (∃ va, s.place s.who (valsOf (.invpg o) s).a 1 = some (.flat va)
          ∧ f = (.invpg o, .page va own, fun e => e.base ≤ va ∧ va < e.base + e.size ∧ (e.glob = true ∨ e.asid = own)))
          ∨ (let x := (valsOf (.invas o) s).a.setWidth 15; f = (.invas o, .space x, fun e => e.glob = false ∧ e.asid = x))
          ∨ f = (.invall o, .all, fun _ => True) →
        Issues f.1 s →
          (ascrTc s.myCore.regs.ascr = false → Traps f.1 s { code := 1, reason := 6 })
            ∧ (ascrTc s.myCore.regs.ascr = true → s.irrevocable = some s → s.storesDone s.curCore s.curCtx = true →
              let gone := fun (e : TlbEntry) => e.part = s.partOf s.curCore ∧ f.2.2 e
              ∃ t, Gives f.1 s t ∧ SameRegisters s t ∧ OnlyWritesBack s t ∧ t.me.invals = s.me.invals ++ [f.2.1]
                ∧ ∀ n e, (e ∈ (t.core n).dtlb ↔ e ∈ (s.core n).dtlb ∧ ¬gone e) ∧ (e ∈ (t.core n).itlb ↔ e ∈ (s.core n).itlb ∧ ¬gone e)
                  ∧ (e ∈ (t.cluster n).l2tlb ↔ e ∈ (s.cluster n).l2tlb ∧ ¬gone e) ∧ (e ∈ t.pack.itu ↔ e ∈ s.pack.itu ∧ ¬gone e)))
      ∧ (Issues (.tlbsync o) s → (s.me.invals = [] → Gives (.tlbsync o) s s) ∧ (s.me.invals ≠ [] → Sleeps (.tlbsync o) s .inval))
      ∧ (∀ n k v rest, let x := s.ctx n k
        x.invals = v :: rest → (∀ q ∈ s.clusters, ∀ u ∈ q.2.pfu, s.holdsFor (s.partOf n) v u = false) →
          exec (.invalidationAcknowledge n k) s = .next (s.setCtx n k { x with
            invals := rest, wait := if rest = [] ∧ x.wait = some .inval then none else x.wait }))
      ∧ (∀ n k v rest, (s.ctx n k).invals = v :: rest →
        (∀ q ∈ s.clusters, ∀ u ∈ q.2.pfu, s.holdsFor (s.partOf n) v u = true → s.waitsBehind n k q.1 u = true) →
          ∃ t, exec (.invalidationAcknowledge n k) s = .next t ∧ (t.ctx n k).invals = rest ∧ SameBytes s t ∧ SameRegisters s t
            ∧ ∀ q ∈ t.clusters, ∀ u ∈ q.2.pfu, s.holdsFor (s.partOf n) v u = true → u.doomed = true)
      ∧ (Issues (.discard o) s → let a := (valsOf (.discard o) s).a
        let m := (valsOf (.discard o) s).d.toNat
        (∀ va, s.place s.who a 1 = some (.flat va) →
          (va % 49152 ≠ 0 → Traps (.discard o) s { code := 5, addr := a })
            ∧ (va % 49152 = 0 → m = 0 ∨ 64 < m → Traps (.discard o) s { code := 1, reason := 6 })
            ∧ (va % 49152 = 0 → 0 < m → m ≤ 64 →
              (s.me.discarded = some s.me.pc →
                (s.me.invals = [] → Gives (.discard o) s (s.setMe { s.me with discarded := none })) ∧ (s.me.invals ≠ [] → Sleeps (.discard o) s .inval))
              ∧ (s.me.discarded ≠ some s.me.pc → s.irrevocable = some s → s.storesDone s.curCore s.curCtx = true → m = 1 → va + 49152 ≤ vaLimit →
                lowOf a = va → ∀ l : Leaf, (s.syncL1 (clusterOf s.curCore) .package).discardLeaf va = .ok l →
                  (l.pa + 8 ≤ eFrame l.entry ∨ eFrame l.entry + 49152 ≤ l.pa) →
                  ∃ t, exec (.discard o) s = .next (waits t) ∧ SameRegisters s t ∧ t.me.discarded = some s.me.pc 
                    ∧ t.me.invals = s.me.invals ++ [.pages va 49152 (ascrAsid s.myCore.regs.ascr)] ∧ t.me.wait = some .inval ∧ t.natAt l.pa 8 = ((l.entry &&& ~~~0x100) ||| 0x200).toNat))))
      ∧ (∀ n k va kind a, (s.ctx n k).live = true → s.place ((s.ctx n k).who n) va 1 = some (.flat a) →
        let acc : Acc := match kind with | .read => .read | .write => .write | .fetch => .fetch | .leg => .leg
        (∀ tr s1, s.translate n a acc .cluster = .ok (tr, s1) → exec (.tableWalk n k va kind) s = .next s1 ∧ SameRegisters s s1)
          ∧ ∀ e, s.translate n a acc .cluster = .error e → exec (.tableWalk n k va kind) s = .next s)

/-- R366, R373, R381: SWCALL places its call and completes, with the status in d, once Infield has answered; a pointer that names no call
block of the core's own scratchpad at a multiple of 16 raises the address trap. The events SETVEC to STEPINFO answer the first call of their
function: 2 where functions 1 to 3 lack ASCR.TC, 3 for a reserved byte or a bad argument, 0 with the effect; an unknown function is answered 1.
That a reissued SWCALL finds its call by bundle, IH and block is the model's choice (log 24). WATCHDOG_EXPIRY puts the steward in reset;
INFIELD_RESTART ends that, answers the unknown functions that have waited, and takes up the loss of a core. -/
def Obligations.StewardAnswersCalls : Prop :=
  ∀ s : State, Inv s →
    (∀ o : CXOps, Issues (.swcall o) s →
        (s.callBlock (valsOf (.swcall o) s).a = none → Traps (.swcall o) s { code := 5, addr := (valsOf (.swcall o) s).a })
          ∧ ∀ b, s.callBlock (valsOf (.swcall o) s).a = some b →
            let mine := fun (c : Call) => c.pc = s.me.pc ∧ c.ih = s.me.ih ∧ c.block = b
            ((∀ c ∈ s.me.calls, ¬mine c) → s.storesDone s.curCore s.curCtx = true →
              ∃ t c, exec (.swcall o) s = .next (waits t) ∧ SameRegisters s t ∧ t.me.calls = s.me.calls ++ [c] ∧ mine c
                ∧ c.func = (t.byteAt b).toNat ∧ c.args = ((List.range 6).map fun i => BitVec.ofNat 64 (t.natAt (b + 8 + 8 * i) 8))
                ∧ c.answer = (if s.pack.steward.up = true ∧ (c.func = 0 ∨ 6 < c.func) then some 1 else none)
                ∧ (c.answer = none → t.me.wait = some .call))
            ∧ (∀ l c r, s.me.calls = l ++ c :: r → (∀ d ∈ l, ¬mine d) → mine c →
              (c.answer = none → Sleeps (.swcall o) s .call)
                ∧ (∀ a, c.answer = some a → ∃ t : State, Gives (.swcall o) s (t.setReg o.d.toNat (BitVec.ofNat 64 a)) ∧ SameRegisters s t ∧ OnlyWritesBack s t
                  ∧ t.me.wait = none ∧ ∀ d ∈ t.me.calls, ¬mine d)))
      ∧ (∀ (n k : Nat) (c : Call), s.pack.steward.up = true → (s.ctx n k).live = true →
        let first := fun f : Nat => (s.ctx n k).calls.find? (fun d => d.func == f && d.answer.isNone) = some c
        let x := s.part (s.partOf n)
        let answers := fun (i : Instr) (a : Nat) (q : State → Prop) =>
          ∃ t, exec i s = .next t ∧ { c with answer := some a } ∈ (t.ctx n k).calls ∧ q t
        let keeps := fun t : State => t.pack.parts = s.pack.parts
        let a0 := (c.args[0]?).getD 0
        let a1 := (c.args[1]?).getD 0
        let cl := a1.toNat % 2 ^ 6
        let m := a1.toNat / 2 ^ 8 % 2 ^ 5
        let tc := ascrTc (s.core n).regs.ascr
        (∀ f i, (f, i) ∈ [(1, Instr.setvec n k), (2, .setfsvc n k), (3, .eventq n k)] → first f → tc = false → answers i 2 keeps)
          ∧ (∀ f i, (f, i) ∈ [(1, Instr.setvec n k), (2, .setfsvc n k), (3, .eventq n k)] → first f → tc = true → c.resvOk = false → answers i 3 keeps)
          ∧ (∀ f i, (f, i) ∈ [(4, Instr.resumefault n k), (5, .failfault n k), (6, .stepinfo n k)] → first f → c.resvOk = false → answers i 3 keeps)
          ∧ (c.resvOk = true →
            (tc = true → first 1 → (a0 = 0 → answers (.setvec n k) 0 fun t => (t.part (s.partOf n)).vector = none)
              ∧ (a0 ≠ 0 → s.handlerOk n a0 = true → answers (.setvec n k) 0 fun t => (t.part (s.partOf n)).vector = some a0)
              ∧ (a0 ≠ 0 → s.handlerOk n a0 = false → answers (.setvec n k) 3 keeps))
            ∧ (tc = true → first 2 → (a0 = 0 → answers (.setfsvc n k) 0 fun t => (t.part (s.partOf n)).fsvc = none)
              ∧ (a0 ≠ 0 → s.handlerOk n a0 = true → a1 = BitVec.ofNat 64 (m * 256 + cl) → cl < 50 → m < 24 →
                (s.cluster cl).owner = some (s.partOf n) → answers (.setfsvc n k) 0 fun t => (t.part (s.partOf n)).fsvc = some (24 * cl + m, a0))
              ∧ (a0 ≠ 0 → s.handlerOk n a0 = false → answers (.setfsvc n k) 3 keeps))
            ∧ (tc = true → first 3 → (a0 = 0 → answers (.eventq n k) 0 fun t => (t.part (s.partOf n)).eventq = none)
              ∧ (∀ pa, a0 ≠ 0 → s.queuePa n a0 = some pa → answers (.eventq n k) 0 fun t => (t.part (s.partOf n)).eventq = some pa)
              ∧ (a0 ≠ 0 → s.queuePa n a0 = none → answers (.eventq n k) 3 keeps))
            ∧ (first 4 → (s.openFault n a0 = none → answers (.resumefault n k) 3 keeps)
              ∧ (∀ d, s.openFault n a0 = some d → answers (.resumefault n k) 0 fun _ => True))
            ∧ (first 5 → (s.openFault n a0 = none → answers (.failfault n k) 3 keeps)
              ∧ (∀ d, s.openFault n a0 = some d → answers (.failfault n k) 0 fun t => ∀ e ∈ t.pack.deferred, e.fid ≠ d.fid))
            ∧ (first 6 → answers (.stepinfo n k) 0 fun t => t.natAt (c.block + 56) 8 = x.quantum % 2 ^ 64 ∧ SameBytesBut s t (c.block + 56) 8)))
      ∧ (s.pack.steward.up = true → exec .watchdogExpiry s = .next { s with pack := { s.pack with steward := { s.pack.steward with up := false } } })
      ∧ (s.pack.steward.up = false → ∃ t, exec .infieldRestart s = .next t ∧ t.pack.steward.up = true
        ∧ (s.pack.steward.journal = [] → SameRegisters s t ∧ SameBytes s t ∧ t.pack.steward = { s.pack.steward with up := true }
          ∧ ∀ n k, ∀ c ∈ (s.ctx n k).calls, c.answer = none → c.func = 0 ∨ 6 < c.func → { c with answer := some 1 } ∈ (t.ctx n k).calls)
        ∧ ∀ n p gs, n < 1200 → s.pack.steward.journal = [.loss n p gs] → let spare := (s.cluster (clusterOf n)).spareUsed
          (spare = none → (t.core n).lost = false ∧ (t.cluster (clusterOf n)).spareUsed = some (indexOf n))
            ∧ (spare ≠ none → (t.cluster (clusterOf n)).withheld = true))

/-! ## Homes, planes, other packages, the host, power and boot -/

/-- R56–R63, R105, R106, R117–R119, R312, R313: the events of home slices, scratchpads, the expander, main memory and the planes. An access
at its home or port performs a write of its bytes and of no other; a slice that does not serve the bucket answers "moved", and the request
is resent by the map then current. An uncorrectable error marks the sector in HBM. Retiring slices pass their buckets to live slices, and,
once they hold no dirty sector, the new map stands in every cluster and accesses held for it go on. Planes power on and off, and leave the
set, by R313. That a scrub period begins at the channel's first sector is the model's choice (log 4), and so is that planes power on and off
without the thresholds of R312 (log 44). -/
def Obligations.HomesPlanesAndPortsServe : Prop :=
  ∀ s : State, Inv s →
    let sized := fun q : PortOp => q.size = 1 ∨ q.size = 2 ∨ q.size = 4 ∨ q.size = 8
    let done_ := fun (q : PortOp) (k : Nat) (t : State) =>
      if q.write then SameBytesBut s t k q.size ∧ t.natAt k q.size = q.value.toNat % 256 ^ q.size
      else SameBytes s t ∧ (q.err = .uncorrectable → s.sliceHolds k = none → t.poisonedAt k 1 = true)
    (∀ (n pa : Nat) (q : PortOp), n < 1200 → sized q → pa % q.size = 0 → pa + q.size ≤ backedEnd → s.lineHeld n pa = false →
        let h := homeSlice (s.cluster (clusterOf n)).sliceMap (bucketOf pa)
        (s.servedFrom (clusterOf n) h (bucketOf pa) = true →
            ∃ t, exec (.sliceRequest n pa q) s = .next t ∧ (CachesAgree s → done_ q pa t) ∧ SameRegisters s t)
          ∧ (s.servedFrom (clusterOf n) h (bucketOf pa) = false → ∃ t, exec (.sliceRequest n pa q) s = .next t ∧ SameBytes s t
            ∧ (t.core n).moved = (s.core n).moved ++ [⟨pa, q, (s.slice h).gen⟩]))
      ∧ (∀ (n : Nat) (m : Moved) (l : List Moved), (s.core n).moved = m :: l →
        let map := if (s.cluster (clusterOf n)).sliceGen < m.gen then s.pack.map else (s.cluster (clusterOf n)).sliceMap
        let h := homeSlice map (bucketOf m.pa)
        ∃ t, exec (.movedAnswer n) s = .next t
          ∧ (t.core n).moved = (if s.servedFrom (clusterOf n) h (bucketOf m.pa) then l else { m with gen := (s.slice h).gen } :: l))
      ∧ (∀ (n off : Nat) (q : PortOp), n < 1200 → sized q → off % q.size = 0 → off + q.size ≤ 524288 →
        (q.write = true → NoActiveSlot s (spKey n off) q.size) → ∃ t, exec (.scratchpadAccess n off q) s = .next t ∧ done_ q (spKey n off) t ∧ SameRegisters s t)
      ∧ (∀ (c off : Nat) (q : PortOp), c < 50 → sized q → off % q.size = 0 → off + q.size ≤ 33552384 →
        ∃ t, exec (.expanderAccess c off q) s = .next t ∧ SameRegisters s t
          ∧ (q.write = true → SameBytesBut s t (cmKey c off) q.size ∧ t.natAt (cmKey c off) q.size = q.value.toNat % 256 ^ q.size)
          ∧ (q.write = false → SameBytes s t))
      ∧ (∀ c, c < 50 → ∃ t, exec (.packCompaction c) s = .next t ∧ SameBytes s t ∧ SameRegisters s t)
      ∧ (∀ n, n * 48 < backedEnd → let ch := channelOf (n * 48)
        let row := rowOf (n * 48)
        let kept := (s.channel ch).rowErrors.filter fun e => decide (3 ≤ e.2)
        (channelOffset (n * 48) ≠ 0 → exec (.patrolScrub n .none) s = .next s)
        ∧ (channelOffset (n * 48) = 0 → ∃ t, exec (.patrolScrub n .none) s = .next t ∧ SameBytes s t ∧ (t.channel ch).rowErrors = kept)
        ∧ (∃ t, exec (.patrolScrub n .corrected) s = .next t ∧ SameBytes s t ∧ (t.channel ch).corrected = (s.channel ch).corrected + 1
          ∧ tabGetD (t.channel ch).rowErrors row 0 = tabGetD (if channelOffset (n * 48) = 0 then kept else (s.channel ch).rowErrors) row 0 + 1)
        ∧ ∃ t, exec (.patrolScrub n .uncorrectable) s = .next t ∧ SameBytes s t ∧ row ∈ (t.channel ch).bad
          ∧ (s.sliceHolds (n * 48) = none → t.poisonedAt (n * 48) 48 = true)
          ∧ ((s.sliceHolds (n * 48)).isSome → t.poison = s.poison
            ∧ ∃ e, tabGet t.pack.flines (lineOf (n * 48)) = some e ∧ e.hpsn.getLsbD (n * 48 % 192 / 48) = true))
      ∧ (∀ ch row, ch < 320 → 3 ≤ tabGetD (s.channel ch).rowErrors row 0 ∨ row ∈ (s.channel ch).bad →
        ∃ t, exec (.rowSparing ch row) s = .next t ∧ row ∉ (t.channel ch).bad
          ∧ ((s.channel ch).used < Config.spareRows ch → (t.channel ch).used = (s.channel ch).used + 1 ∧ (row, (s.channel ch).used) ∈ (t.channel ch).remapped))
      ∧ (∀ h, h < 50 → s.pack.slices.length = 50 → s.pack.map.length = 50 → s.pack.steward.up = true → (∀ x ∈ s.pack.slices, x.state ≠ .flushing) →
        (s.slice h).state = .live → (∃ k < 50, k ≠ h ∧ (s.slice k).state = .live) →
          ∃ t, exec (.sliceRetirement h) s = .next t ∧ (t.slice h).state = .flushing ∧ t.holdsDirty h = false
            ∧ ∀ b < 50, homeSlice s.pack.map b = h → ∃ k, (b, k) ∈ (t.slice h).gaining ∧ k ≠ h ∧ (s.slice k).state = .live)
      ∧ (∀ h, h < 50 → s.pack.slices.length = 50 → s.pack.steward.up = true → (s.slice h).state = .flushing → s.holdsDirty h = false →
        ∃ t, exec (.sliceMapInstall h) s = .next t ∧ (t.slice h).state = .retired ∧ t.pack.gen = (s.pack.gen + 1) % 2 ^ 32
          ∧ (∀ c < 50, (t.cluster c).sliceMap = t.pack.map ∧ (t.cluster c).sliceGen = t.pack.gen)
          ∧ ∀ n k line, (s.ctx n k).live = true → (s.ctx n k).wait = some (.carried line) →
            (tabGet (s.slice h).gaining (bucketOf (192 * line))).isSome → (t.ctx n k).wait = none)
      ∧ (let q := s.pack.planes
        let gives := fun (i : Instr) (p : Planes) => exec i s = .next { s with pack := { s.pack with planes := p } }
        ∀ n, n < 4 →
          (∀ r p, q.live.getLsbD n = true → q.on.getLsbD n = true → routerNeighbour r p ≠ none → (∀ e ∈ q.retries, e.1 / 512 = n → e.2 < 16) →
              ∀ ok, ∃ t, exec (.linkRetry n r p ok) s = .next t ∧ tabGetD t.pack.planes.retries (linkKey n r p) 0
                = (if ok then 0 else tabGetD q.retries (linkKey n r p) 0 + 1))
            ∧ (q.live.getLsbD n = true → q.broken n = true → s.pack.steward.up = true →
              ∃ t, exec (.planeRetirement n) s = .next t ∧ (∀ m < 4, t.pack.planes.live.getLsbD m = (q.live.getLsbD m && m != n))
                ∧ (q.ord ≠ n → t.pack.planes.ord = q.ord)
                ∧ (∀ m < 4, q.ord = n → q.live.getLsbD m = true → m ≠ n → (∀ j < m, q.live.getLsbD j = true → j = n) →
                    t.pack.planes.ord = m ∧ t.pack.planes.on.getLsbD m = true))
            ∧ (q.live.getLsbD n = true → q.on.getLsbD n = false → q.powering.getLsbD n = false →
              q.hold.getLsbD n = true ∨ (∀ m < n, q.live.getLsbD m = true → (∀ j, m < j → j < n → q.live.getLsbD j = false) → q.on.getLsbD m = true) →
              gives (.planePowerOn n) { q with powering := q.powering ||| (1#4 <<< n) })
            ∧ (q.powering.getLsbD n = true → gives (.planePowered n) { q with powering := q.powering &&& ~~~(1#4 <<< n), on := q.on ||| (1#4 <<< n) })
            ∧ (q.on.getLsbD n = true → n ≠ q.ord → q.hold.getLsbD n = false →
              (∀ m < 4, n < m → q.live.getLsbD m = true → q.on.getLsbD m = false ∧ q.powering.getLsbD m = false) →
              gives (.planePowerOff n) { q with on := q.on &&& ~~~(1#4 <<< n) }))

/-- R80, R137, R138, R319, R339, R343, R370–R372, R374, R375, R377–R379, R406: what reaches the package from outside, and what Infield does
to partitions. A request with another capability is contained; a notification counts; a pod-global request that translates is answered; one
that faults is served by the partition's service core, or fails. A migrated task enters a run queue or is refused. The host's accesses reach
START, DOORBELL and mapped memory. A pre-empted partition stands, a resumed one goes on, and a lost core has no live context. These are the
model's choices: the notice that a stream's words are taken (log 22), a task counted as away and its first origin kept (log 41), containment
records of pod-global requests under core 1200 (log 19), requests that wait at the unit (log 45), the frames of BAR2's pages (log 26), that
pre-emption ends every wait but a migration's and what a lost core leaves (log 25), and router 0 for what enters from other packages
(log 44). -/
def Obligations.OutsideReachesThePackage : Prop :=
  ∀ s : State, Inv s →
    let contained := fun (i : Instr) (n : Nat) (cap : BitVec 16) => exec i s = .next (s.contain n cap) ∧ SameRegisters s (s.contain n cap)
      ∧ ((s.contain n cap).core n).regs.ev = ((s.count n .contain 1).core n).regs.ev
      ∧ (s.contain n cap).pack.steward.containment = s.pack.steward.containment ++ [(n, s.partOf n, cap)]
    (∀ q : RemoteReq, q.cluster < 50 → q.core < 24 → s.pack.inPod = true →
        let n := 24 * q.cluster + (if q.kind ≠ .notify ∧ tagOf q.va = 0xF0 then min (lowOf q.va / 524288) 23 else q.core)
        let z := match Fmt.ofCode q.fmt.toNat with | some f => f.unitBytes | none => 8
        (s.accepts hubRouter n q.cap = false → contained (.remoteRequest q) n q.cap)
          ∧ (s.accepts hubRouter n q.cap = true → NoTransform s →
            (q.kind = .notify → ∀ x, (s.core n).regs.cc[q.cc % 16]? = some x → ∃ t, exec (.remoteRequest q) s = .next t
              ∧ SameBytes s t ∧ (t.core n).regs.cc[q.cc % 16]? = some ⟨x.v + 1, x.e, x.ps.max (Scope.ofCode q.scope)⟩
              ∧ t.out = s.out ++ [.answer q.srcPkg q.tag (.complete []) 0])
            ∧ (q.kind ≠ .notify → tagOf q.va = 0xF0 ∨ tagOf q.va = 0xF2 →
              exec (.remoteRequest q) s = .next (s.serveElement q)
                ∧ ∀ k norm, s.place ⟨24 * q.cluster, 0, 0, 0, []⟩ q.va z = some (.window k norm) → k < cmBase →
                  (q.kind = .get → s.poisonedAt k z = false → SameBytes s (s.serveElement q)
                    ∧ (s.serveElement q).out = s.out ++ [.answer q.srcPkg q.tag (.complete []) (BitVec.ofNat 64 (s.natAt k z))])
                  ∧ (q.kind = .put → NoActiveSlot s k z → OnlyWritesBackBut s (s.serveElement q) k z
                    ∧ (s.serveElement q).natAt k z = q.value.toNat % 256 ^ z
                    ∧ (s.serveElement q).out = s.out ++ [.answer q.srcPkg q.tag (.complete []) 0]))))
      ∧ (∀ q : IngressReq, s.pack.inPod = true → q.kind ≠ .notify →
        let gives := fun t => exec (.ingressRequest q) s = .next t
        let diverted := fun (n : Nat) (t : State) => gives t ∧ SameRegisters s t ∧ t.pack.steward.containment = s.pack.steward.containment ++ [(1200, n, q.cap)]
        let waiting := gives { s with pack := { s.pack with waiting := s.pack.waiting ++ [q] } }
        (tabGet s.pack.podSpaces q.pas = none → ∃ t, diverted 8 t ∧ SameBytes s t)
          ∧ (∀ e, tabGet s.pack.podSpaces q.pas = some e →
            ((s.part e.part).pkey ≠ q.cap → ∃ t, diverted e.part t)
            ∧ ((s.part e.part).pkey = q.cap → s.ingressHeld s.pack.waiting q = true → waiting)
            ∧ ((s.part e.part).pkey = q.cap → s.ingressHeld s.pack.waiting q = false →
              (∀ a v s1, s.ingressServe e q = .answer a v s1 → gives (s1.emit (.answer q.srcPkg q.tag a v)))
              ∧ (∀ code, s.ingressServe e q = .fault code → s.servesFaults e.part = false → gives (s.emit (.answer q.srcPkg q.tag .failed 0)))
              ∧ (∀ code n h, s.ingressServe e q = .fault code → s.servesFaults e.part = true → (s.part e.part).fsvc = some (n, h) →
                (s.pack.steward.up = false ∨ s.freeFid = none ∨ 64 ≤ (s.core n).runq.length → waiting)
                ∧ (∀ fid, s.pack.steward.up = true → s.freeFid = some fid → (s.core n).runq.length < 64 →
                  ∃ t r, gives t ∧ SameBytes s t ∧ t.out = s.out ++ [.deferred q.srcPkg q.tag] ∧ t.pack.deferred = s.pack.deferred ++ [⟨fid, e.part, q, code⟩]
                    ∧ (t.core n).runq = (s.core n).runq ++ [r] ∧ r.task.pc = h ∧ r.task.p0 = BitVec.ofNat 64 fid
                    ∧ r.task.p1 = BitVec.ofNat 64 (lowOf q.va))))))
      ∧ (∀ m : Migration, s.pack.inPod = true → m.cluster < 50 → m.core < 24 → 1 ≤ m.psize → m.psize ≤ 8 → m.bytes.length = 512 + 512 * m.psize →
        let gives := fun t => exec (.migrationArrival m) s = .next t
        (s.partOfKey m.cap = none → contained (.migrationArrival m) (24 * m.cluster + m.core) m.cap)
          ∧ (∀ p, s.partOfKey m.cap = some p → (s.cluster m.cluster).owner = some p → let n := 24 * m.cluster + m.core
            ((s.core n).launch = none ∨ (s.core n).tpsize < m.psize → gives (s.emit (.notice m.srcPkg m.tag .refused)))
            ∧ ((s.core n).launch.isSome → m.psize ≤ (s.core n).tpsize → (s.core n).runq.length < 64 →
              ∃ t r, gives t ∧ SameBytes s t ∧ (t.core n).runq = (s.core n).runq ++ [r] ∧ r.pri = m.pri % 4
                ∧ r.task.launch = none ∧ r.task.group = m.group
                ∧ r.migrated = some ⟨m.bytes, m.psize, m.srcPkg, m.tag, m.origin.getD ⟨m.srcPkg, m.tag, m.launch⟩⟩)))
      ∧ (∀ n k, let x := s.ctx n k
        (x.live = true → x.wait = some .away →
            (∃ t, exec (.migrationNotice ⟨n, k, .accepted⟩) s = .next t ∧ (t.ctx n k).live = false ∧ (x.pend = [] → SameBytes s t)
              ∧ (x.origin ≠ none → t.pack.launches = s.pack.launches)
              ∧ ∀ id l, x.origin = none → x.launch = some id → tabGet s.pack.launches id = some l →
                (tabGet t.pack.launches id).map (·.away) = some (l.away + 1))
            ∧ exec (.migrationNotice ⟨n, k, .refused⟩) s = .next (s.setCtx n k { x with wait := none, grant := some .refused }))
          ∧ ∀ o, ∃ t, exec (.migrationNotice ⟨n, k, .ended o⟩) s = .next t ∧ SameBytes s t ∧ SameRegisters s t
            ∧ ∀ id l, (o = some id ∨ (o = none ∧ (s.core n).launch = some id)) → tabGet s.pack.launches id = some l →
              (tabGet t.pack.launches id).map (·.away) = some (l.away - 1))
      ∧ (∀ n k x r, (s.core n).eng.vq = x :: r → x.op = 0x60 → x.status = .running → streamAway ∈ x.sent →
        exec (.migrationNotice ⟨n, k, .taken⟩) s = .next (s.setCmd n .vector { x with sent := [streamSent], payload := [] }))
      ∧ (∀ p, let x := s.part p
        x.live = true →
          (∀ v : Word, exec (.doorbell p v) s = .next (s.setPart p { x with doorbell := x.doorbell ||| v.setWidth 16 }))
            ∧ (∀ v : Word, let i := v.toNat % 64
              (i ∈ x.busy → exec (.startRegister p v) s = .next (s.setPart p { x with dropped := min (x.dropped + 1) (2 ^ 32 - 1) }))
              ∧ (i ∉ x.busy → ∃ t l, exec (.startRegister p v) s = .next t ∧ SameBytes s t ∧ i ∈ (t.part p).busy
                ∧ (t.part p).starts = x.starts ++ [s.pack.nextLaunch] ∧ tabGet t.pack.launches s.pack.nextLaunch = some l
                ∧ l.entry = some i ∧ l.status = x.sqbase + 128 * i + 88 ∧ l.part = p))
            ∧ (∀ (off : Nat) (bs : List Byte), bs ≠ [] →
              (∀ pa, s.barPlaces p off bs.length = some ((List.range bs.length).map (pa + ·)) →
                ∃ t, exec (.hostBarWrite p 2 off bs) s = .next t ∧ SameRegisters s t
                  ∧ (CachesAgree s → SameBytesBut s t pa bs.length ∧ t.bytesAt pa bs.length = bs
                    ∧ (pa % 48 = 0 → bs.length = 48 → t.poisonedAt pa 48 = false)))
              ∧ (s.barPlaces p off bs.length = none → exec (.hostBarWrite p 2 off bs) s = .next (s.emit (.unsupported p)))
              ∧ (off % 8 + bs.length ≤ 8 → off + bs.length ≤ 65536 → exec (.hostBarWrite p 0 off bs) s = .next
                ((s.writeReg p (off / 8 * 8) (BitVec.ofNat 64 (bytesToNat bs * 256 ^ (off % 8)))).getD (s.emit (.unsupported p)))))
            ∧ (∀ off n, 0 < n →
              (∀ l, s.barPlaces p off n = some l → (∀ pa ∈ l, s.poisonedAt pa 1 = false) →
                ∃ t, exec (.hostBarRead p 2 off n) s = .next t ∧ t.out = s.out ++ [.hostRead p (l.map s.byteAt)] ∧ SameRegisters s t
                  ∧ (CachesAgree s → SameBytes s t))
              ∧ (s.barPlaces p off n = none → exec (.hostBarRead p 2 off n) s = .next (s.emit (.unsupported p))))
            ∧ (∀ off n, 0 < n → off % 8 + n ≤ 8 → off + n ≤ 65536 → exec (.hostBarRead p 0 off n) s = .next (s.emit
              (match s.readReg p (off / 8 * 8) with | some v => .hostRead p (natBytes (v / 256 ^ (off % 8)) n) | none => .unsupported p)))
            ∧ (∃ t, exec (.functionLevelReset p) s = .next t ∧ (t.part p).starts = [] ∧ (t.part p).busy = []
              ∧ (∀ l ∈ t.pack.launches, l.2.part ≠ p)
              ∧ (∀ v, (t.part p).saved = some v → (∀ e ∈ v.cores, ∀ q ∈ e.2.ctxs, q.2.live = false) ∧ ∀ e ∈ v.mem, accBase ≤ e.1)
              ∧ (CachesAgree s → ∀ i < 64, t.natAt (x.sqbase + 128 * i + 88) 8 = 0))
            ∧ (x.paused = false → s.pack.steward.up = true →
              (∀ n, clusterOf n < 50 → (s.cluster (clusterOf n)).owner = some p → (s.core n).moved = [] ∧ ∀ c ∈ (s.core n).eng.vq, c.streaming = false) →
                ∃ t, exec (.preemption p) s = .next t ∧ (t.part p).paused = true
              ∧ ∀ n k, clusterOf n < 50 → (s.cluster (clusterOf n)).owner = some p → (t.ctx n k).live = true → (t.ctx n k).wait = none ∨ (t.ctx n k).wait = some .away)
            ∧ (x.paused = true → s.pack.steward.up = true → (∀ c ∈ x.clusters, ∀ q, (s.cluster c).owner = some q → q = p ∨ (s.part q).paused = true) →
              ∃ t, exec (.partitionResume p) s = .next t ∧ (t.part p).paused = false
                ∧ ∀ c ∈ x.clusters, (s.cluster c).withheld = false → (t.cluster c).owner = some p))
      ∧ (∀ p n h, let x := s.part p
        x.fsvc = some (n, h) → x.doorbell ≠ 0 → (s.cluster (clusterOf n)).owner = some p → (s.core n).launch.isSome →
        (s.core n).runq.length < 64 →
          ∃ t r, exec (.doorbellPosting p) s = .next t ∧ (t.part p).doorbell = 0 ∧ (t.core n).runq = (s.core n).runq ++ [r] ∧ r.task.pc = h
            ∧ r.task.p0 = x.doorbell.setWidth 64 ∧ r.pri = 0)
      ∧ (∀ n, n < 1200 → (s.core n).lost = false → (s.cluster (clusterOf n)).withheld = false →
        ∃ t, exec (.coreLoss n) s = .next t ∧ (∀ k, (t.ctx n k).live = false) ∧ let spare := (s.cluster (clusterOf n)).spareUsed
          (s.pack.steward.up = false → (t.core n).lost = true
              ∧ .loss n (s.partOf n) (s.core n).liveGroups ∈ t.pack.steward.journal)
            ∧ (s.pack.steward.up = true → spare = none →
              (t.core n).lost = false ∧ (t.cluster (clusterOf n)).spareUsed = some (indexOf n))
            ∧ (s.pack.steward.up = true → spare ≠ none → (t.core n).lost = true ∧ (t.cluster (clusterOf n)).withheld = true))

/-- R309, R313, R377, R380, R382–R386: package reset boots the package: no context is live, and board flash has the next boot number; the
loss of power leaves board flash alone. The power manager chooses each compute island's operating point from its largest PACE, the thermal
limit takes it one lower, and shutdown stops every island with a failed step 7 in the journal. A steward write sets PLCTL's HOLD, a routing table's entry, a HUBSEL,
a slice's world bit or a free region's, a core's ASCR with SEC as its cluster has it, or a channel's metadata; one to a read-only register
is ignored. An image that fails a check loads nothing, and BOOTSTAT shows 3 and step 9; one that passes is started. These are the model's
choices: main memory is empty after reset and loss of power (log 1, log 26), an image is started by the partition's start queue (log 26),
table entries and HUBSEL are kept modulo 64 and 8, and PLCTL's other fields are ignored (log 14). -/
def Obligations.PowerAndBootEventsComeAbout : Prop :=
  ∀ s : State,
    (∀ i : BootInput, ∃ t, exec (.packageReset i) s = .next t ∧ (∀ n k, (t.ctx n k).live = false) ∧ (i.images = [] → t.mem = [])
        ∧ t.pack.flash.boot = s.pack.flash.boot + 1 ∧ t.pack.pkg = i.pkg)
      ∧ (∃ t, exec (.powerLoss none none) s = .next t ∧ t.pack.flash = s.pack.flash ∧ t.mem = [] ∧ t.cores = [] ∧ t.clusters = [])
      ∧ (let q := s.pack.power
        q.islands.length = 16 →
          let steered := fun (t : State) (limited : Bool) (choice : Nat → Nat) => ∀ i, i < 15 → i % 3 ≠ 2 →
            (t.island i).mhz = (s.island i).mhz ∧ (t.island i).chosen = choice i
              ∧ (t.island i).changing = ((s.island i).changing || (s.island i).mhz != (if limited then oneLower (choice i) else choice i))
          (q.tickAt < s.cycle / 6400 → ∃ t, exec .powerManagerTick s = .next t ∧ t.pack.power.tickAt = s.cycle / 6400
              ∧ steered t q.limited fun i => clockFor (s.islandPace i))
            ∧ (q.limited = false → ∃ t, exec .thermalLimit s = .next t ∧ t.pack.power.limited = true ∧ steered t true fun i => (s.island i).chosen)
            ∧ (q.limited = true → ∃ t, exec .thermalLimitLift s = .next t ∧ t.pack.power.limited = false ∧ steered t false fun i => (s.island i).chosen)
            ∧ (∀ i < 16, (s.island i).changing = true → ∃ t, exec (.operatingPointChangeEnd i) s = .next t
              ∧ (t.island i).mhz = (if q.limited then oneLower (s.island i).chosen else (s.island i).chosen) ∧ (t.island i).changing = false
              ∧ ∀ j, j ≠ i → t.island j = s.island j))
      ∧ (s.pack.power.stopped = false → ∃ t, exec .thermalShutdown s = .next t ∧ t.pack.power.stopped = true
        ∧ t.pack.flash.journal = ⟨7, 0, 2, 115, s.pack.flash.boot⟩ :: s.pack.flash.journal)
      ∧ (∀ v, s.pack.steward.up = true →
        let sets := fun (g : WindowReg) (t : State) => exec (.registerWrite g v) s = .next t
        sets .plctl { s with pack := { s.pack with planes := { s.pack.planes with hold := v.setWidth 4 } } }
          ∧ (∀ r d, r < 50 → d < 50 → ∃ t, sets (.route r d) t ∧ tabGet t.pack.routes (50 * r + d) = some (BitVec.ofNat 8 (v.toNat % 64)))
          ∧ (∀ r, r < 50 → ∃ t, sets (.hubsel r) t ∧ tabGet t.pack.hubsel r = some (BitVec.ofNat 8 (v.toNat % 8)))
          ∧ (∀ h, h < 50 → s.pack.slices.length = 50 → ∃ t, sets (.sliceWorld h) t ∧ (t.slice h).secure = v.getLsbD 0)
          ∧ (∀ pa, regionOf pa < 273067 → s.regionFree (regionOf pa) = true →
            ∃ t, sets (.regionWorld (regionOf pa)) t ∧ t.regionSecure pa = v.getLsbD 0)
          ∧ (∀ p r, (s.part p).live = true → r = 8 ∨ r = 16 ∨ r = 24 → sets (.readOnly p r) s)
          ∧ (∀ n, n < 1200 → sets (.ascr n) (s.setCore n { s.core n with regs := { (s.core n).regs with
              ascr := (v &&& 0x400FFFFFFFFFFFFF) ||| (if (s.cluster (clusterOf n)).secure then 1#64 <<< 61 else 0) } }))
          ∧ ∀ ch i, ch < 320 → i < 8 → (s.channel ch).meta_.length = 8 → ∃ t, sets (.channelMeta ch i) t
            ∧ (t.channel ch).meta_[i]? = some v ∧ (t.channel ch).remapped = Config.metaSparing (t.channel ch).meta_ ∧ t.mem = s.mem)
      ∧ (∀ (b : Boot) (p : Nat) (d : PartDef) (img : ImageInput), let x := b.s.part p
        let u := b.image p d img
        let boot := b.s.pack.flash.boot
        (∀ c k, imageFails img d.edKeys d.mlKeys x.isvMin x.world = some (c, k) → (u.s.part p).bootstat = 0x903 ∧ u.s.mem = b.s.mem
            ∧ u.s.pack.launches = b.s.pack.launches ∧ u.s.pack.flash.journal.head? = some ⟨9, 0, 2, p * 0x10000 + k * 0x100 + c, boot⟩)
          ∧ (imageFails img d.edKeys d.mlKeys x.isvMin x.world = none → x.busy = [] → (u.s.part p).bootstat = 2
            ∧ (u.s.part p).starts = x.starts ++ [b.s.pack.nextLaunch] ∧ u.s.pack.flash.journal.head? = some ⟨9, 0, 1, p * 0x10000, boot⟩))
end

