-- ==== Sys2Proof/Laws/State.lean ====
section
/-! SUPPORT. What each update of the state leaves in each field: one lemma per field per update. -/

namespace Sys2Proof.Machine

/-! ## Sparse tables -/

@[simp] theorem tabGet_tabSet_same {α : Type} (t : Tab α) (k : Nat) (v : α) : tabGet (tabSet t k v) k = some v := by
  induction t with
  | nil => simp [tabSet, tabGet]
  | cons e t ih =>
    obtain ⟨j, w⟩ := e
    simp only [tabSet]
    split_ifs with h1 h2
    · simp [tabGet]
    · simp [tabGet]
    · simp [tabGet, h2, ih]

theorem tabGet_tabSet_other {α : Type} (t : Tab α) {k m : Nat} (v : α) (h : m ≠ k) : tabGet (tabSet t k v) m = tabGet t m := by
  induction t with
  | nil => simp [tabSet, tabGet, h.symm]
  | cons e t ih =>
    obtain ⟨j, w⟩ := e
    simp only [tabSet]
    split_ifs with h1 h2
    · simp [tabGet, h.symm]
    · subst h2
      simp [tabGet, h.symm]
    · simp only [tabGet]
      split_ifs <;> simp_all

@[simp] theorem tabGetD_tabSet_same {α : Type} (t : Tab α) (k : Nat) (v d : α) : tabGetD (tabSet t k v) k d = v := by
  simp [tabGetD]

theorem tabGetD_tabSet_other {α : Type} (t : Tab α) {k m : Nat} (v d : α) (h : m ≠ k) :
    tabGetD (tabSet t k v) m d = tabGetD t m d := by
  simp [tabGetD, tabGet_tabSet_other t v h]

theorem getElem?_listSet {α : Type} (l : List α) (i j : Nat) (v : α) :
    (listSet l i v)[j]? = if i = j ∧ j < l.length then some v else l[j]? := by
  induction l generalizing i j with
  | nil => cases i <;> simp [listSet]
  | cons x l ih =>
    cases i with
    | zero => cases j <;> simp [listSet]
    | succ i => cases j <;> simp [listSet, ih]

@[simp] theorem length_listSet {α : Type} (l : List α) (i : Nat) (v : α) : (listSet l i v).length = l.length := by
  induction l generalizing i with
  | nil => cases i <;> rfl
  | cons x l ih => cases i <;> simp [listSet, ih]

/-! ## Cores, contexts, clusters, partitions -/

@[simp] theorem State.core_setCore (s : State) (n : Nat) (c : Core) : (s.setCore n c).core n = c := by
  simp [State.core, State.setCore]

theorem State.core_setCore_other (s : State) {n m : Nat} (c : Core) (h : m ≠ n) : (s.setCore n c).core m = s.core m := by
  simp [State.core, State.setCore, tabGetD_tabSet_other _ _ _ h]

@[simp] theorem Core.ctx_setCtx (c : Core) (k : Nat) (x : Ctx) : (c.setCtx k x).ctx k = x := by
  simp [Core.ctx, Core.setCtx]

theorem Core.ctx_setCtx_other (c : Core) {k m : Nat} (x : Ctx) (h : m ≠ k) : (c.setCtx k x).ctx m = c.ctx m := by
  simp [Core.ctx, Core.setCtx, tabGetD_tabSet_other _ _ _ h]

@[simp] theorem State.ctx_setCtx (s : State) (n k : Nat) (x : Ctx) : (s.setCtx n k x).ctx n k = x := by
  simp [State.ctx, State.setCtx]

theorem State.ctx_setCtx_other (s : State) {n k m j : Nat} (x : Ctx) (h : (m, j) ≠ (n, k)) : (s.setCtx n k x).ctx m j = s.ctx m j := by
  by_cases hm : m = n
  · subst hm
    have hj : j ≠ k := fun e => h (by rw [e])
    simp [State.ctx, State.setCtx, Core.ctx_setCtx_other _ _ hj]
  · simp [State.ctx, State.setCtx, State.core_setCore_other _ _ hm]

@[simp] theorem State.cluster_setCluster (s : State) (n : Nat) (x : Cluster) : (s.setCluster n x).cluster n = x := by
  simp [State.cluster, State.setCluster]

theorem State.cluster_setCluster_other (s : State) {n m : Nat} (x : Cluster) (h : m ≠ n) : (s.setCluster n x).cluster m = s.cluster m := by
  simp [State.cluster, State.setCluster, tabGetD_tabSet_other _ _ _ h]

@[simp] theorem State.part_setPart (s : State) (p : Nat) (x : Part) : (s.setPart p x).part p = x := by
  simp [State.part, State.setPart]

theorem State.part_setPart_other (s : State) {p q : Nat} (x : Part) (h : q ≠ p) : (s.setPart p x).part q = s.part q := by
  simp [State.part, State.setPart, tabGetD_tabSet_other _ _ _ h]

@[simp] theorem State.cluster_setCore (s : State) (n m : Nat) (c : Core) : (s.setCore n c).cluster m = s.cluster m := rfl

@[simp] theorem State.part_setCore (s : State) (n p : Nat) (c : Core) : (s.setCore n c).part p = s.part p := rfl

@[simp] theorem State.core_setCluster (s : State) (n m : Nat) (x : Cluster) : (s.setCluster n x).core m = s.core m := rfl

@[simp] theorem State.part_setCluster (s : State) (n p : Nat) (x : Cluster) : (s.setCluster n x).part p = s.part p := rfl

@[simp] theorem State.core_setPart (s : State) (p n : Nat) (x : Part) : (s.setPart p x).core n = s.core n := rfl

@[simp] theorem State.cluster_setPart (s : State) (p n : Nat) (x : Part) : (s.setPart p x).cluster n = s.cluster n := rfl

@[simp] theorem State.core_writeAt (s : State) (k n : Nat) (bs : List Byte) : (s.writeAt k bs).core n = s.core n := rfl

@[simp] theorem State.ctx_writeAt (s : State) (k n j : Nat) (bs : List Byte) : (s.writeAt k bs).ctx n j = s.ctx n j := rfl

@[simp] theorem State.cluster_writeAt (s : State) (k n : Nat) (bs : List Byte) : (s.writeAt k bs).cluster n = s.cluster n := rfl

@[simp] theorem State.part_writeAt (s : State) (k p : Nat) (bs : List Byte) : (s.writeAt k bs).part p = s.part p := rfl

@[simp] theorem State.core_emit (s : State) (o : Out) (n : Nat) : (s.emit o).core n = s.core n := rfl

@[simp] theorem State.byteAt_setCore (s : State) (n k : Nat) (c : Core) : (s.setCore n c).byteAt k = s.byteAt k := rfl

@[simp] theorem State.byteAt_setCtx (s : State) (n j k : Nat) (x : Ctx) : (s.setCtx n j x).byteAt k = s.byteAt k := rfl

@[simp] theorem State.byteAt_setCluster (s : State) (n k : Nat) (x : Cluster) : (s.setCluster n x).byteAt k = s.byteAt k := rfl

@[simp] theorem State.byteAt_setPart (s : State) (p k : Nat) (x : Part) : (s.setPart p x).byteAt k = s.byteAt k := rfl

/-! ## The fields of the state -/

@[simp] theorem State.setCore_cycle (s : State) (n : Nat) (c : Core) : (s.setCore n c).cycle = s.cycle := rfl

@[simp] theorem State.setCore_mem (s : State) (n : Nat) (c : Core) : (s.setCore n c).mem = s.mem := rfl

@[simp] theorem State.setCore_poison (s : State) (n : Nat) (c : Core) : (s.setCore n c).poison = s.poison := rfl

@[simp] theorem State.setCore_cores (s : State) (n : Nat) (c : Core) : (s.setCore n c).cores = tabSet s.cores n c := rfl

@[simp] theorem State.setCore_clusters (s : State) (n : Nat) (c : Core) : (s.setCore n c).clusters = s.clusters := rfl

@[simp] theorem State.setCore_pack (s : State) (n : Nat) (c : Core) : (s.setCore n c).pack = s.pack := rfl

@[simp] theorem State.setCore_agenda (s : State) (n : Nat) (c : Core) : (s.setCore n c).agenda = s.agenda := rfl

@[simp] theorem State.setCore_out (s : State) (n : Nat) (c : Core) : (s.setCore n c).out = s.out := rfl

@[simp] theorem State.setCore_free (s : State) (n : Nat) (c : Core) : (s.setCore n c).free = s.free := rfl

@[simp] theorem State.setCore_curCore (s : State) (n : Nat) (c : Core) : (s.setCore n c).curCore = s.curCore := rfl

@[simp] theorem State.setCore_curCtx (s : State) (n : Nat) (c : Core) : (s.setCore n c).curCtx = s.curCtx := rfl

@[simp] theorem State.setCore_issue (s : State) (n : Nat) (c : Core) : (s.setCore n c).issue = s.issue := rfl

@[simp] theorem State.setCore_view (s : State) (n : Nat) (c : Core) : (s.setCore n c).view = s.view := rfl

@[simp] theorem State.setCluster_cycle (s : State) (n : Nat) (x : Cluster) : (s.setCluster n x).cycle = s.cycle := rfl

@[simp] theorem State.setCluster_mem (s : State) (n : Nat) (x : Cluster) : (s.setCluster n x).mem = s.mem := rfl

@[simp] theorem State.setCluster_poison (s : State) (n : Nat) (x : Cluster) : (s.setCluster n x).poison = s.poison := rfl

@[simp] theorem State.setCluster_cores (s : State) (n : Nat) (x : Cluster) : (s.setCluster n x).cores = s.cores := rfl

@[simp] theorem State.setCluster_clusters (s : State) (n : Nat) (x : Cluster) : (s.setCluster n x).clusters = tabSet s.clusters n x := rfl

@[simp] theorem State.setCluster_pack (s : State) (n : Nat) (x : Cluster) : (s.setCluster n x).pack = s.pack := rfl

@[simp] theorem State.setCluster_agenda (s : State) (n : Nat) (x : Cluster) : (s.setCluster n x).agenda = s.agenda := rfl

@[simp] theorem State.setCluster_out (s : State) (n : Nat) (x : Cluster) : (s.setCluster n x).out = s.out := rfl

@[simp] theorem State.setCluster_free (s : State) (n : Nat) (x : Cluster) : (s.setCluster n x).free = s.free := rfl

@[simp] theorem State.setCluster_curCore (s : State) (n : Nat) (x : Cluster) : (s.setCluster n x).curCore = s.curCore := rfl

@[simp] theorem State.setCluster_curCtx (s : State) (n : Nat) (x : Cluster) : (s.setCluster n x).curCtx = s.curCtx := rfl

@[simp] theorem State.setCluster_issue (s : State) (n : Nat) (x : Cluster) : (s.setCluster n x).issue = s.issue := rfl

@[simp] theorem State.setCluster_view (s : State) (n : Nat) (x : Cluster) : (s.setCluster n x).view = s.view := rfl

@[simp] theorem State.emit_cycle (s : State) (o : Out) : (s.emit o).cycle = s.cycle := rfl

@[simp] theorem State.emit_mem (s : State) (o : Out) : (s.emit o).mem = s.mem := rfl

@[simp] theorem State.emit_poison (s : State) (o : Out) : (s.emit o).poison = s.poison := rfl

@[simp] theorem State.emit_cores (s : State) (o : Out) : (s.emit o).cores = s.cores := rfl

@[simp] theorem State.emit_clusters (s : State) (o : Out) : (s.emit o).clusters = s.clusters := rfl

@[simp] theorem State.emit_pack (s : State) (o : Out) : (s.emit o).pack = s.pack := rfl

@[simp] theorem State.emit_agenda (s : State) (o : Out) : (s.emit o).agenda = s.agenda := rfl

@[simp] theorem State.emit_out (s : State) (o : Out) : (s.emit o).out = s.out ++ [o] := rfl

@[simp] theorem State.emit_free (s : State) (o : Out) : (s.emit o).free = s.free := rfl

@[simp] theorem State.emit_curCore (s : State) (o : Out) : (s.emit o).curCore = s.curCore := rfl

@[simp] theorem State.emit_curCtx (s : State) (o : Out) : (s.emit o).curCtx = s.curCtx := rfl

@[simp] theorem State.emit_issue (s : State) (o : Out) : (s.emit o).issue = s.issue := rfl

@[simp] theorem State.emit_view (s : State) (o : Out) : (s.emit o).view = s.view := rfl

@[simp] theorem State.writeAt_cycle (s : State) (k : Nat) (bs : List Byte) : (s.writeAt k bs).cycle = s.cycle := rfl

@[simp] theorem State.writeAt_mem (s : State) (k : Nat) (bs : List Byte) : (s.writeAt k bs).mem = memWrite s.mem k bs := rfl

@[simp] theorem State.writeAt_poison (s : State) (k : Nat) (bs : List Byte) : (s.writeAt k bs).poison = poisonAfter s.poison k bs.length := rfl

@[simp] theorem State.writeAt_cores (s : State) (k : Nat) (bs : List Byte) : (s.writeAt k bs).cores = s.cores := rfl

@[simp] theorem State.writeAt_clusters (s : State) (k : Nat) (bs : List Byte) : (s.writeAt k bs).clusters = s.clusters := rfl

@[simp] theorem State.writeAt_pack (s : State) (k : Nat) (bs : List Byte) : (s.writeAt k bs).pack = s.pack := rfl

@[simp] theorem State.writeAt_agenda (s : State) (k : Nat) (bs : List Byte) : (s.writeAt k bs).agenda = s.agenda := rfl

@[simp] theorem State.writeAt_out (s : State) (k : Nat) (bs : List Byte) : (s.writeAt k bs).out = s.out := rfl

@[simp] theorem State.writeAt_free (s : State) (k : Nat) (bs : List Byte) : (s.writeAt k bs).free = s.free := rfl

@[simp] theorem State.writeAt_curCore (s : State) (k : Nat) (bs : List Byte) : (s.writeAt k bs).curCore = s.curCore := rfl

@[simp] theorem State.writeAt_curCtx (s : State) (k : Nat) (bs : List Byte) : (s.writeAt k bs).curCtx = s.curCtx := rfl

@[simp] theorem State.writeAt_issue (s : State) (k : Nat) (bs : List Byte) : (s.writeAt k bs).issue = s.issue := rfl

@[simp] theorem State.writeAt_view (s : State) (k : Nat) (bs : List Byte) : (s.writeAt k bs).view = s.view := rfl

@[simp] theorem State.scramble_cycle (s : State) (k n : Nat) : (s.scramble k n).cycle = s.cycle := rfl

@[simp] theorem State.scramble_mem (s : State) (k n : Nat) : (s.scramble k n).mem = memWrite s.mem k (freeBytes s.free n) := rfl

@[simp] theorem State.scramble_poison (s : State) (k n : Nat) : (s.scramble k n).poison = s.poison := rfl

@[simp] theorem State.scramble_cores (s : State) (k n : Nat) : (s.scramble k n).cores = s.cores := rfl

@[simp] theorem State.scramble_clusters (s : State) (k n : Nat) : (s.scramble k n).clusters = s.clusters := rfl

@[simp] theorem State.scramble_pack (s : State) (k n : Nat) : (s.scramble k n).pack = s.pack := rfl

@[simp] theorem State.scramble_agenda (s : State) (k n : Nat) : (s.scramble k n).agenda = s.agenda := rfl

@[simp] theorem State.scramble_out (s : State) (k n : Nat) : (s.scramble k n).out = s.out := rfl

@[simp] theorem State.scramble_free (s : State) (k n : Nat) : (s.scramble k n).free = s.free + 1 := rfl

@[simp] theorem State.scramble_curCore (s : State) (k n : Nat) : (s.scramble k n).curCore = s.curCore := rfl

@[simp] theorem State.scramble_curCtx (s : State) (k n : Nat) : (s.scramble k n).curCtx = s.curCtx := rfl

@[simp] theorem State.scramble_issue (s : State) (k n : Nat) : (s.scramble k n).issue = s.issue := rfl

@[simp] theorem State.scramble_view (s : State) (k n : Nat) : (s.scramble k n).view = s.view := rfl

@[simp] theorem State.tick_cycle (s : State) : (s.tick).cycle = s.cycle + 1 := rfl

@[simp] theorem State.tick_mem (s : State) : (s.tick).mem = s.mem := rfl

@[simp] theorem State.tick_poison (s : State) : (s.tick).poison = s.poison := rfl

@[simp] theorem State.tick_cores (s : State) : (s.tick).cores = s.cores := rfl

@[simp] theorem State.tick_clusters (s : State) : (s.tick).clusters = s.clusters := rfl

@[simp] theorem State.tick_pack (s : State) : (s.tick).pack = s.pack := rfl

@[simp] theorem State.tick_agenda (s : State) : (s.tick).agenda = s.agenda := rfl

@[simp] theorem State.tick_out (s : State) : (s.tick).out = s.out := rfl

@[simp] theorem State.tick_free (s : State) : (s.tick).free = s.free := rfl

@[simp] theorem State.tick_curCore (s : State) : (s.tick).curCore = s.curCore := rfl

@[simp] theorem State.tick_curCtx (s : State) : (s.tick).curCtx = s.curCtx := rfl

@[simp] theorem State.tick_issue (s : State) : (s.tick).issue = s.issue := rfl

@[simp] theorem State.tick_view (s : State) : (s.tick).view = s.view := rfl

@[simp] theorem State.setCtx_cycle (s : State) (n k : Nat) (x : Ctx) : (s.setCtx n k x).cycle = s.cycle := rfl

@[simp] theorem State.setMe_cycle (s : State) (x : Ctx) : (s.setMe x).cycle = s.cycle := rfl

@[simp] theorem State.setPart_cycle (s : State) (p : Nat) (x : Part) : (s.setPart p x).cycle = s.cycle := rfl

@[simp] theorem State.setSlice_cycle (s : State) (i : Nat) (x : Slice) : (s.setSlice i x).cycle = s.cycle := rfl

@[simp] theorem State.setCtx_mem (s : State) (n k : Nat) (x : Ctx) : (s.setCtx n k x).mem = s.mem := rfl

@[simp] theorem State.setMe_mem (s : State) (x : Ctx) : (s.setMe x).mem = s.mem := rfl

@[simp] theorem State.setPart_mem (s : State) (p : Nat) (x : Part) : (s.setPart p x).mem = s.mem := rfl

@[simp] theorem State.setSlice_mem (s : State) (i : Nat) (x : Slice) : (s.setSlice i x).mem = s.mem := rfl

@[simp] theorem State.setCtx_poison (s : State) (n k : Nat) (x : Ctx) : (s.setCtx n k x).poison = s.poison := rfl

@[simp] theorem State.setMe_poison (s : State) (x : Ctx) : (s.setMe x).poison = s.poison := rfl

@[simp] theorem State.setPart_poison (s : State) (p : Nat) (x : Part) : (s.setPart p x).poison = s.poison := rfl

@[simp] theorem State.setSlice_poison (s : State) (i : Nat) (x : Slice) : (s.setSlice i x).poison = s.poison := rfl

@[simp] theorem State.setCtx_clusters (s : State) (n k : Nat) (x : Ctx) : (s.setCtx n k x).clusters = s.clusters := rfl

@[simp] theorem State.setMe_clusters (s : State) (x : Ctx) : (s.setMe x).clusters = s.clusters := rfl

@[simp] theorem State.setPart_clusters (s : State) (p : Nat) (x : Part) : (s.setPart p x).clusters = s.clusters := rfl

@[simp] theorem State.setSlice_clusters (s : State) (i : Nat) (x : Slice) : (s.setSlice i x).clusters = s.clusters := rfl

@[simp] theorem State.setCtx_pack (s : State) (n k : Nat) (x : Ctx) : (s.setCtx n k x).pack = s.pack := rfl

@[simp] theorem State.setMe_pack (s : State) (x : Ctx) : (s.setMe x).pack = s.pack := rfl

@[simp] theorem State.setCtx_agenda (s : State) (n k : Nat) (x : Ctx) : (s.setCtx n k x).agenda = s.agenda := rfl

@[simp] theorem State.setMe_agenda (s : State) (x : Ctx) : (s.setMe x).agenda = s.agenda := rfl

@[simp] theorem State.setPart_agenda (s : State) (p : Nat) (x : Part) : (s.setPart p x).agenda = s.agenda := rfl

@[simp] theorem State.setSlice_agenda (s : State) (i : Nat) (x : Slice) : (s.setSlice i x).agenda = s.agenda := rfl

@[simp] theorem State.setCtx_out (s : State) (n k : Nat) (x : Ctx) : (s.setCtx n k x).out = s.out := rfl

@[simp] theorem State.setMe_out (s : State) (x : Ctx) : (s.setMe x).out = s.out := rfl

@[simp] theorem State.setPart_out (s : State) (p : Nat) (x : Part) : (s.setPart p x).out = s.out := rfl

@[simp] theorem State.setSlice_out (s : State) (i : Nat) (x : Slice) : (s.setSlice i x).out = s.out := rfl

@[simp] theorem State.setCtx_free (s : State) (n k : Nat) (x : Ctx) : (s.setCtx n k x).free = s.free := rfl

@[simp] theorem State.setMe_free (s : State) (x : Ctx) : (s.setMe x).free = s.free := rfl

@[simp] theorem State.setPart_free (s : State) (p : Nat) (x : Part) : (s.setPart p x).free = s.free := rfl

@[simp] theorem State.setSlice_free (s : State) (i : Nat) (x : Slice) : (s.setSlice i x).free = s.free := rfl

@[simp] theorem State.setCtx_curCore (s : State) (n k : Nat) (x : Ctx) : (s.setCtx n k x).curCore = s.curCore := rfl

@[simp] theorem State.setMe_curCore (s : State) (x : Ctx) : (s.setMe x).curCore = s.curCore := rfl

@[simp] theorem State.setPart_curCore (s : State) (p : Nat) (x : Part) : (s.setPart p x).curCore = s.curCore := rfl

@[simp] theorem State.setSlice_curCore (s : State) (i : Nat) (x : Slice) : (s.setSlice i x).curCore = s.curCore := rfl

@[simp] theorem State.setCtx_curCtx (s : State) (n k : Nat) (x : Ctx) : (s.setCtx n k x).curCtx = s.curCtx := rfl

@[simp] theorem State.setMe_curCtx (s : State) (x : Ctx) : (s.setMe x).curCtx = s.curCtx := rfl

@[simp] theorem State.setPart_curCtx (s : State) (p : Nat) (x : Part) : (s.setPart p x).curCtx = s.curCtx := rfl

@[simp] theorem State.setSlice_curCtx (s : State) (i : Nat) (x : Slice) : (s.setSlice i x).curCtx = s.curCtx := rfl

@[simp] theorem State.setCtx_issue (s : State) (n k : Nat) (x : Ctx) : (s.setCtx n k x).issue = s.issue := rfl

@[simp] theorem State.setMe_issue (s : State) (x : Ctx) : (s.setMe x).issue = s.issue := rfl

@[simp] theorem State.setPart_issue (s : State) (p : Nat) (x : Part) : (s.setPart p x).issue = s.issue := rfl

@[simp] theorem State.setSlice_issue (s : State) (i : Nat) (x : Slice) : (s.setSlice i x).issue = s.issue := rfl

@[simp] theorem State.setCtx_view (s : State) (n k : Nat) (x : Ctx) : (s.setCtx n k x).view = s.view := rfl

@[simp] theorem State.setMe_view (s : State) (x : Ctx) : (s.setMe x).view = s.view := rfl

@[simp] theorem State.setPart_view (s : State) (p : Nat) (x : Part) : (s.setPart p x).view = s.view := rfl

@[simp] theorem State.setSlice_view (s : State) (i : Nat) (x : Slice) : (s.setSlice i x).view = s.view := rfl

@[simp] theorem Core.count_ctxs (c : Core) (e : Ev) (n : Nat) : (c.count e n).ctxs = c.ctxs := rfl

@[simp] theorem Core.setCc_ctxs (c : Core) (n : Nat) (x : Counter) : (c.setCc n x).ctxs = c.ctxs := rfl

@[simp] theorem Core.setCtx_regs (c : Core) (k : Nat) (x : Ctx) : (c.setCtx k x).regs = c.regs := rfl

@[simp] theorem Core.setCtx_su (c : Core) (k : Nat) (x : Ctx) : (c.setCtx k x).su = c.su := rfl

@[simp] theorem Core.count_su (c : Core) (e : Ev) (n : Nat) : (c.count e n).su = c.su := rfl

@[simp] theorem Core.setCc_su (c : Core) (n : Nat) (x : Counter) : (c.setCc n x).su = c.su := rfl

@[simp] theorem Core.setCtx_owed (c : Core) (k : Nat) (x : Ctx) : (c.setCtx k x).owed = c.owed := rfl

@[simp] theorem Core.count_owed (c : Core) (e : Ev) (n : Nat) : (c.count e n).owed = c.owed := rfl

@[simp] theorem Core.setCc_owed (c : Core) (n : Nat) (x : Counter) : (c.setCc n x).owed = c.owed := rfl

@[simp] theorem Core.setCtx_eng (c : Core) (k : Nat) (x : Ctx) : (c.setCtx k x).eng = c.eng := rfl

@[simp] theorem Core.count_eng (c : Core) (e : Ev) (n : Nat) : (c.count e n).eng = c.eng := rfl

@[simp] theorem Core.setCc_eng (c : Core) (n : Nat) (x : Counter) : (c.setCc n x).eng = c.eng := rfl

@[simp] theorem Core.setCtx_mat (c : Core) (k : Nat) (x : Ctx) : (c.setCtx k x).mat = c.mat := rfl

@[simp] theorem Core.count_mat (c : Core) (e : Ev) (n : Nat) : (c.count e n).mat = c.mat := rfl

@[simp] theorem Core.setCc_mat (c : Core) (n : Nat) (x : Counter) : (c.setCc n x).mat = c.mat := rfl

@[simp] theorem Core.setCtx_judge (c : Core) (k : Nat) (x : Ctx) : (c.setCtx k x).judge = c.judge := rfl

@[simp] theorem Core.count_judge (c : Core) (e : Ev) (n : Nat) : (c.count e n).judge = c.judge := rfl

@[simp] theorem Core.setCc_judge (c : Core) (n : Nat) (x : Counter) : (c.setCc n x).judge = c.judge := rfl

@[simp] theorem Core.setCtx_relay (c : Core) (k : Nat) (x : Ctx) : (c.setCtx k x).relay = c.relay := rfl

@[simp] theorem Core.count_relay (c : Core) (e : Ev) (n : Nat) : (c.count e n).relay = c.relay := rfl

@[simp] theorem Core.setCc_relay (c : Core) (n : Nat) (x : Counter) : (c.setCc n x).relay = c.relay := rfl

@[simp] theorem Core.setCtx_seqs (c : Core) (k : Nat) (x : Ctx) : (c.setCtx k x).seqs = c.seqs := rfl

@[simp] theorem Core.count_seqs (c : Core) (e : Ev) (n : Nat) : (c.count e n).seqs = c.seqs := rfl

@[simp] theorem Core.setCc_seqs (c : Core) (n : Nat) (x : Counter) : (c.setCc n x).seqs = c.seqs := rfl

@[simp] theorem Core.setCtx_runq (c : Core) (k : Nat) (x : Ctx) : (c.setCtx k x).runq = c.runq := rfl

@[simp] theorem Core.count_runq (c : Core) (e : Ev) (n : Nat) : (c.count e n).runq = c.runq := rfl

@[simp] theorem Core.setCc_runq (c : Core) (n : Nat) (x : Counter) : (c.setCc n x).runq = c.runq := rfl

@[simp] theorem Core.setCtx_outq (c : Core) (k : Nat) (x : Ctx) : (c.setCtx k x).outq = c.outq := rfl

@[simp] theorem Core.count_outq (c : Core) (e : Ev) (n : Nat) : (c.count e n).outq = c.outq := rfl

@[simp] theorem Core.setCc_outq (c : Core) (n : Nat) (x : Counter) : (c.setCc n x).outq = c.outq := rfl

@[simp] theorem Core.setCtx_dtlb (c : Core) (k : Nat) (x : Ctx) : (c.setCtx k x).dtlb = c.dtlb := rfl

@[simp] theorem Core.count_dtlb (c : Core) (e : Ev) (n : Nat) : (c.count e n).dtlb = c.dtlb := rfl

@[simp] theorem Core.setCc_dtlb (c : Core) (n : Nat) (x : Counter) : (c.setCc n x).dtlb = c.dtlb := rfl

@[simp] theorem Core.setCtx_itlb (c : Core) (k : Nat) (x : Ctx) : (c.setCtx k x).itlb = c.itlb := rfl

@[simp] theorem Core.count_itlb (c : Core) (e : Ev) (n : Nat) : (c.count e n).itlb = c.itlb := rfl

@[simp] theorem Core.setCc_itlb (c : Core) (n : Nat) (x : Counter) : (c.setCc n x).itlb = c.itlb := rfl

@[simp] theorem Core.setCtx_moved (c : Core) (k : Nat) (x : Ctx) : (c.setCtx k x).moved = c.moved := rfl

@[simp] theorem Core.count_moved (c : Core) (e : Ev) (n : Nat) : (c.count e n).moved = c.moved := rfl

@[simp] theorem Core.setCc_moved (c : Core) (n : Nat) (x : Counter) : (c.setCc n x).moved = c.moved := rfl

@[simp] theorem Core.setCtx_fetches (c : Core) (k : Nat) (x : Ctx) : (c.setCtx k x).fetches = c.fetches := rfl

@[simp] theorem Core.count_fetches (c : Core) (e : Ev) (n : Nat) : (c.count e n).fetches = c.fetches := rfl

@[simp] theorem Core.setCc_fetches (c : Core) (n : Nat) (x : Counter) : (c.setCc n x).fetches = c.fetches := rfl

@[simp] theorem Core.setCtx_launch (c : Core) (k : Nat) (x : Ctx) : (c.setCtx k x).launch = c.launch := rfl

@[simp] theorem Core.count_launch (c : Core) (e : Ev) (n : Nat) : (c.count e n).launch = c.launch := rfl

@[simp] theorem Core.setCc_launch (c : Core) (n : Nat) (x : Counter) : (c.setCc n x).launch = c.launch := rfl

@[simp] theorem Core.setCtx_group (c : Core) (k : Nat) (x : Ctx) : (c.setCtx k x).group = c.group := rfl

@[simp] theorem Core.count_group (c : Core) (e : Ev) (n : Nat) : (c.count e n).group = c.group := rfl

@[simp] theorem Core.setCc_group (c : Core) (n : Nat) (x : Counter) : (c.setCc n x).group = c.group := rfl

@[simp] theorem Core.setCtx_twbase (c : Core) (k : Nat) (x : Ctx) : (c.setCtx k x).twbase = c.twbase := rfl

@[simp] theorem Core.count_twbase (c : Core) (e : Ev) (n : Nat) : (c.count e n).twbase = c.twbase := rfl

@[simp] theorem Core.setCc_twbase (c : Core) (n : Nat) (x : Counter) : (c.setCc n x).twbase = c.twbase := rfl

@[simp] theorem Core.setCtx_tpsize (c : Core) (k : Nat) (x : Ctx) : (c.setCtx k x).tpsize = c.tpsize := rfl

@[simp] theorem Core.count_tpsize (c : Core) (e : Ev) (n : Nat) : (c.count e n).tpsize = c.tpsize := rfl

@[simp] theorem Core.setCc_tpsize (c : Core) (n : Nat) (x : Counter) : (c.setCc n x).tpsize = c.tpsize := rfl

@[simp] theorem Core.setCtx_cycle0 (c : Core) (k : Nat) (x : Ctx) : (c.setCtx k x).cycle0 = c.cycle0 := rfl

@[simp] theorem Core.count_cycle0 (c : Core) (e : Ev) (n : Nat) : (c.count e n).cycle0 = c.cycle0 := rfl

@[simp] theorem Core.setCc_cycle0 (c : Core) (n : Nat) (x : Counter) : (c.setCc n x).cycle0 = c.cycle0 := rfl

@[simp] theorem Core.setCtx_last (c : Core) (k : Nat) (x : Ctx) : (c.setCtx k x).last = c.last := rfl

@[simp] theorem Core.count_last (c : Core) (e : Ev) (n : Nat) : (c.count e n).last = c.last := rfl

@[simp] theorem Core.setCc_last (c : Core) (n : Nat) (x : Counter) : (c.setCc n x).last = c.last := rfl

@[simp] theorem Core.setCtx_lost (c : Core) (k : Nat) (x : Ctx) : (c.setCtx k x).lost = c.lost := rfl

@[simp] theorem Core.count_lost (c : Core) (e : Ev) (n : Nat) : (c.count e n).lost = c.lost := rfl

@[simp] theorem Core.setCc_lost (c : Core) (n : Nat) (x : Counter) : (c.setCc n x).lost = c.lost := rfl

@[simp] theorem Core.setCtx_evSaved (c : Core) (k : Nat) (x : Ctx) : (c.setCtx k x).evSaved = c.evSaved := rfl

@[simp] theorem Core.count_evSaved (c : Core) (e : Ev) (n : Nat) : (c.count e n).evSaved = c.evSaved := rfl

@[simp] theorem Core.setCc_evSaved (c : Core) (n : Nat) (x : Counter) : (c.setCc n x).evSaved = c.evSaved := rfl

@[simp] theorem Ctx.setW_live (x : Ctx) (n : Nat) (v : Word) : (x.setW n v).live = x.live := rfl

@[simp] theorem Ctx.setW_pc (x : Ctx) (n : Nat) (v : Word) : (x.setW n v).pc = x.pc := rfl

@[simp] theorem Ctx.setW_npc (x : Ctx) (n : Nat) (v : Word) : (x.setW n v).npc = x.npc := rfl

@[simp] theorem Ctx.setW_wp (x : Ctx) (n : Nat) (v : Word) : (x.setW n v).wp = x.wp := rfl

@[simp] theorem Ctx.setW_psize (x : Ctx) (n : Nat) (v : Word) : (x.setW n v).psize = x.psize := rfl

@[simp] theorem Ctx.setW_fpcr (x : Ctx) (n : Nat) (v : Word) : (x.setW n v).fpcr = x.fpcr := rfl

@[simp] theorem Ctx.setW_cpr (x : Ctx) (n : Nat) (v : Word) : (x.setW n v).cpr = x.cpr := rfl

@[simp] theorem Ctx.setW_cause (x : Ctx) (n : Nat) (v : Word) : (x.setW n v).cause = x.cause := rfl

@[simp] theorem Ctx.setW_taddr (x : Ctx) (n : Nat) (v : Word) : (x.setW n v).taddr = x.taddr := rfl

@[simp] theorem Ctx.setW_pcx (x : Ctx) (n : Nat) (v : Word) : (x.setW n v).pcx = x.pcx := rfl

@[simp] theorem Ctx.setW_targ (x : Ctx) (n : Nat) (v : Word) : (x.setW n v).targ = x.targ := rfl

@[simp] theorem Ctx.setW_ih (x : Ctx) (n : Nat) (v : Word) : (x.setW n v).ih = x.ih := rfl

@[simp] theorem Ctx.setW_group (x : Ctx) (n : Nat) (v : Word) : (x.setW n v).group = x.group := rfl

@[simp] theorem Ctx.setW_launch (x : Ctx) (n : Nat) (v : Word) : (x.setW n v).launch = x.launch := rfl

@[simp] theorem Ctx.setW_prio (x : Ctx) (n : Nat) (v : Word) : (x.setW n v).prio = x.prio := rfl

@[simp] theorem Ctx.setW_pfu (x : Ctx) (n : Nat) (v : Word) : (x.setW n v).pfu = x.pfu := rfl

@[simp] theorem Ctx.setW_wait (x : Ctx) (n : Nat) (v : Word) : (x.setW n v).wait = x.wait := rfl

@[simp] theorem Ctx.setW_grant (x : Ctx) (n : Nat) (v : Word) : (x.setW n v).grant = x.grant := rfl

@[simp] theorem Ctx.setW_watch (x : Ctx) (n : Nat) (v : Word) : (x.setW n v).watch = x.watch := rfl

@[simp] theorem Ctx.setW_pend (x : Ctx) (n : Nat) (v : Word) : (x.setW n v).pend = x.pend := rfl

@[simp] theorem Ctx.setW_arrivals (x : Ctx) (n : Nat) (v : Word) : (x.setW n v).arrivals = x.arrivals := rfl

@[simp] theorem Ctx.setW_calls (x : Ctx) (n : Nat) (v : Word) : (x.setW n v).calls = x.calls := rfl

@[simp] theorem Ctx.setW_origin (x : Ctx) (n : Nat) (v : Word) : (x.setW n v).origin = x.origin := rfl

@[simp] theorem Ctx.setW_token (x : Ctx) (n : Nat) (v : Word) : (x.setW n v).token = x.token := rfl

@[simp] theorem Ctx.setW_invals (x : Ctx) (n : Nat) (v : Word) : (x.setW n v).invals = x.invals := rfl

@[simp] theorem Ctx.setW_discarded (x : Ctx) (n : Nat) (v : Word) : (x.setW n v).discarded = x.discarded := rfl

@[simp] theorem Ctx.setW_bundles (x : Ctx) (n : Nat) (v : Word) : (x.setW n v).bundles = x.bundles := rfl

/-! ## The issuing context -/

@[simp] theorem State.me_setMe (s : State) (x : Ctx) : (s.setMe x).me = x := by
  simp [State.me, State.setMe, State.setCtx, State.ctx]

theorem State.ctx_setMe_other (s : State) (x : Ctx) {n k : Nat} (h : (n, k) ≠ (s.curCore, s.curCtx)) : (s.setMe x).ctx n k = s.ctx n k :=
  State.ctx_setCtx_other s x h

@[simp] theorem State.viewCtx_setMe (s : State) (x : Ctx) (h : s.view = none) : (s.setMe x).viewCtx = x := by
  simp [State.viewCtx, h]

end Sys2Proof.Machine
end

