-- ==== Sys2Proof/Laws/Issue.lean ====
section
/-! SUPPORT. What issuing one instruction can do: the one lemma about `runInstr` that meanings are reasoned with. -/

namespace Sys2Proof.Machine

open Sys2Proof.Safety

/-- An instruction that nothing holds back does what its own body says. -/
theorem runInstr_issues {i : Instr} {s : State} (h : Issues i s) (body : Vals → State → Res Unit) :
    runInstr i s body = match body (valsOf i s) s with
      | .ok _ t => .next (issued i s t)
      | .wait t => .next (waits t)
      | .trap x k => .next ((k.getD s).takeTrap x i.isA (wordOf i)) := by
  have hslot : ¬(11 ≤ s.curCtx ∧ seqAllowed s.curCtx i = false) := by
    rcases h.slot with h1 | h1
    · omega
    · simp [h1]
  have hunit : (if needsOldest i then s.irrevocable else some s) = some s := by
    rcases h.unit with h1 | h1
    · simp [h1]
    · split_ifs
      · simp [State.irrevocable, h1]
      · rfl
  simp only [runInstr, h.live, h.settled, h.guarded, h.ready, h.free, h.port, h.clean, hunit]
  rw [if_neg hslot]
  simp only [Bool.not_true, Bool.false_eq_true, if_false]
  cases body (valsOf i s) s <;> rfl

/-- The body takes effect. -/
theorem runInstr_ok {i : Instr} {s t : State} (h : Issues i s) {body : Vals → State → Res Unit}
    (hb : body (valsOf i s) s = .ok () t) : runInstr i s body = .next (issued i s t) := by
  rw [runInstr_issues h, hb]

/-- The body waits. -/
theorem runInstr_wait {i : Instr} {s t : State} (h : Issues i s) {body : Vals → State → Res Unit}
    (hb : body (valsOf i s) s = .wait t) : runInstr i s body = .next (waits t) := by
  rw [runInstr_issues h, hb]

/-- The body raises a trap. -/
theorem runInstr_trap {i : Instr} {s : State} {x : Trap} {k : Option State} (h : Issues i s) {body : Vals → State → Res Unit}
    (hb : body (valsOf i s) s = .trap x k) : runInstr i s body = .next ((k.getD s).takeTrap x i.isA (wordOf i)) := by
  rw [runInstr_issues h, hb]

/-- A false guard leaves the machine as it is (R16 step 1, R23). -/
theorem runInstr_unguarded {i : Instr} {s : State} (body : Vals → State → Res Unit) (hl : s.me.live = true)
    (hp : s.viewCtx.regs.predPending (guardPred i.fields.guard) = false) (hg : s.guarded i = false) :
    runInstr i s body = .next { s with issue := .done } := by
  simp [runInstr, hl, hp, hg]

/-- An instruction that must wait for an operand leaves the machine as it is (R16 step 2). -/
theorem runInstr_stalled {i : Instr} {s : State} (body : Vals → State → Res Unit) (hl : s.me.live = true)
    (hp : s.viewCtx.regs.predPending (guardPred i.fields.guard) = false) (hg : s.guarded i = true)
    (hc : s.curCtx < 11 ∨ seqAllowed s.curCtx i = true) (ht : s.portTrap i = none) (hs : s.stalled i = true) :
    runInstr i s body = .next { s with issue := .waiting } := by
  have hslot : ¬(11 ≤ s.curCtx ∧ seqAllowed s.curCtx i = false) := by
    rcases hc with h1 | h1
    · omega
    · simp [h1]
  simp [runInstr, hl, hp, hg, ht, hs, hslot]

/-- An event that happens, or does not. -/
theorem happens_next {name : String} {o : Option State} {t : State} : happens name o = .next t ↔ o = some t := by
  cases o <;> simp [happens]

@[simp] theorem happens_some (name : String) (t : State) : happens name (some t) = .next t := rfl

/-- The end of a wait: exactly the waits that the test accepts end, and nothing else of the machine changes. -/
theorem endWaitOf_next {s t : State} {name : String} {n k : Nat} {test : Wait → Bool} {g : Option Grant} :
    s.endWaitOf name n k test g = .next t ↔
      ∃ w, (s.ctx n k).wait = some w ∧ (s.ctx n k).live = true ∧ test w = true
        ∧ t = s.setCtx n k { s.ctx n k with wait := none, grant := g } := by
  unfold State.endWaitOf
  dsimp only
  constructor
  · intro h
    split at h
    · next w hw =>
      split_ifs at h with hc
      rw [Bool.and_eq_true] at hc
      exact ⟨w, hw, hc.1, hc.2, (Host.Outcome.next.inj h).symm⟩
    · cases h
  · rintro ⟨w, hw, hl, ht, rfl⟩
    rw [hw, hl]
    simp only [ht, Bool.and_true, if_true]

end Sys2Proof.Machine
end

