-- ==== Sys2Proof/Laws/Memory.lean ====
section
/-! SUPPORT. The memory list: reads after writes, and that every operation keeps the canonical form. -/

namespace Sys2Proof.Machine

/-! ## Reads after writes -/

@[simp] theorem memGet_nil (a : Nat) : memGet [] a = Memory.empty := rfl

/-- Keys of a memory list, all above a bound. -/
def keysAbove (a : Nat) (m : List Host.Cell) : Prop := ∀ e ∈ m, a < e.1

theorem memGet_of_keysAbove {a : Nat} {m : List Host.Cell} (h : keysAbove a m) : memGet m a = Memory.empty := by
  induction m with
  | nil => rfl
  | cons e t ih =>
    obtain ⟨b, v⟩ := e
    have hb : a < b := h (b, v) (by simp)
    simp only [memGet]
    rw [if_neg (by omega)]
    exact ih fun e he => h e (by simp [he])

theorem wf_tail {e : Host.Cell} {t : List Host.Cell} (h : Memory.wf (e :: t) = true) : Memory.wf t = true := by
  cases t with
  | nil => rfl
  | cons f t =>
    obtain ⟨a, v⟩ := e
    obtain ⟨b, w⟩ := f
    simp only [Memory.wf, Bool.and_eq_true] at h
    exact h.2

theorem wf_head_ne {a : Nat} {v : Byte} {t : List Host.Cell} (h : Memory.wf ((a, v) :: t) = true) : v ≠ Memory.empty := by
  cases t with
  | nil => simpa [Memory.wf] using h
  | cons f t =>
    obtain ⟨b, w⟩ := f
    simp only [Memory.wf, Bool.and_eq_true] at h
    simpa using h.1.1

theorem wf_keysAbove {a : Nat} {v : Byte} {t : List Host.Cell} (h : Memory.wf ((a, v) :: t) = true) : keysAbove a t := by
  induction t generalizing a v with
  | nil => intro e he; cases he
  | cons f t ih =>
    obtain ⟨b, w⟩ := f
    have hab : a < b := by
      simp only [Memory.wf, Bool.and_eq_true] at h
      simpa using h.1.2
    intro e he
    rcases List.mem_cons.mp he with rfl | he
    · exact hab
    · exact lt_trans hab (ih (wf_tail h) e he)

theorem wf_cons {a : Nat} {v : Byte} {t : List Host.Cell} (hv : v ≠ Memory.empty) (ha : keysAbove a t) (ht : Memory.wf t = true) :
    Memory.wf ((a, v) :: t) = true := by
  cases t with
  | nil => simpa [Memory.wf] using hv
  | cons f t =>
    obtain ⟨b, w⟩ := f
    have : a < b := ha (b, w) (by simp)
    simp [Memory.wf, hv, this, ht]

theorem keysAbove_memSet {m : List Host.Cell} {c a : Nat} {v : Byte} (h : keysAbove c m) (hc : c < a) : keysAbove c (memSet m a v) := by
  induction m with
  | nil =>
    simp only [memSet]
    split_ifs
    · exact h
    · intro e he
      simp only [List.mem_singleton] at he
      subst he
      exact hc
  | cons e t ih =>
    obtain ⟨b, w⟩ := e
    have hb : c < b := h (b, w) (by simp)
    have ht : keysAbove c t := fun e he => h e (by simp [he])
    have hi := ih ht
    have cons : ∀ {f : Host.Cell} {l : List Host.Cell}, c < f.1 → keysAbove c l → keysAbove c (f :: l) := by
      intro f l hf hl e he
      rcases List.mem_cons.mp he with rfl | he
      · exact hf
      · exact hl e he
    simp only [memSet]
    split_ifs
    · exact h
    · exact cons hc h
    · exact ht
    · exact cons hc ht
    · exact cons hb hi

/-- A write keeps the canonical form. -/
theorem memSet_wf {m : List Host.Cell} (a : Nat) (v : Byte) (h : Memory.wf m = true) : Memory.wf (memSet m a v) = true := by
  induction m with
  | nil =>
    simp only [memSet]
    split_ifs with hv
    · rfl
    · simpa [Memory.wf] using hv
  | cons e t ih =>
    obtain ⟨b, w⟩ := e
    have hw := wf_head_ne h
    have hk := wf_keysAbove h
    have ht := wf_tail h
    simp only [memSet]
    split_ifs with h1 h2 h3 h4
    · exact h
    · exact wf_cons h2 (fun e he => by
        rcases List.mem_cons.mp he with rfl | he
        · exact h1
        · exact lt_trans h1 (hk e he)) h
    · exact ht
    · exact wf_cons h4 (h3 ▸ hk) ht
    · exact wf_cons hw (keysAbove_memSet hk (by omega)) (ih ht)

theorem memGet_memSet_same {m : List Host.Cell} (a : Nat) (v : Byte) (h : Memory.wf m = true) : memGet (memSet m a v) a = v := by
  induction m with
  | nil => simp only [memSet]; split_ifs with hv <;> simp [memGet, hv]
  | cons e t ih =>
    obtain ⟨b, w⟩ := e
    have hk := wf_keysAbove h
    simp only [memSet]
    split_ifs with h1 h2 h3 h4
    · rw [memGet_of_keysAbove, h2]
      intro e he
      rcases List.mem_cons.mp he with rfl | he
      · exact h1
      · exact lt_trans h1 (hk e he)
    · simp [memGet]
    · rw [memGet_of_keysAbove, h4]
      exact h3 ▸ hk
    · simp [memGet]
    · simp [memGet, h3, ih (wf_tail h)]

theorem memGet_memSet_other (m : List Host.Cell) {a b : Nat} (v : Byte) (hne : b ≠ a) : memGet (memSet m a v) b = memGet m b := by
  induction m with
  | nil =>
    simp only [memSet]
    split_ifs
    · rfl
    · simp [memGet, hne.symm]
  | cons e t ih =>
    obtain ⟨c, w⟩ := e
    simp only [memSet]
    split_ifs with h1 h2 h3 h4
    · rfl
    · simp [memGet, hne.symm]
    · subst h3
      simp [memGet, hne.symm]
    · subst h3
      simp [memGet, hne.symm]
    · simp only [memGet, ih]

/-! ## Ranges of bytes -/

theorem memWrite_wf {m : List Host.Cell} (a : Nat) (bs : List Byte) (h : Memory.wf m = true) : Memory.wf (memWrite m a bs) = true := by
  induction bs generalizing m a with
  | nil => exact h
  | cons b t ih => exact ih _ (memSet_wf a b h)

theorem memGet_memWrite_outside (m : List Host.Cell) (a : Nat) (bs : List Byte) {k : Nat} (h : k < a ∨ a + bs.length ≤ k) :
    memGet (memWrite m a bs) k = memGet m k := by
  induction bs generalizing m a with
  | nil => rfl
  | cons b t ih =>
    simp only [List.length_cons] at h
    simp only [memWrite]
    rw [ih _ _ (by omega), memGet_memSet_other _ _ (by omega)]

theorem memGet_memWrite_inside {m : List Host.Cell} (a : Nat) (bs : List Byte) {i : Nat} (hi : i < bs.length) (h : Memory.wf m = true) :
    memGet (memWrite m a bs) (a + i) = bs[i] := by
  induction bs generalizing m a i with
  | nil => simp at hi
  | cons b t ih =>
    simp only [memWrite]
    cases i with
    | zero =>
      rw [memGet_memWrite_outside _ _ _ (by omega)]
      simpa using memGet_memSet_same a b h
    | succ i =>
      have := ih (a := a + 1) (i := i) (by simpa using hi) (memSet_wf a b h)
      simpa [Nat.add_assoc, Nat.add_comm 1 i] using this

theorem length_natBytes (v n : Nat) : (natBytes v n).length = n := by
  induction n generalizing v with
  | zero => rfl
  | succ n ih => simp [natBytes, ih]

theorem length_freeBytes (k n : Nat) : (freeBytes k n).length = n := by
  induction n with
  | zero => rfl
  | succ n ih => simp [freeBytes, ih]

theorem memRead_memWrite_same {m : List Host.Cell} (a : Nat) (bs : List Byte) (h : Memory.wf m = true) :
    memRead (memWrite m a bs) a bs.length = bs := by
  induction bs generalizing m a with
  | nil => rfl
  | cons b t ih =>
    simp only [memWrite, List.length_cons, memRead]
    rw [memGet_memWrite_outside _ _ _ (by omega), memGet_memSet_same a b h, ih (a + 1) (memSet_wf a b h)]

theorem memRead_memWrite_outside (m : List Host.Cell) (a : Nat) (bs : List Byte) {k n : Nat} (h : k + n ≤ a ∨ a + bs.length ≤ k) :
    memRead (memWrite m a bs) k n = memRead m k n := by
  induction n generalizing k with
  | zero => rfl
  | succ n ih => simp only [memRead]; rw [memGet_memWrite_outside _ _ _ (by omega), ih (by omega)]

/-! ## The other operations on the list -/

theorem keysAbove_filter {c : Nat} {m : List Host.Cell} (p : Host.Cell → Bool) (h : keysAbove c m) : keysAbove c (m.filter p) :=
  fun e he => h e (List.mem_filter.mp he).1

/-- Leaving entries out keeps the canonical form. -/
theorem filter_wf {m : List Host.Cell} (p : Host.Cell → Bool) (h : Memory.wf m = true) : Memory.wf (m.filter p) = true := by
  induction m with
  | nil => rfl
  | cons e t ih =>
    obtain ⟨a, v⟩ := e
    simp only [List.filter_cons]
    split_ifs
    · exact wf_cons (wf_head_ne h) (keysAbove_filter p (wf_keysAbove h)) (ih (wf_tail h))
    · exact ih (wf_tail h)

theorem putCells_wf {m : List Host.Cell} (l : List Host.Cell) (h : Memory.wf m = true) : Memory.wf (putCells m l) = true := by
  induction l generalizing m with
  | nil => exact h
  | cons e t ih => exact ih (memSet_wf e.1 e.2 h)

theorem writeBackAll_wf {m : List Host.Cell} (l : List Host.Cell) (h : Memory.wf m = true) : Memory.wf (writeBackAll m l) = true := by
  induction l generalizing m with
  | nil => exact h
  | cons e t ih => exact ih (memSet_wf e.1 e.2 h)

/-! ## The state's memory -/

theorem State.writeAt_wf {s : State} (k : Nat) (bs : List Byte) (h : Memory.wf s.mem = true) : Memory.wf (s.writeAt k bs).mem = true :=
  memWrite_wf k bs h

theorem State.writeNat_wf {s : State} (k n v : Nat) (h : Memory.wf s.mem = true) : Memory.wf (s.writeNat k n v).mem = true :=
  memWrite_wf k _ h

theorem State.scramble_wf {s : State} (k n : Nat) (h : Memory.wf s.mem = true) : Memory.wf (s.scramble k n).mem = true :=
  memWrite_wf k _ h

theorem State.zeroKeys_wf {s : State} (k n : Nat) (h : Memory.wf s.mem = true) : Memory.wf (s.zeroKeys k n).mem = true :=
  filter_wf _ h

@[simp] theorem State.setL1_mem (s : State) (cl : Nat) (t : Tab L1Line) : (s.setL1 cl t).mem = s.mem := rfl

/-- Watches fire without a change of memory. -/
@[simp] theorem State.wakeWatches_mem (s : State) : s.wakeWatches.mem = s.mem := by
  unfold State.wakeWatches
  split <;> rfl

@[simp] theorem State.stamp_mem (s : State) (r : Retain) : (s.stamp r).2.mem = s.mem := rfl

/-- A fold of steps that each keep the form keeps it. -/
theorem foldl_wf {α : Type} {f : State → α → State} (hf : ∀ s a, Memory.wf s.mem = true → Memory.wf (f s a).mem = true) (l : List α)
    {s : State} (h : Memory.wf s.mem = true) : Memory.wf (l.foldl f s).mem = true := by
  induction l generalizing s with
  | nil => exact h
  | cons a t ih => exact ih (hf s a h)

/-- A fold of steps that each leave memory alone leaves it alone. -/
theorem foldl_mem {α : Type} {f : State → α → State} (hf : ∀ s a, (f s a).mem = s.mem) (l : List α) (s : State) : (l.foldl f s).mem = s.mem := by
  induction l generalizing s with
  | nil => rfl
  | cons a t ih => exact (ih _).trans (hf s a)

/-! ## HBM and the slices -/

@[simp] theorem State.setFlines_mem (s : State) (l : Tab FLine) : (s.setFlines l).mem = s.mem := rfl

@[simp] theorem State.setTlines_mem (s : State) (l : List TLine) : (s.setTlines l).mem = s.mem := rfl

/-- What lies in HBM below the slices' copies is no part of the memory that accesses meet. -/
@[simp] theorem State.hbmPut_mem (s : State) (pa : Nat) (bs : List Byte) : (s.hbmPut pa bs).mem = s.mem :=
  foldl_mem (fun s q => by split <;> rfl) _ s

theorem State.controllerPut_wf {s : State} (pa : Nat) (bs : List Byte) (h : Memory.wf s.mem = true) :
    Memory.wf (s.controllerPut pa bs).mem = true :=
  foldl_wf (fun s q h => by
    dsimp only
    split_ifs
    · rw [State.hbmPut_mem]
      exact h
    · exact s.writeAt_wf _ _ h) _ h

theorem State.writeLine_wf {s : State} (l : TLine) (h : Memory.wf s.mem = true) : Memory.wf (s.writeLine l).mem = true := by
  refine foldl_wf (fun s k h => ?_) _ h
  dsimp only
  split_ifs
  · show Memory.wf (State.hbmPut _ _ _).mem = true
    rw [State.hbmPut_mem]
    exact s.writeAt_wf _ _ h
  · rw [State.hbmPut_mem]
    exact s.writeAt_wf _ _ h
  · exact h

theorem State.dropFlat_wf {s : State} (line : Nat) (h : Memory.wf s.mem = true) : Memory.wf (s.dropFlat line).mem = true := by
  unfold State.dropFlat
  split
  · exact h
  · refine foldl_wf (f := fun s k => _) (fun s k h => ?_) _ h
    dsimp only
    split_ifs
    · exact h
    · exact s.writeAt_wf _ _ h
    · exact s.writeAt_wf _ _ h

theorem State.makeRoom_wf {s : State} (h' set : Nat) (h : Memory.wf s.mem = true) : Memory.wf (s.makeRoom h' set).mem = true := by
  unfold State.makeRoom
  dsimp only
  split_ifs
  · exact h
  · split
    · exact s.dropFlat_wf _ h
    · next l _ =>
      split_ifs
      · exact h
      · exact s.writeLine_wf l h
    · exact h

/-- An access at a home slice writes memory only where it makes room. -/
theorem State.touchFlat_wf {s : State} (pa n : Nat) (u : SliceUse) (r : Retain) (h : Memory.wf s.mem = true) :
    Memory.wf (s.touchFlat pa n u r).mem = true := by
  unfold State.touchFlat
  dsimp only
  split_ifs
  all_goals first
    | exact h
    | (split
       · exact h
       · first
         | exact h
         | exact s.makeRoom_wf _ _ h)

theorem State.touchFlats_wf {s : State} (pa n : Nat) (u : SliceUse) (r : Retain) (h : Memory.wf s.mem = true) :
    Memory.wf (s.touchFlats pa n u r).mem = true := foldl_wf (fun s _ h => s.touchFlat_wf _ _ _ _ h) _ h

theorem State.slicePut_wf {s : State} (pa : Nat) (bs : List Byte) (u : SliceUse) (r : Retain) (h : Memory.wf s.mem = true) :
    Memory.wf (s.slicePut pa bs u r).mem = true := by
  have h1 := (s.touchFlats pa bs.length u r).writeAt_wf pa bs (s.touchFlats_wf pa bs.length u r h)
  unfold State.slicePut
  dsimp only
  split_ifs
  · exact h1
  · refine foldl_wf (fun s q h => ?_) _ h1
    split_ifs
    · rw [State.hbmPut_mem]
      exact h
    · exact h

theorem State.homePut_wf {s : State} (cl pa : Nat) (bs : List Byte) (mt : MemType) (pol : Nat) (h : Memory.wf s.mem = true) :
    Memory.wf (s.homePut cl pa bs mt pol).mem = true := by
  cases mt
  · exact State.slicePut_wf _ _ _ _ h
  · exact State.slicePut_wf _ _ _ _ h
  · exact State.controllerPut_wf _ _ h
  · exact State.controllerPut_wf _ _ h

/-! ## The cluster's L1s -/

@[simp] theorem State.hitWatches_mem (s : State) (test : Nat → Watch → Bool) (code : Nat) : (s.hitWatches test code).mem = s.mem := by
  unfold State.hitWatches
  split <;> rfl

@[simp] theorem State.homeRecord_mem (s : State) (r : ScopeRec) : (s.homeRecord r).mem = s.mem := by
  unfold State.homeRecord
  dsimp only
  split
  · rfl
  · exact State.hitWatches_mem _ _ _

@[simp] theorem State.sendRecord_mem (s : State) (cl line : Nat) : (s.sendRecord cl line).mem = s.mem := by
  unfold State.sendRecord
  split
  · rfl
  · split
    · split_ifs
      · exact State.homeRecord_mem _ _
      · rfl
    · exact State.homeRecord_mem _ _

@[simp] theorem State.returnRecord_mem (s : State) (cl line : Nat) : (s.returnRecord cl line).mem = s.mem := s.sendRecord_mem cl line

/-- Lines that leave an L1 as they stand change no memory. -/
@[simp] theorem State.forgetL1_mem (s : State) (cl : Nat) (p : Nat → Bool) : (s.forgetL1 cl p).mem = s.mem := by
  unfold State.forgetL1
  exact foldl_mem (fun s line => s.returnRecord_mem cl line) _ _

theorem State.putDirty_wf {s : State} (line : Nat) (e : L1Line) (h : Memory.wf s.mem = true) : Memory.wf (s.putDirty line e).mem = true := by
  unfold State.putDirty
  dsimp only
  have h1 := writeBackAll_wf (e.dirtyCells line)
    (foldl_wf (f := fun s k => s.touchFlat (192 * line + 48 * k) 1 .write .normal) (fun s _ h => s.touchFlat_wf _ _ _ _ h) e.dirtySectors h)
  split_ifs
  · rw [foldl_mem (f := fun s (c : Host.Cell) => s.hbmPut c.1 [c.2]) (fun s c => s.hbmPut_mem _ _)]
    exact h1
  · exact h1

theorem State.flushPart_wf {s : State} (cl : Nat) (p : Nat → Bool) (h : Memory.wf s.mem = true) :
    Memory.wf (s.flushPart cl p).mem = true := by
  unfold State.flushPart
  dsimp only
  split_ifs
  · exact h
  · rw [State.wakeWatches_mem]
    refine foldl_wf (fun s q h => ?_) _ h
    rw [State.sendRecord_mem]
    exact s.putDirty_wf _ _ h

theorem State.purgeL1_wf {s : State} (cl : Nat) (p : Nat → Bool) (h : Memory.wf s.mem = true) : Memory.wf (s.purgeL1 cl p).mem = true := by
  unfold State.purgeL1
  rw [State.forgetL1_mem]
  exact s.flushPart_wf cl p h

theorem State.byteAt_writeAt_outside (s : State) (k : Nat) (bs : List Byte) {a : Nat} (h : a < k ∨ k + bs.length ≤ a) :
    (s.writeAt k bs).byteAt a = s.byteAt a :=
  memGet_memWrite_outside s.mem k bs h

theorem State.byteAt_writeAt_inside {s : State} (k : Nat) (bs : List Byte) {i : Nat} (hi : i < bs.length) (h : Memory.wf s.mem = true) :
    (s.writeAt k bs).byteAt (k + i) = bs[i] :=
  memGet_memWrite_inside k bs hi h

theorem State.bytesAt_writeAt {s : State} (k : Nat) (bs : List Byte) (h : Memory.wf s.mem = true) :
    (s.writeAt k bs).bytesAt k bs.length = bs :=
  memRead_memWrite_same k bs h

end Sys2Proof.Machine
end

