-- ==== Sys2Proof/Laws/Ops.lean ====
section
/-! SUPPORT. What the shared operations of the meanings can do, said once each: reading back a number, owed results, register and
predicate writes, releases, waits for loads and stores, grants, and the steward's answers. -/

namespace Sys2Proof.Machine

/-! ## Numbers in memory -/

theorem bytesToNat_natBytes (v n : Nat) : bytesToNat (natBytes v n) = v % 256 ^ n := by
  induction n generalizing v with
  | zero => simp [natBytes, bytesToNat, Nat.mod_one]
  | succ n ih =>
    have h : v % 256 ^ (n + 1) = v % 256 + 256 * (v / 256 % 256 ^ n) := by
      rw [pow_succ, Nat.mul_comm, Nat.mod_mul]
    simp [natBytes, bytesToNat, ih, h]

/-- A number that was written reads back, narrowed to its bytes. -/
theorem State.natAt_writeAt {s : State} (k n v : Nat) (h : Memory.wf s.mem = true) :
    (s.writeAt k (natBytes v n)).natAt k n = v % 256 ^ n := by
  have hb := memRead_memWrite_same k (natBytes v n) h
  rw [length_natBytes] at hb
  rw [State.natAt, State.writeAt_mem, hb, bytesToNat_natBytes]

/-- A number elsewhere reads as before. -/
theorem State.natAt_writeAt_outside (s : State) (k : Nat) (bs : List Byte) {a n : Nat} (h : a + n ≤ k ∨ k + bs.length ≤ a) :
    (s.writeAt k bs).natAt a n = s.natAt a n := by
  rw [State.natAt, State.natAt, State.writeAt_mem, memRead_memWrite_outside _ _ _ h]

/-! ## Registers, predicates, owed results -/

theorem State.setReg_reg (s : State) {n : Nat} (v : Word) (h : n < 56) : s.setReg n v = s.setMe (s.me.setW n v) := if_pos h

theorem State.setReg_port (s : State) {n : Nat} (v : Word) (h : ¬n < 56) : s.setReg n v = s.portPush n v := if_neg h

theorem Ctx.setW_regs (x : Ctx) {n : Nat} (v : Word) (h : n < 56) :
    (x.setW n v).regs.w = x.regs.w.set n v h ∧ (x.setW n v).regs.full = x.regs.full ||| (1#56 <<< n)
      ∧ (x.setW n v).regs.psn = x.regs.psn &&& ~~~(1#56 <<< n) ∧ (x.setW n v).regs.g = x.regs.g := by
  simp [Ctx.setW, Regs.fill, h]

/-- Nothing to count changes nothing. -/
@[simp] theorem State.countEv_none (s : State) (n : Nat) : s.countEv n {} = s := rfl

/-- Counting events leaves memory alone. -/
@[simp] theorem State.count_mem (s : State) (n : Nat) (e : Ev) (k : Nat) : (s.count n e k).mem = s.mem := by
  unfold State.count
  split <;> rfl

@[simp] theorem State.countEv_mem (s : State) (n : Nat) (e : FEv) : (s.countEv n e).mem = s.mem := by
  simp [State.countEv]

/-- A result bound for a register is always owed: the register is empty, the list of owed results one longer, and memory as before. -/
theorem State.owe_reg (s : State) {n : Nat} (v : Option Word) (p : Option (Nat × Bool)) (h : n < 56) :
    ∃ t, s.owe n v p = .ok () t ∧ t.mem = s.mem ∧ t.clusters = s.clusters ∧ t.pack = s.pack
      ∧ t.myCore.owed = s.myCore.owed ++ [⟨s.curCtx, n, v, p, none, {}, 0⟩] := by
  refine ⟨_, if_pos h, rfl, rfl, rfl, ?_⟩
  simp [State.myCore, State.setMyCore]

/-- A result bound for an outbound port is enqueued at once, or raises the poison trap. -/
theorem State.owe_port (s : State) {n : Nat} (p : Option (Nat × Bool)) (h : ¬n < 56) :
    (∀ w, ∃ t, s.owe n (some w) p = .ok () t ∧ t.mem = s.mem) ∧ s.owe n none p = .trap { code := 4, reg := n } none := by
  constructor
  · intro w
    refine ⟨_, if_neg h, ?_⟩
    have hm : (s.portPush n w).mem = s.mem := by
      unfold State.portPush
      split
      · rfl
      · split <;> rfl
    cases p <;> simp [hm, State.setPred]
  · exact if_neg h

/-! ## Releases and acquires -/

/-- With no dirty byte and no write scope CLUSTER, a write back changes nothing. -/
theorem State.flushPart_clean (s : State) (cl : Nat) (p : Nat → Bool) (h : (s.cluster cl).l1.all (fun q => q.2.dirty == 0 && !q.2.ws) = true) :
    s.flushPart cl p = s := by
  have hn : ((s.cluster cl).l1.filter (L1Line.leaves p)).isEmpty = true := by
    rw [List.isEmpty_iff, List.filter_eq_nil_iff]
    intro q hq
    have := List.all_eq_true.mp h q hq
    simp only [Bool.and_eq_true, beq_iff_eq, Bool.not_eq_true'] at this
    simp [L1Line.leaves, this.1, this.2]
  unfold State.flushPart
  dsimp only
  rw [if_pos hn]

/-- A release of CLUSTER or a narrower scope changes nothing. -/
theorem State.syncL1_narrow (s : State) (cl : Nat) {sc : Scope} (h : sc.wider .cluster = false) : s.syncL1 cl sc = s := by
  simp [State.syncL1, h]

/-- An acquire of CLUSTER or a narrower scope changes nothing. -/
theorem State.dropL1_narrow (s : State) (cl : Nat) {sc : Scope} (h : sc.wider .cluster = false) : s.dropL1 cl sc = s := by
  simp [State.dropL1, h]

@[simp] theorem State.homeRecord_clusters (s : State) (r : ScopeRec) : (s.homeRecord r).clusters = s.clusters := by
  unfold State.homeRecord State.hitWatches
  dsimp only
  split
  · rfl
  · split <;> rfl

@[simp] theorem State.sendRecord_clusters (s : State) (cl line : Nat) : (s.sendRecord cl line).clusters = s.clusters := by
  unfold State.sendRecord
  split
  · rfl
  · split
    · split_ifs
      · exact State.homeRecord_clusters _ _
      · rfl
    · exact State.homeRecord_clusters _ _

/-- A record that returns to its home takes no line out of the L1s (R98). -/
theorem State.returnRecord_l1 (s : State) (cl line : Nat) : ((s.returnRecord cl line).cluster cl).l1 = (s.cluster cl).l1 := by
  simp [State.returnRecord, State.cluster, State.setCluster]

/-- After a wider acquire the cluster's L1s hold nothing (R113). -/
theorem State.dropL1_empty (s : State) (cl : Nat) {sc : Scope} (h : sc.wider .cluster = true) : ((s.dropL1 cl sc).cluster cl).l1 = [] := by
  have hf : ∀ (l : List Nat) (s : State), (s.cluster cl).l1 = [] → ((l.foldl (fun s line => s.returnRecord cl line) s).cluster cl).l1 = [] := by
    intro l
    induction l with
    | nil => exact fun s h => h
    | cons a t ih => exact fun s h => ih _ (by rw [State.returnRecord_l1, h])
  simp only [State.dropL1, h, State.purgeL1, State.forgetL1]
  exact hf _ _ (by simp [State.setL1])

theorem State.syncL1_wf {s : State} (cl : Nat) (sc : Scope) (h : Memory.wf s.mem = true) : Memory.wf (s.syncL1 cl sc).mem = true := by
  unfold State.syncL1
  split
  · exact s.flushPart_wf cl _ h
  · exact h

theorem State.dropL1_wf {s : State} (cl : Nat) (sc : Scope) (h : Memory.wf s.mem = true) : Memory.wf (s.dropL1 cl sc).mem = true := by
  unfold State.dropL1
  split
  · exact s.purgeL1_wf cl _ h
  · exact h

/-! ## Windows -/

@[simp] theorem State.expand_mem (s : State) (cl n : Nat) : (s.expand cl n).mem = s.mem := by
  unfold State.expand
  dsimp only
  split_ifs
  · rfl
  · rfl
  · split <;> rfl

@[simp] theorem State.expandKey_mem (s : State) (k : Nat) : (s.expandKey k).mem = s.mem := by
  unfold State.expandKey
  split
  · exact s.expand_mem _ _
  · rfl

@[simp] theorem State.expandRange_mem (s : State) (k n : Nat) : (s.expandRange k n).mem = s.mem := by
  have hf : ∀ (cl n : Nat) (l : List Nat) (s : State), (l.foldl (fun s i => s.expand cl (n + i)) s).mem = s.mem :=
    fun cl n l s => foldl_mem (fun s i => s.expand_mem cl (n + i)) l s
  simp only [State.expandRange]
  split
  · rw [hf]
  · rfl

theorem State.scrambleActive_wf {s : State} (k n : Nat) (h : Memory.wf s.mem = true) : Memory.wf (s.scrambleActive k n).mem = true := by
  unfold State.scrambleActive
  split_ifs
  · exact h
  · refine foldl_wf (fun s q h => foldl_wf (fun s r h => ?_) _ h) _ h
    dsimp only
    split_ifs
    · exact s.scramble_wf _ _ h
    · exact h

/-- A write of a window keeps the canonical form, in an active slot too (R157). -/
theorem State.putWindow_wf {s : State} (k : Nat) (bs : List Byte) (h : Memory.wf s.mem = true) : Memory.wf (s.putWindow k bs).mem = true := by
  refine State.scrambleActive_wf _ _ (State.writeAt_wf _ _ ?_)
  rw [State.expandRange_mem]
  exact h

/-! ## Waiting for loads and stores -/

theorem afterStores_done {s : State} (k : State → Res Unit) (h : s.storesDone s.curCore s.curCtx = true) : afterStores s k = k s := if_pos h

/-- A context waits for its stores, unless it is a handler that meets the fault of one of its program (R299). -/
theorem afterStores_wait {s : State} (k : State → Res Unit) (h : s.storesDone s.curCore s.curCtx = false)
    (hn : (s.me.ih && s.myCore.storeTrapPending s.curCtx) = false) : afterStores s k = .wait s := by
  unfold afterStores
  rw [if_neg (by simp [h]), if_neg (by simp [hn])]

theorem afterStores_trap {s : State} (k : State → Res Unit) (h : s.storesDone s.curCore s.curCtx = false)
    (hn : (s.me.ih && s.myCore.storeTrapPending s.curCtx) = true) : afterStores s k = .trap { code := 11 } none := by
  unfold afterStores
  rw [if_neg (by simp [h]), if_pos hn]

theorem afterLoads_done {s : State} (k : State → Res Unit) (h : s.nothingOwed = true) : afterLoads s k = k s := if_pos h

/-! ## Grants -/

/-- A grant changes nothing of a context but its grant. -/
theorem Ctx.grantIf_cases (x : Ctx) (test : Wait → Bool) (g : Grant) : x.grantIf test g = x ∨ x.grantIf test g = { x with grant := some g } := by
  unfold Ctx.grantIf
  split
  · split
    · exact .inr rfl
    · exact .inl rfl
  · exact .inl rfl

@[simp] theorem Ctx.grantIf_regs (x : Ctx) (test : Wait → Bool) (g : Grant) : (x.grantIf test g).regs = x.regs := by
  rcases x.grantIf_cases test g with h | h <;> rw [h]

@[simp] theorem Ctx.grantIf_live (x : Ctx) (test : Wait → Bool) (g : Grant) : (x.grantIf test g).live = x.live := by
  rcases x.grantIf_cases test g with h | h <;> rw [h]

/-! ## The steward's answers -/

/-- A function of the steward answers the first call of its kind that has no answer: 2 without ASCR.TC where it needs it, 3 for a
reserved byte, or as the function itself says (R366). -/
theorem serveCall_next {name : String} {n k func : Nat} {f : Call → State → Nat × State} {s t : State} :
    serveCall name n k func f s = .next t ↔
      s.pack.steward.up = true ∧ (s.ctx n k).live = true
        ∧ ∃ c, (s.ctx n k).calls.find? (fun c => c.func == func && c.answer.isNone) = some c
          ∧ let r := if func ≤ 3 ∧ ascrTc (s.core n).regs.ascr = false then (2, s) else if c.resvOk = false then (3, s) else f c s
            t = r.2.setCtx n k ((r.2.ctx n k).answered c r.1) := by
  unfold serveCall
  rw [happens_next]
  by_cases h : (!s.pack.steward.up || !(s.ctx n k).live) = true
  · simp only [if_pos h]
    constructor
    · intro e
      cases e
    · rintro ⟨hu, hl, -⟩
      rw [hu, hl] at h
      cases h
  · simp only [if_neg h]
    have hu : s.pack.steward.up = true := by
      cases e : s.pack.steward.up
      · rw [e] at h
        exact absurd rfl h
      · rfl
    have hl : (s.ctx n k).live = true := by
      cases e : (s.ctx n k).live
      · rw [hu, e] at h
        exact absurd rfl h
      · rfl
    cases hf : (s.ctx n k).calls.find? (fun c => c.func == func && c.answer.isNone) with
    | none =>
      constructor
      · intro e
        cases e
      · rintro ⟨-, -, c, hc, -⟩
        cases hc
    | some c =>
      constructor
      · intro e
        exact ⟨hu, hl, c, rfl, (Option.some.inj e).symm⟩
      · rintro ⟨-, -, d, hd, e⟩
        cases hd
        exact congrArg some e.symm

end Sys2Proof.Machine
end

