-- ==== Sys2Proof/Tests/Slice0.lean ====
section
/-! SUPPORT. Tests: words written out from the manual's encodings and their instructions, ill-formed terms that the checks refuse, and
for every statement states and operands that meet its hypotheses. Words are those of the manual's own tables and listings. -/

namespace Sys2Proof.Tests

open Sys2Proof.Machine Sys2Proof.Safety Sys2Proof.Claims

/-! ## Decoding -/

/-- R289–R293: the listings of the loads and stores. -/
theorem test_decode_loads_stores :
    decodeC 0x01710810 none = .ok (.ldb ⟨7, 4, 8, 8, 0, none⟩) ∧ decodeC 0x04710808 none = .ok (.ldhn ⟨7, 4, 8, 4, 0, none⟩)
      ∧ decodeC 0x06710804 none = .ok (.ldwn ⟨7, 4, 8, 2, 0, none⟩) ∧ decodeC 0x07710802 none = .ok (.ldd ⟨7, 4, 8, 1, 0, none⟩)
      ∧ decodeC 0x0B710802 none = .ok (.std ⟨7, 4, 8, 1, 0, none⟩) ∧ decodeC 0x0C710824 none = .ok (.ldxd ⟨7, 4, 8, 9, 0, 0, none⟩)
      ∧ decodeC 0x8F704900 (some 0x12000000) = .ok (.strel ⟨7, 1, 9, 0, 0, some 0x12000000⟩)
      ∧ decodeC 0x8B130900 (some 0x08000200) = .ok (.std ⟨1, 12, 9, 0, 0, some 0x08000200⟩) := by decide

/-- R302, R303, R305–R307: atomics, FENCE, MONITOR, MWAIT. -/
theorem test_decode_atomics_fences :
    decodeC 0x10710802 none = .ok (.aadd ⟨7, 4, 8, 1, 0, none⟩) ∧ decodeC 0x19710802 none = .ok (.acas ⟨7, 4, 8, 1, 0, none⟩)
      ∧ decodeC 0x1A710804 none = .ok (.afadd ⟨7, 4, 8, 2, 0, none⟩) ∧ decodeC 0x1E700028 none = .ok (.fence ⟨7, 0, 0, 0x14, 0, none⟩)
      ∧ decodeC 0x1C714600 none = .ok (.mwait ⟨7, 5, 6, 0, 0, 0, none⟩) ∧ decodeC 0x1D700000 none = .ok (.drainst ⟨7, 0, 0, 0, 0, 0, none⟩) := by
  decide

/-- R43, R108, R161–R166: NOP, LI, CSRs, pointers, ports. -/
theorem test_decode_immediates_csrs :
    decodeC 0x00700000 none = .ok (.nop ⟨7, 0, 0, 0, 0, 0, none⟩) ∧ decodeC 0x22714080 none = .ok (.li ⟨7, 5, 128, none⟩)
      ∧ decodeC 0xA2714000 (some 0x004BA330) = .ok (.li ⟨7, 5, 0, some 0x004BA330⟩)
      ∧ decodeC 0xA3714000 (some 0xF0000000) = .ok (.lih ⟨7, 5, 0, some 0xF0000000⟩)
      ∧ decodeC 0x2475C050 none = .ok (.csrr ⟨7, 23, 0, 0x28, 0, none⟩) ∧ decodeC 0x20714600 none = .ok (.ptrg ⟨7, 5, 6, 0, 0, 0, none⟩)
      ∧ decodeC 0x267F0500 none = .ok (.pbind ⟨7, 60, 5, 0, 0, 0, none⟩) := by decide

/-- R194–R207: the A slot's integer, floating-point and predicate instructions. -/
theorem test_decode_a_slot :
    decodeA 0x125D8515 = .ok (.or ⟨0, 1, 7, 24, 20, 21⟩) ∧ decodeA 0x165C61A6 = .ok (.andn ⟨0, 1, 7, 6, 6, 38⟩)
      ∧ decodeA 0x205D80B0 = .ok (.addi ⟨0, 1, 7, 24, 2, 48⟩) ∧ decodeA 0x225D24A0 = .ok (.shli ⟨0, 1, 7, 18, 18, 32⟩)
      ∧ decodeA 0x2A750280 = .ok (.mov ⟨0, 1, 13, 16, 10, 0⟩) ∧ decodeA 0x3A5E5A56 = .ok (.rndc ⟨0, 1, 7, 37, 41, 22⟩)
      ∧ decodeA 0x411C1042 = .ok (.fadd ⟨0, 4, 7, 1, 1, 2⟩) ∧ decodeA 0x681C5044 = .ok (.cvti ⟨0, 0, 7, 5, 1, 4⟩)
      ∧ decodeA 0x74DFD969 = .ok (.cmplt ⟨0, 3, 7, 61, 37, 41⟩) ∧ decodeA 0x775FD290 = .ok (.cmple ⟨0, 5, 7, 61, 10, 16⟩)
      ∧ decodeA 0x795FE410 = .ok (.cmpun ⟨0, 5, 7, 62, 16, 16⟩) ∧ decodeA 0x7ADFC105 = .ok (.plog ⟨0, 3, 7, 60, 4, 5⟩) := by decide

/-- R86–R104, R140–R145: tensors, queues, counters, engine commands. -/
theorem test_decode_tensors_commands :
    decodeC 0x35130000 none = .ok (.treg ⟨1, 12, 0, 0, 0, 0, none⟩) ∧ decodeC 0x36100C04 none = .ok (.tdropFree ⟨1, 0, 12, 1, 0, 0, none⟩)
      ∧ decodeC 0x27750C48 none = .ok (.tld ⟨7, 20, 12, 18, 0, 0, none⟩) ∧ decodeC 0x38700E2C none = .ok (.tfetch ⟨7, 0, 14, 11, 0, 0, none⟩)
      ∧ decodeC 0xB0700100 (some 1) = .ok (.cwait ⟨7, 0, 1, 0, 0, 0, some 1⟩) ∧ decodeC 0x30700164 none = .ok (.cwait ⟨7, 0, 1, 25, 0, 0, none⟩)
      ∧ decodeC 0x2870CA00 none = .ok (.xcopy ⟨7, 3, 10, 0, 0, 0, none⟩) ∧ decodeC 0x2D705800 none = .ok (.getx ⟨7, 1, 24, 0, 0, 0, none⟩)
      ∧ decodeC 0x3B705454 none = .ok (.qinit ⟨7, 1, 20, 21, 0, 0, none⟩) := by decide

/-- R206–R257, R269–R286: the matrix and vector engines, finish order, relays. -/
theorem test_decode_engines :
    decodeC 0x4270CA00 none = .ok (.mma ⟨7, 3, 10, 0, 0, 0, none⟩) ∧ decodeC 0x4470C500 none = .ok (.mzero ⟨7, 3, 5, 0, 0, 0, none⟩)
      ∧ decodeC 0x40750608 none = .ok (.malloc ⟨7, 20, 6, 2, 0, 0, none⟩) ∧ decodeC 0x4A75D454 none = .ok (.mrdrow ⟨7, 23, 20, 21, 0, 0, none⟩)
      ∧ decodeC 0x49701400 none = .ok (.mjoin ⟨7, 0, 20, 0, 0, 0, none⟩) ∧ decodeC 0x5F70CA00 none = .ok (.vhist ⟨7, 3, 10, 0, 0, 0, none⟩)
      ∧ decodeC 0x60704700 none = .ok (.foenc ⟨7, 1, 7, 0, 0, 0, none⟩) ∧ decodeC 0x63764000 none = .ok (.forun ⟨7, 25, 0, 0, 0, 0, none⟩)
      ∧ decodeC 0x6576C200 none = .ok (.fosheet ⟨7, 27, 2, 0, 0, 0, none⟩) ∧ decodeC 0x66704300 none = .ok (.fograd ⟨7, 1, 3, 0, 0, 0, none⟩)
      ∧ decodeC 0x68700200 none = .ok (.relay ⟨7, 0, 2, 0, 0, 0, none⟩) ∧ decodeC 0x69714004 none = .ok (.rstatAbandon ⟨7, 5, 0, 1, 0, 0, none⟩) := by
  decide

/-- R314–R321: groups, collectives, hurdles. -/
theorem test_decode_groups :
    decodeC 0x6A700A2C none = .ok (.group ⟨7, 0, 10, 11, 0, 0, none⟩) ∧ decodeC 0x6C70CA00 none = .ok (.rscat ⟨7, 3, 10, 0, 0, 0, none⟩)
      ∧ decodeC 0x6E700D02 none = .ok (.hurdle ⟨7, 0, 13, 1, 0, none⟩) := by decide

/-- R345–R368: branches, contexts, tasks, traps, SYS. -/
theorem test_decode_control :
    decodeC 0x70100009 none = .ok (.br ⟨1, 9, none⟩) ∧ decodeC 0x71700040 none = .ok (.call ⟨7, 64, none⟩)
      ∧ decodeC 0x72703700 none = .ok (.jmpr ⟨7, 0, 55, 0, 0, 0, none⟩) ∧ decodeC 0x737249FA none = .ok (.loop ⟨7, 9, 9, -3, 0, none⟩)
      ∧ decodeC 0x7473032C none = .ok (.start ⟨7, 12, 3, 11, 0, 0, none⟩) ∧ decodeC 0x76734C00 none = .ok (.join ⟨7, 13, 12, 0, 0, 0, none⟩)
      ∧ decodeC 0x79708000 none = .ok (.launch ⟨7, 2, 0, 0, 0, 0, none⟩) ∧ decodeC 0x7B100000 none = .ok (.exit ⟨1, 0, 0, 0, 0, 0, none⟩)
      ∧ decodeC 0x7F71C805 none = .ok (.swcall ⟨7, 7, 8, none⟩) ∧ decodeC 0x7F700004 none = .ok (.tlbsync ⟨7, 0, 0, none⟩)
      ∧ decodeC 0x7F718707 none = .ok (.discard ⟨7, 6, 7, none⟩) ∧ decodeC 0x7D700000 none = .ok (.tret ⟨7, 0, 0, 0, 0, 0, none⟩) := by decide

/-! ## Ill-formed terms are refused -/

/-- R47: one term for each reason: a literal where none is accepted, a reserved field, a type outside the set, a register the field does
not permit, a value that the word shows. -/
theorem test_ill_formed :
    (Instr.mov ⟨0, 4, 7, 1, 2, 0⟩).reason = some .type ∧ (Instr.mov ⟨0, 1, 7, 1, 2, 1⟩).reason = some .reserved
      ∧ (Instr.add ⟨0, 1, 7, 58, 2, 3⟩).reason = some .register ∧ (Instr.add ⟨0, 1, 7, 1, 61, 3⟩).reason = some .register
      ∧ (Instr.ptrg ⟨7, 5, 6, 0, 0, 0, some 1⟩).reason = some .literal ∧ (Instr.cwait ⟨7, 0, 1, 2, 0, 0, some 1⟩).reason = some .reserved
      ∧ (Instr.acas ⟨7, 55, 8, 0, 0, none⟩).reason = some .register ∧ (Instr.pbind ⟨7, 5, 5, 0, 0, 0, none⟩).reason = some .register
      ∧ (Instr.xcopy ⟨7, 16, 10, 0, 0, 0, none⟩).reason = some .reserved ∧ (Instr.li ⟨7, 56, 0, none⟩).reason = some .register := by decide

/-- R22, R25, R142, R148, R165, R205, R284, R305, R321, R364: the values that raise reason 6 as far as the word shows them. -/
theorem test_ill_formed_values :
    (Instr.ldd ⟨7, 4, 8, 0, 0, some 0x1C000000⟩).reason = some .value ∧ (Instr.fence ⟨7, 0, 0, 0x04, 0, none⟩).reason = some .value
      ∧ (Instr.hurdle ⟨7, 0, 5, 0, 0, none⟩).reason = some .value ∧ (Instr.hurdle ⟨7, 0, 5, 6, 0, none⟩).reason = some .value
      ∧ (Instr.csrr ⟨7, 0, 0, 9, 0, none⟩).reason = some .value ∧ (Instr.csrw ⟨7, 0, 0, 2, 0, none⟩).reason = some .value
      ∧ (Instr.cmpeq ⟨0, 0, 7, 9, 1, 2⟩).reason = some .value ∧ (Instr.cmpeq ⟨0, 0, 7, 63, 1, 2⟩).reason = none
      ∧ (Instr.tret ⟨7, 3, 0, 0, 0, 0, none⟩).reason = some .reserved ∧ (Instr.xform ⟨7, 5, 8, 0, 0, 0, none⟩).reason = some .value
      ∧ (Instr.cvt ⟨0, 0, 7, 1, 2, 7⟩).reason = some .value := by decide

/-- R46: an unassigned opcode and a C-slot word of the A slot's table are refused. -/
theorem test_unassigned : decodeC 0x3F700000 none = .error .unassigned ∧ decodeA 0x3E7C0000 = .error .unassigned := by decide

/-! ## Witnesses: states and operands that meet the hypotheses of the statements -/

/-- `Issues`, as a test. -/
def issuesB (i : Instr) (s : State) : Bool :=
  s.me.live && !s.viewCtx.regs.predPending (guardPred i.fields.guard) && s.guarded i && (decide (s.curCtx < 11) || seqAllowed s.curCtx i)
    && !s.stalled i && !s.unitBusy i && s.portTrap i == none && s.operandTrap i == none && (!needsOldest i || s.me.pfu == none)

theorem issues_of {i : Instr} {s : State} (h : issuesB i s = true) : Issues i s := by
  simp only [issuesB, Bool.and_eq_true, Bool.or_eq_true, Bool.not_eq_true', decide_eq_true_eq, beq_iff_eq] at h
  obtain ⟨⟨⟨⟨⟨⟨⟨⟨h1, h2⟩, h3⟩, h4⟩, h5⟩, h6⟩, h7⟩, h8⟩, h9⟩ := h
  exact ⟨h1, h2, h3, h4, h5, h6, h7, h8, h9⟩

/-- Core 0 of partition 0, placed by a launch, its control context live on a workspace of one block; the tables at 0x100000 map the first
192 MiB at their own addresses. -/
def base : State :=
  let s0 := State.reset.setPart 0 { Part.reset with
    live := true, clusters := [0], pkey := 7, tc := true, vector := some 0x1000, fsvc := some (0, 0x2000), sqbase := 0x400000 }
  let s1 := s0.setCluster 0 { Cluster.reset with owner := some 0, pkey := 7 }
  let c : Core := { Core.reset with launch := some 0, group := 1, regs := { CoreRegs.reset with ascr := 0x6000000000100005 } }
  let s2 := s1.setCore 0 (c.setCtx 0 { Ctx.reset with live := true, pc := 64, npc := 64, psize := 1, group := 1, launch := some 0 })
  (s2.writeNat 0x100000 8 0x108001).writeNat 0x108000 8 0x5BF

/-- A register of the issuing context is set. -/
def reg (s : State) (n : Nat) (v : Word) : State := s.setMe (s.me.setW n v)

/-- Registers w8 and w9 hold a and b, w10 holds c. -/
def regs3 (a b c : Word) : State := reg (reg (reg base 8 a) 9 b) 10 c

def ofA (t : BitVec 3) : AOps := ⟨0, t, 7, 10, 8, 9⟩

/-- With no b operand. -/
def ofA1 (t : BitVec 3) : AOps := ⟨0, t, 7, 10, 8, 0⟩

def ofCR (d a b : BitVec 6) : CROps := ⟨7, d, a, b, 0, 0, none⟩

def ofCI (d a : BitVec 6) (imm : BitVec 7) : CIOps := ⟨7, d, a, imm, 0, none⟩

/-- The instruction or event gives a next state. -/
def nextB (i : Instr) (s : State) : Bool := exec i s matches .next _

theorem base_inv : Memory.wf base.mem = true := by decide

theorem witness_EncodedInstructionsDecode :
    ((Instr.ldd ⟨15, 63, 59, -64, 1, none⟩).wellFormed = true ∧ (Instr.ldd ⟨15, 63, 59, -64, 1, none⟩).isA = false
      ∧ (Instr.ldd ⟨15, 63, 59, -64, 1, none⟩).isEvent = false)
      ∧ (Instr.add ⟨1, 3, 15, 63, 59, 59⟩).wellFormed = true ∧ (Instr.add ⟨1, 3, 15, 63, 59, 59⟩).isA = true := by decide

theorem witness_DecodedWordsEncodeBack :
    (lBit 0x85A24A00 = (some 0x6D000064 : Option W32).isSome ∧ decodeC 0x85A24A00 (some 0x6D000064) = .ok (.ldw ⟨10, 9, 10, 0, 0, some 0x6D000064⟩))
      ∧ decodeA 0x005C5187 = .ok (.add ⟨0, 1, 7, 5, 6, 7⟩) := by decide

/-- The three traps of an operand: an empty register whose flag is set, a poisoned register, an unbound port; a stall; a unit whose
result is still to come; and a handler's write to an outbound port behind a store fault of its program. -/
theorem witness_OperandsAreAwaitedOrTrap :
    let empty := base.setMe { base.me with regs := base.me.regs.clear 8 }
    let psn := base.setMe { base.me with regs := base.me.regs.fill 8 none }
    let i : Instr := .ptrg ⟨7, 5, 8, 0, 1, 0, none⟩
    let busy := base.setMyCore { base.myCore with owed := [⟨1, 9, some 0, none, some 0, {}, 0⟩] }
    let bound := base.setMyCore { base.myCore with regs := { base.myCore.regs with binds := [some ⟨0, 0⟩, none, none, none] } }
    let late := bound.setMe { bound.me with ih := true, pend := [⟨0, 11, 4, 0, 0x40000000000, 64, 0xF000000000000100⟩] }
    i.isEvent = false ∧ base.me.live = true ∧ base.guarded i = true ∧ base.viewCtx.regs.predPending (guardPred i.fields.guard) = false
      ∧ empty.stalled (.ptrg (ofCR 5 8 0)) = true ∧ (empty.stalled i = false ∧ (empty.operandTrap i).map (·.code) = some 3)
      ∧ (psn.stalled i = false ∧ (psn.operandTrap i).map (·.code) = some 4)
      ∧ busy.unitBusy (.div (ofA 1)) = true ∧ busy.portTrap (.div (ofA 1)) = none
      ∧ (late.portTrap (.ptrg (ofCR 60 8 0))).map (·.code) = some 11
      ∧ base.stalled (.ptrg (ofCR 60 8 0)) = false ∧ (base.operandTrap (.ptrg (ofCR 60 8 0))).map (·.code) = some 5 := by decide

theorem witness_OperandsAreRegistersOrPortWords :
    let s := base.setMyCore { base.myCore with regs := { base.myCore.regs with fifos := [[1, 2], [9], [], [3]] } }
    let one : Instr := .add ⟨0, 1, 7, 5, 59, 56⟩
    let two : Instr := .add ⟨0, 1, 7, 5, 56, 56⟩
    let ins : Instr := .bfi ⟨0, 1, 7, 5, 6, 57⟩
    (one.isA = true ∧ one.fields = .a ⟨0, 1, 7, 5, 59, 56⟩ ∧ (srcsOf one).a.isSome ∧ (srcsOf one).b.isSome
        ∧ (59 : BitVec 6).toNat = 56 + 3 ∧ s.myCore.regs.fifos[3]? = some [3] ∧ s.myCore.regs.fifos[0]? = some [1, 2])
      ∧ (two.isA = true ∧ two.fields = .a ⟨0, 1, 7, 5, 56, 56⟩ ∧ (srcsOf two).a.isSome ∧ (srcsOf two).b.isSome)
      ∧ ins.isA = true ∧ ins.fields = .a ⟨0, 1, 7, 5, 6, 57⟩ ∧ (srcsOf ins).d.isSome ∧ (srcsOf ins).b.isSome
      ∧ s.myCore.regs.fifos[1]? = some [9] := by decide

theorem witness_DestinationsAreWritten :
    let s := base.setMyCore { base.myCore with regs := { base.myCore.regs with binds := [some ⟨0, 0⟩, none, none, some ⟨23, 3⟩] } }
    s.portTarget 60 = some (0, 0) ∧ s.portTarget 63 = some (23, 3) ∧ 3 < (s.core 23).regs.fifos.length
      ∧ s.view = none
      ∧ let e : StoreEntry := ⟨0x4000, 0x4000, 5, 8, 0, .cluster, .rlx, 0, 64, 0, 1, some 0, false, .ready⟩
        let late := { s.setMyCore { s.myCore with su := ⟨[e], List.replicate 8 none, []⟩ } with view := some s.me }
        late.view ≠ none ∧ late.storesDone late.curCore late.curCtx = false ∧ late.portTarget 63 = some (23, 3) := by decide

theorem witness_ASlotFrame :
    (match exec (.add (ofA 1)) (regs3 1 2 0) with | .next t => t.issue == .done | _ => false) = true := by decide

/-- The integer instructions issue with the narrowest and the widest type, on the greatest operands. -/
theorem witness_integer_results : ∀ t ∈ [(0 : BitVec 3), 3], t.toNat < 4 ∧
    [Instr.add (ofA t), .sub (ofA t), .mul (ofA t), .mulh (ofA t), .min (ofA t), .max (ofA t), .and (ofA t), .or (ofA t), .xor (ofA t), .andn (ofA t),
      .shl (ofA t), .shr (ofA t), .sar (ofA t), .rot (ofA t), .addi (ofA t), .andi (ofA t), .shli (ofA t), .shri (ofA t), .sari (ofA t),
      .mov (ofA1 t), .abs (ofA1 t), .neg (ofA1 t), .popc (ofA1 t), .clz (ofA1 t), .sext (ofA1 t), .bfx (ofA t), .bfi (ofA t), .div (ofA t),
      .rem (ofA t), .sel (ofA 7), .nop (ofCR 0 0 0), .li ⟨7, 10, 0, none⟩, .lih ⟨7, 10, 0, some 0xFFFFFFFF⟩, .rndc (ofA t)].all
        (fun i => i.wellFormed && issuesB i (regs3 (-1) (-1) 0)) = true := by decide

theorem test_add_wraps : (valsOf (.add (ofA 1)) (regs3 (-1) 1 0)).a = -1
    ∧ (match exec (.add (ofA 1)) (regs3 (-1) 1 7) with | .next t => t.me.regs.w[10] == 0 | _ => false) = true := by decide

theorem test_div_by_zero :
    (match exec (.div (ofA 1)) (regs3 5 0 7) with | .next t => t.myCore.owed == [⟨0, 10, some (-1), none, some 0, { dz := 1 }, 0⟩] | _ => false) = true := by decide

/-! ### Floating point: the operands' classes at the ends of their ranges -/

theorem witness_floating_arithmetic : ∀ t ∈ [(4 : BitVec 3), 5, 6], (t = 4 ∨ t = 5 ∨ t = 6)
    ∧ [Instr.fadd (ofA t), .fsub (ofA t), .fmul (ofA t), .fma (ofA t), .fms (ofA t), .fdiv (ofA t), .fsqrt (ofA1 t), .fabs (ofA1 t), .fneg (ofA1 t),
      .fclass (ofA1 t), .fmin (ofA t), .fmax (ofA t), .frcp (ofA1 t), .frsq (ofA1 t), .fexp2 (ofA1 t), .flog2 (ofA1 t), .fsin (ofA1 t), .fcos (ofA1 t),
      .ftanh (ofA1 t), .cmpeq ⟨0, t, 7, 17, 8, 9⟩, .cmpne ⟨0, t, 7, 17, 8, 9⟩, .cmplt ⟨0, t, 7, 63, 8, 9⟩, .cmple ⟨0, t, 7, 17, 8, 9⟩,
      .cmpun ⟨0, t, 7, 17, 8, 9⟩].all (fun i => i.wellFormed && issuesB i (regs3 0 0 0)) = true
    ∧ fbits t 0 < 2 ^ fwidth t ∧ expField t (fbits t 0) + 1 < 2 ^ (shape t).1 := by decide

/-- The greatest finite number and the quotient's special operands: an infinity, the default NaN, a signalling NaN, a subnormal. -/
theorem witness_floating_specials : ∀ t ∈ [(4 : BitVec 3), 5, 6],
    (infinity t false - 1 < 2 ^ fwidth t ∧ expField t (infinity t false - 1) + 1 < 2 ^ (shape t).1)
      ∧ (expField t (defaultNan t) + 1 = 2 ^ (shape t).1 ∧ manField t (defaultNan t) ≠ 0)
      ∧ (expField t (infinity t true + 1) + 1 = 2 ^ (shape t).1 ∧ manField t (infinity t true + 1) ≠ 0
        ∧ manField t (infinity t true + 1) < 2 ^ ((shape t).2.1 - 1))
      ∧ (expField t 1 = 0 ∧ manField t 1 ≠ 0)
      ∧ fbits t (valsOf (.fadd (ofA t)) (regs3 (BitVec.ofNat 64 (infinity t false)) (BitVec.ofNat 64 (infinity t true)) 0)).a = infinity t false
      ∧ fbits t (valsOf (.fadd (ofA t)) (regs3 (BitVec.ofNat 64 (infinity t false)) (BitVec.ofNat 64 (infinity t true)) 0)).b = infinity t true := by decide

/-- A divisor and a dividend that are not 0, a square and a negative operand, and a power of two with its reciprocal. -/
theorem witness_division_f16 : val 5 0x3C00 = 1 ∧ val 5 0xBC00 = -1 ∧ val 5 0 = 0 ∧ val 5 0x4000 * val 5 0x3800 = 1
    ∧ manField 5 0x3C00 = 0 ∧ 0 < expField 5 0x3C00 := by
  refine ⟨?_, ?_, ?_, ?_, by decide, by decide⟩ <;> simp [val, shape, expField, manField, negative, fwidth]
  norm_num

theorem witness_division_f32 : val 4 0x3F800000 = 1 ∧ val 4 0xBF800000 = -1 ∧ val 4 0 = 0 ∧ val 4 0x40000000 * val 4 0x3F000000 = 1
    ∧ manField 4 0x3F800000 = 0 ∧ 0 < expField 4 0x3F800000 := by
  refine ⟨?_, ?_, ?_, ?_, by decide, by decide⟩ <;> simp [val, shape, expField, manField, negative, fwidth]
  norm_num

theorem witness_division_bf16 : val 6 0x3F80 = 1 ∧ val 6 0xBF80 = -1 ∧ val 6 0 = 0 ∧ val 6 0x4000 * val 6 0x3F00 = 1
    ∧ manField 6 0x3F80 = 0 ∧ 0 < expField 6 0x3F80 := by
  refine ⟨?_, ?_, ?_, ?_, by decide, by decide⟩ <;> simp [val, shape, expField, manField, negative, fwidth]
  norm_num

theorem witness_ConversionResults : ∀ t ∈ [(0 : BitVec 3), 3, 4, 6], ∀ b ∈ [(0 : BitVec 6), 3, 4, 6], t.toNat < 7 ∧ b.toNat < 7
    ∧ [Instr.cvt ⟨0, t, 7, 10, 8, b⟩, .cvti ⟨0, t, 7, 10, 8, b⟩].all (fun i => i.wellFormed && issuesB i (regs3 0x7FC00000 0 0)) = true := by decide

theorem witness_ComparesAndPredicateLogic : ∀ t ∈ [(0 : BitVec 3), 3, 6], t.toNat < 7
    ∧ [Instr.cmpeq ⟨0, t, 7, 17, 8, 9⟩, .cmpne ⟨0, t, 7, 17, 8, 9⟩, .cmplt ⟨0, t, 7, 17, 8, 9⟩, .cmple ⟨0, t, 7, 63, 8, 9⟩, .cmpun ⟨0, t, 7, 17, 8, 9⟩,
      .plog ⟨0, 0, 7, 17, 0, 6⟩, .plog ⟨0, 7, 7, 63, 7, 0⟩].all (fun i => i.wellFormed && issuesB i (regs3 1 2 0)) = true := by decide

/-! ### The step, guards, registers, branches -/

theorem test_reset_inv : Memory.wf State.reset.mem = true := by decide

/-- A step at reset with `li w5, 7` stored where step fetches: the bundle is fetched, decoded and run. -/
theorem test_step_runs : (match step (State.reset.withFetchWord 32 0x22714007) with
    | .next t => t.me.regs.w[5] == 7 && t.issue == .done | _ => false) = true := by decide

/-- The premises of the statement about the step, in that state. -/
theorem witness_StepRunsTheFetchedInstruction :
    let s := State.reset.withFetchWord 32 0x22714007
    s.agenda = [] ∧ s.pack.power.stopped = false ∧ (pick s.cycle s.choices).isSome = true := by decide

/-- A state with a bundle in memory where core 0's context is, and the context's turn. -/
def fetchState : State := State.reset.withFetchWord 32 0x22714007

theorem witness_step_turn : pick fetchState.cycle fetchState.choices = some (State.issueFrom 0 0) := by rfl

theorem witness_step_fetch :
    let s0 := issueState fetchState 0 0
    s0.me.grant = none ∧ s0.me.pc.toNat % 8 = 0
      ∧ (match s0.place s0.who s0.me.pc 8 with
        | some (.flat va) => match s0.translate 0 va .fetch .cluster with
          | .ok (tr, s1) => decide (tr.pa + 8 ≤ framedEnd) && !s1.lineHeld 0 tr.pa && tr.mt != .uncacheable && !s1.clusterPoison (clusterOf 0) tr.pa 8
            && match takeBundle (s1.clusterBytes (clusterOf 0) tr.pa 8) with
              | some (b, _) => illegalBundle b == none && !s1.viewCtx.regs.predPending (guardPred (guardC b.w0))
                && (lBit b.w0 || !s1.viewCtx.regs.predPending (guardPred (guardA b.w1)))
                && s1.slotA b == none
                && (match s1.slotC b with | some (.ok i) => !s1.stalled i && !s1.unitBusy i | _ => false)
              | none => false
          | .error _ => false
        | _ => false) = true := by decide

/-- Both instructions take effect, with a PBIND first too; the first traps; the second traps; the first waits; the second waits; a RELAY
that runs. -/
theorem witness_BundleInstructionsActTogether :
    let a := Instr.add (ofA 1)
    let c := Instr.li ⟨7, 11, 3, none⟩
    let s := regs3 1 2 0
    let fails := Instr.jmpr (ofCR 0 8 0)
    (match exec c s with
      | .next t => t.issue == .done
        && (match exec a { s with view := some s.me }, exec a { t with view := some s.me } with
          | .next u, .next v => u.issue == .done && v.issue == .done
          | _, _ => false)
      | _ => false) = true
      ∧ (match exec fails s with | .next t => t.issue == .trapped | _ => false) = true
      ∧ (match exec (.add ⟨0, 1, 7, 60, 8, 9⟩) { s with view := some s.me } with | .next u => u.issue == .trapped | _ => false) = true
      ∧ (match exec (.cwait ⟨7, 0, 15, 0, 0, 0, some 5⟩) s with | .next t => t.issue == .waiting | _ => false) = true
      ∧ (let e := s.setMe { s.me with regs := s.me.regs.clear 9 }
        match exec c e, exec a { e with view := some e.me } with | .next t, .next u => t.issue == .done && u.issue == .waiting | _, _ => false) = true := by
  decide

theorem witness_bundles_of_pbind_and_relay :
    let a := Instr.add (ofA 1)
    let p := Instr.pbind (ofCR 60 8 0)
    let s := regs3 0x8000 2 0
    let r := regs3 0x3000 2 0
    let binds := s.myCore.regs.binds
    (match exec p s, exec a { s with view := some s.me } with
      | .next t, .next u => t.issue == .done && u.issue == .done && t.myCore.regs.binds != binds
        && (match exec a { t.withBinds binds with view := some s.me } with | .next v => v.issue == .done | _ => false)
      | _, _ => false) = true
      ∧ (match exec (.relay (ofCR 0 8 0)) r, exec a { r with view := some r.me } with
        | .next t, .next u => t.issue == .waitingRun && u.issue == .done && nextB a { t with view := some r.me } | _, _ => false) = true := by decide

theorem witness_GuardFieldSelectsAPredicate :
    let i := Instr.add ⟨0, 1, 0, 10, 8, 9⟩
    let n := Instr.add ⟨0, 1, 15, 10, 8, 9⟩
    (i.fields.guard.toNat % 8 < 7 ∧ i.isEvent = false ∧ base.me.live = true ∧ base.me.wait = none
        ∧ base.viewCtx.regs.predPending (guardPred i.fields.guard) = false ∧ base.guarded i = false)
      ∧ (Instr.add (ofA 1)).fields.guard = 0b0111 ∧ n.fields.guard = 0b1111
      ∧ guardC 0x00F00000 = 15 ∧ (lBit 0x00F00000 = false ∧ guardA 0x003C0000 = 15) := by decide

/-- A pointer of each form, and one that fails. -/
def converts (a : Word) : Bool :=
  let s := reg base 8 a
  issuesB (.ptrg (ofCR 5 8 0)) s && issuesB (.ptrl (ofCR 5 8 0)) s && (s.place s.who a 1).isSome

theorem witness_PointerConversions : converts 0 = true ∧ converts 0xF1000000000001FF = true ∧ converts 0x0100000000000010 = true
    ∧ converts 0xF000000000000000 = true := by decide

theorem witness_pointer_fails : let s := reg base 8 0x6600000000000000
    issuesB (.ptrg (ofCR 5 8 0)) s = true ∧ issuesB (.ptrl (ofCR 5 8 0)) s = true ∧ (s.place s.who 0x6600000000000000 1).isSome = false := by decide

theorem witness_ControlRegisterReads : ∀ n ∈ [(0 : BitVec 7), 1, 2, 3, 4, 5, 6, 7, 8, 9, 15, 16, 31, 32, 47, 48, 63],
    issuesB (.csrr (ofCI 10 0 n)) base = true ∧ issuesB (.csrw (ofCI 0 8 n)) base = true ∧ csrNumber n none = some n.toNat := by decide

theorem witness_control_register_banks : base.myCore.regs.cc.length = 16 ∧ base.myCore.regs.ev.length = 16
    ∧ issuesB (.csrr ⟨7, 10, 0, 0, 0, some 0x80000000⟩) base = true
    ∧ issuesB (.csrw ⟨7, 0, 8, 0, 0, some 0x80000000⟩) base = true ∧ csrNumber 0 (some 0x80000000) = none
    ∧ (let w : Behind := ⟨0, 1, .word 60 0 0 7⟩
      let s := (reg base 8 0x8317).setMyCore { base.myCore with su := ⟨[], List.replicate 8 none, [w]⟩ }
      (s.myCore.su.behind.any fun q => match q.what with | .word p _ _ _ => p == 60 | .slots _ _ => false) = true)
    ∧ issuesB (.pbind (ofCR 63 8 0)) (reg base 8 0x8317) = true ∧ issuesB (.pbind (ofCR 60 8 0)) (reg base 8 0x0018) = true := by decide

def jumps (a : Word) : Bool := issuesB (.jmpr (ofCR 0 8 0)) (reg base 8 a) && issuesB (.jmprLink (ofCR 0 8 0)) (reg base 8 a)

theorem witness_BranchesTransferControl :
    issuesB (.br ⟨7, -5, none⟩) base = true ∧ issuesB (.call ⟨7, 5, none⟩) base = true
      ∧ jumps 0 = true ∧ jumps 4 = true ∧ jumps 0x0100000000000008 = true ∧ jumps 0xC000000000000000 = true
      ∧ issuesB (.loop (ofCI 8 8 (-3))) (reg base 8 1) = true ∧ issuesB (.loop (ofCI 8 8 (-3))) (reg base 8 0) = true := by decide

theorem test_loop : (valsOf (.loop (ofCI 8 8 (-3))) (reg base 8 1)).a = 1
    ∧ (match exec (.loop (ofCI 8 8 (-3))) (reg base 8 2) with | .next t => t.me.npc == 40 | _ => false) = true := by decide

/-! ### Memory -/

/-- Where the issuing context's access of n bytes at va falls, tested. -/
def atPlace (s : State) (va : Word) (n : Nat) (f : Place → Bool) : Bool :=
  match s.place s.who va n with
  | some p => f p
  | none => false

def quietB (s : State) (norm : Word) (n : Nat) : Bool :=
  !s.scoreHit s.curCore (rangeOf norm n) && !s.faultOverlap (rangeOf norm n) && s.myCore.su.buf.isEmpty && s.me.token == none

/-- The window's first byte for core 0, its last dword, and one in cluster memory. -/
def isWindow (s : State) (va : Word) (n : Nat) (low : Bool) : Bool :=
  atPlace s va n fun p => match p with | .window k norm => decide (k < cmBase) == low && quietB s norm n && !s.poisonedAt k n | _ => false

/-- `NoActiveSlot`, as a test. -/
def noSlotB (s : State) (k n : Nat) : Bool :=
  let c := (k - spBase) / 2 ^ 19
  (s.core c).ctxs.all fun q => q.2.heldSlots.all fun r =>
    decide (k + n ≤ spKey c (q.2.wp.toNat + r.1)) || decide (spKey c (q.2.wp.toNat + r.1 + r.2) ≤ k)

theorem noActive_of {s : State} {k n : Nat} (h : noSlotB s k n = true) : NoActiveSlot s k n := by
  simpa only [NoActiveSlot, noSlotB, List.all_eq_true, Bool.or_eq_true, decide_eq_true_eq] using h

def sp0 : Word := 0xF000000000002100

/-- The base's tables with pages of every kind (R69), 192 MiB each from 0xC000000 on: uncacheable, device, discarded, of the register window,
of the host window, of unbacked addresses, of the other world, and write-through. -/
def paged (n : Nat) : State := base.writeNat (0x108000 + 8 * n) 8
  ([0, 0x002000000C0005BF, 0x003000001800058F, 0x240007BF, 0xFFFC0005BF, 0x0007FFFFF80005BF, 0xC8040005BF, 0x540001BF, 0x00100000600005BF][n]?.getD 0)

theorem mem_of_tabGet {α : Type} {t : Tab α} {k : Nat} {v : α} (h : tabGet t k = some v) : (k, v) ∈ t := by
  induction t with
  | nil => simp [tabGet] at h
  | cons e t ih =>
    obtain ⟨j, w⟩ := e
    simp only [tabGet] at h
    split at h
    · subst_vars
      simp_all
    · exact List.mem_cons_of_mem _ (ih h)

/-- `CachesAgree`, as a test. -/
def agreesB (s : State) : Bool :=
  s.pack.tlines.all (fun l => l.dirty == 0) && s.poison.all (fun g => (granule g).1 == g)
    && s.pack.flines.all fun q => (List.range 4).all fun k => !(q.2.valid.getLsbD k && !q.2.dirty.getLsbD k)
      || ((q.2.hbm.drop (48 * k)).take 48 == s.bytesAt (192 * q.1 + 48 * k) 48 && q.2.hpsn.getLsbD k == s.poisonedAt (192 * q.1 + 48 * k) 48)

theorem agrees_of {s : State} (h : agreesB s = true) : CachesAgree s := by
  simp only [agreesB, Bool.and_eq_true, List.all_eq_true, beq_iff_eq, List.mem_range, Bool.or_eq_true, Bool.not_eq_true', Bool.and_eq_false_iff,
    Bool.not_eq_false'] at h
  refine ⟨h.1.1, h.1.2, fun line e he k hk hv hd => ?_⟩
  rcases h.2 _ (mem_of_tabGet he) k hk with h | h
  · simp_all
  · exact h

/-- `NoTransform`, as a test. -/
def noTransformB (s : State) : Bool := s.cores.all fun p => p.2.eng.cq.all fun c => !c.racing

theorem noTransform_of {s : State} (h : noTransformB s = true) : NoTransform s := by
  simpa only [NoTransform, noTransformB, List.all_eq_true, Bool.not_eq_true'] using h

theorem witness_bad_addresses :
    let s := reg base 8 sp0
    (issuesB (.ldd (ofCI 10 8 1)) s = true ∧ addPtr (valsOf (.ldd (ofCI 10 8 1)) s).a 8 = some 0xF000000000002108)
      ∧ (issuesB (.ldh (ofCI 10 8 0)) (reg base 8 0xF000000000002101) = true)
      ∧ (issuesB (.aadd (ofCI 10 8 0)) (reg base 8 0xF20000000A000000) = true ∧ s.place s.who 0xF20000000A000000 8 = none)
      ∧ (issuesB (.std (ofCI 10 8 1)) (reg base 8 0x00FFFFFFFFFFFFF8) = true ∧ addPtr 0x00FFFFFFFFFFFFF8 8 = none) := by decide

theorem witness_WindowLoadsReturnTheBytes :
    let s := reg (reg base 8 sp0) 9 1
    issuesB (.ldb (ofCI 10 8 0)) s = true ∧ issuesB (.ldxd (ofCR 10 8 9)) s = true
      ∧ issuesB (.ldacq ⟨7, 10, 8, 0, 0, some 0x09000000⟩) s = true ∧ issuesB (.ldd (ofCI 56 8 0)) s = true ∧ s.me.pfu = none
      ∧ isWindow s sp0 1 true = true ∧ isWindow s 0xF000000000002108 8 true = true ∧ isWindow s 0xF200000000000000 8 false = true
      ∧ (match s.place s.who sp0 8 with | some (.window k n) => s.mismatch s.curCore (.window k n) .cluster == none | _ => false) = true
      ∧ Claims.orderOf ⟨7, 10, 8, 0, 0, some 0x09000000⟩ = 1 ∧ scopeOf ⟨7, 10, 8, 0, 0, some 0x09000000⟩ = 2 := by decide

/-- Translation to address pa, tested on its result. -/
def walksTo (s : State) (va : Nat) (acc : Acc) (f : Trans → State → Bool) : Bool :=
  match s.translate s.curCore va acc .cluster with
  | .ok (tr, t) => f tr t
  | .error _ => false

/-- An acquire at CLUSTER scope of a line that core 5 of the cluster released at CORE scope. -/
theorem witness_window_acquire_mismatch :
    let s := (reg base 8 sp0).setCluster 0 { base.cluster 0 with winRecs := [⟨winLine sp0, some (0, 5, .core), 1⟩] }
    issuesB (.ldacq ⟨7, 10, 8, 0, 0, some 0x09000000⟩) s = true ∧ s.me.pfu = none ∧ isWindow s sp0 8 true = true
      ∧ (match s.place s.who sp0 8 with | some (.window k n) => s.mismatch s.curCore (.window k n) .cluster == some (0, 5, .core) | _ => false) = true
      ∧ (match s.place s.who sp0 8 with | some (.window k n) => s.mismatch s.curCore (.window k n) .package != none | _ => false) = true := by decide

theorem witness_memory_loads :
    let s := reg base 8 0x1000
    let i := Instr.ldd (ofCI 10 8 0)
    issuesB i s = true ∧ s.me.pfu = none ∧ Claims.orderOf (ofCI 10 8 0) = 0 ∧ (valsOf i s).a = 0x1000
      ∧ (atPlace s 0x1000 8 fun p => match p with | .flat a => a == 0x1000 && quietB s (mkPtr 0 a) 8 | _ => false) = true
      ∧ (walksTo s 0x1000 .read fun tr t => tr.mt != .device && decide (tr.pa < windowBase) && !s.lineHeld s.curCore tr.pa && !tr.disc && !t.aliasHit s.curCore 0x1000 tr.pa 8) = true := by decide

/-- The issuing context's load or store of `n` bytes at `va`, at a scope. -/
def reaches (s : State) (va : Nat) (acc : Acc) (sc : Scope) (f : Trans → State → Bool) : Bool :=
  (atPlace s (BitVec.ofNat 64 va) 8 fun p => match p with | .flat a => a == va && quietB s (mkPtr 0 a) 8 | _ => false)
    && match s.translate s.curCore va acc sc with
      | .ok (tr, t) => !s.lineHeld s.curCore tr.pa && f tr t
      | .error _ => false

/-- Loads from pages of each kind: write-back with both caches agreeing, uncacheable, device, discarded, register window, an absent
register, host window at SYSTEM scope, write-through. -/
theorem witness_memory_loads_of_each_type :
    let at_ := fun n va => reg (paged n) 8 (BitVec.ofNat 64 va)
    let i := Instr.ldd (ofCI 10 8 0)
    (issuesB i (at_ 1 0xC000000) && reaches (at_ 1 0xC000000) 0xC000000 .read .cluster fun tr t =>
        tr.mt == .uncacheable && !tr.disc && decide (tr.pa + 8 ≤ framedEnd) && !t.aliasHit 0 0xC000000 tr.pa 8) = true
      ∧ (issuesB i (at_ 2 0x18000000) && reaches (at_ 2 0x18000000) 0x18000000 .read .cluster fun tr t =>
        tr.mt == .device && !tr.disc && decide (tr.pa + 8 ≤ framedEnd) && !t.aliasHit 0 0x18000000 tr.pa 8 && (at_ 2 0x18000000).storesDone 0 0) = true
      ∧ (issuesB i (at_ 3 0x24000000) && reaches (at_ 3 0x24000000) 0x24000000 .read .cluster fun tr _ => tr.disc) = true
      ∧ (issuesB i (at_ 4 0x34000020) && reaches (at_ 4 0x34000020) 0x34000020 .read .cluster fun tr t =>
        tr.pa == windowBase + 32 && !tr.disc && !t.aliasHit 0 0x34000020 tr.pa 8 && t.windowRead (t.partOf 0) tr.pa 8 != none) = true
      ∧ (issuesB i (at_ 4 0x34000100) && reaches (at_ 4 0x34000100) 0x34000100 .read .cluster fun tr t =>
        !t.aliasHit 0 0x34000100 tr.pa 8 && t.windowRead (t.partOf 0) tr.pa 8 == none) = true
      ∧ (issuesB (.ldd ⟨7, 10, 8, 0, 0, some 0x18000000⟩) (at_ 5 0x44000000) && reaches (at_ 5 0x44000000) 0x44000000 .read .system fun tr t =>
        tr.pa == hostBase && !tr.disc && !t.aliasHit 0 0x44000000 tr.pa 8) = true
      ∧ (issuesB i (at_ 8 0x60000000) && reaches (at_ 8 0x60000000) 0x60000000 .read .cluster fun tr t =>
        tr.mt == .writeThrough && !tr.disc && decide (tr.pa % 48 + 8 ≤ 48) && !t.aliasHit 0 0x60000000 tr.pa 8 && agreesB t) = true := by decide

/-- The line at 0x1000 with its last release recorded at its home: by core 30 of another cluster at CLUSTER scope. -/
def released (s : State) : State := { s with pack := { s.pack with recs := [⟨21, some (0, 30, .cluster), 1⟩] } }

/-- The home slice of that line is retiring. -/
def retiring (s : State) : State :=
  { s with pack := { s.pack with slices := listSet s.pack.slices (s.pack.flatHome 21) { Slice.reset with state := .flushing } } }

/-- Acquires at PACKAGE scope: with no record, with one that does not match, with one that a retiring slice carries. -/
theorem witness_memory_acquires :
    let i := Instr.ldacq ⟨7, 10, 8, 0, 0, some 0x11000000⟩
    let s := reg base 8 0x1000
    let sp := Spot.flat 0x1000 .writeBack
    Claims.orderOf ⟨7, 10, 8, 0, 0, some 0x11000000⟩ = 1 ∧ scopeOf ⟨7, 10, 8, 0, 0, some 0x11000000⟩ = 4
      ∧ (issuesB i s && reaches s 0x1000 .read .package fun tr t => tr.pa == 0x1000 && tr.mt == .writeBack && t.checkCarried 0 sp .package == none
        && t.mismatch 0 sp .package == none && !((ordered t .package false true).touchLine 0 sp none true).aliasHit 0 0x1000 tr.pa 8) = true
      ∧ (issuesB i (released s) && reaches (released s) 0x1000 .read .package fun _ t => t.checkCarried 0 sp .package == none
        && t.mismatch 0 sp .package == some (0, 30, .cluster)) = true
      ∧ (issuesB i (retiring (released s)) && reaches (retiring (released s)) 0x1000 .read .package fun _ t =>
        t.checkCarried 0 sp .package == some 21) = true := by decide

/-- An address that the tables do not map, one of the other world, and one that maps unbacked memory. -/
theorem witness_memory_loads_trap :
    let s := reg base 8 0x40000000000
    issuesB (.ldd (ofCI 10 8 0)) s = true
      ∧ (match s.translate 0 0x40000000000 .read .cluster with | .error (.page _) => true | _ => false) = true
      ∧ (match (paged 7).translate 0 0x54000000 .read .cluster with | .error .world => true | _ => false) = true
      ∧ (match (paged 6).translate 0 0x48000000 .read .cluster with | .error (.unbacked _) => true | _ => false) = true
      ∧ (atPlace s 0x40000000000 8 fun p => match p with | .flat a => a == 0x40000000000 && quietB s (mkPtr 0 a) 8 | _ => false) = true := by decide

/-- The issuing core's buffer. -/
def buffered (s : State) (b : List StoreEntry) : State := s.setMyCore { s.myCore with su := { s.myCore.su with buf := b } }

def storeAt (va : Word) (n : Nat) : StoreEntry :=
  { va := va, norm := va, data := 0x1122334455667788, size := n, pol := 0, scope := .cluster, order := .rlx, ctx := 0, pc := 64, bundle := 0, group := 1, launch := some 0, ih := false, phase := .ready }

theorem witness_StoresEnterTheBuffer :
    let s := reg (reg base 8 sp0) 9 1
    [Instr.stb (ofCI 10 8 0), .sth (ofCI 10 8 0), .stw (ofCI 10 8 0), .std (ofCI 10 8 0), .stxd (ofCR 10 8 9),
        .strel ⟨7, 10, 8, 0, 0, some 0x0A000000⟩].all (fun i => i.wellFormed && issuesB i s
          && issuesB i (buffered s (List.replicate 32 (storeAt 0xF000000000002300 8)))) = true
      ∧ (atPlace s sp0 8 fun p => !s.scoreHit s.curCore (rangeOf p.norm 8)) = true := by decide

theorem witness_StoresArePerformed :
    let s := buffered base [storeAt 0xF000000000002100 8, storeAt 0x1000 4]
    Inv s ∧ ((s.core 0).su.buf.map (·.size)) = [8, 4] ∧ 0xF0 ≤ tagOf sp0 ∧ windowKey 0 sp0 < cmBase
      ∧ (walksTo s 0x1000 .write fun tr t => tr.mt == .writeBack && decide (tr.pa < windowBase) && decide (tr.pa % 48 + 4 ≤ 48)
          && !t.lineHeld 0 tr.pa) = true ∧ NoActiveSlot s (windowKey 0 sp0) 8 ∧ NoTransform s ∧ s.myCore.su.behind = []
      ∧ cmBase ≤ windowKey 0 0xF200000000000000 := by
  refine ⟨?_, by decide, by decide, by decide, by decide, noActive_of (by decide), noTransform_of (by decide), by decide, by decide⟩
  show Memory.wf _ = true
  decide

/-- Stores to pages of each kind and with each order: a release at CLUSTER scope in the L1s, one at PACKAGE scope, a policy that writes through,
a write-through page, an uncacheable one, the doorbell of the register window, the host window. -/
theorem witness_stores_of_each_type :
    let does := fun (s : State) (va : Nat) (e : StoreEntry) (f : Trans → State → Bool) =>
      let t := buffered s [{ e with va := BitVec.ofNat 64 va, norm := BitVec.ofNat 64 va }]
      t.myCore.su.buf.all (fun x => x.phase == .ready) && noTransformB t && match t.translate 0 va .write e.scope with
        | .ok (tr, u) => !u.lineHeld 0 tr.pa && f tr u
        | .error _ => false
    let e := storeAt 0x1000 8
    (does base 0x1000 { e with order := .rel } fun tr _ => heldInL1 tr.mt 0 .cluster && decide (tr.pa % 48 + 8 ≤ 48)) = true
      ∧ (does base 0x1000 { e with order := .rel, scope := .package } fun tr _ => !heldInL1 tr.mt 0 .package && tr.mt == .writeBack
        && Scope.wider .package .cluster) = true
      ∧ (does base 0x1000 { e with pol := 4 } fun tr _ => !heldInL1 tr.mt 4 .cluster && tr.mt == .writeBack) = true
      ∧ (does (paged 8) 0x60000000 e fun tr _ => tr.mt == .writeThrough && decide (tr.pa + 8 ≤ framedEnd) && decide (tr.pa % 48 + 8 ≤ 48)) = true
      ∧ (does (paged 1) 0xC000000 e fun tr _ => tr.mt == .uncacheable && decide (tr.pa + 8 ≤ framedEnd) && decide (tr.pa % 48 + 8 ≤ 48)) = true
      ∧ (does (paged 4) 0x34000020 e fun tr t => decide (windowBase ≤ tr.pa) && decide (tr.pa < windowEnd)
        && (t.windowWrite (t.partOf 0) tr.pa (natBytes 5 8)).isSome) = true
      ∧ (does (paged 5) 0x44000000 { e with scope := .system } fun tr _ => decide (hostBase ≤ tr.pa)) = true := by decide

/-- A handler whose program's store has faulted issues a release, which meets the fault; the same in a program does not. -/
theorem witness_release_meets_fault :
    let s := reg (reg base 8 sp0) 10 1
    let h := s.setMe { s.me with ih := true, pend := [⟨0, 11, 4, 0, 0x40000000000, 64, 0xF000000000000100⟩] }
    let i := Instr.strel ⟨7, 10, 8, 0, 0, some 0x0A000000⟩
    issuesB i h = true ∧ (Order.ofCode 2).releases = true ∧ h.me.ih = true ∧ h.myCore.storeTrapPending h.curCtx = true ∧ h.me.pfu = none := by decide

theorem witness_FailingStoresAreRecorded :
    let s := buffered base [storeAt 0x40000000000 8]
    Memory.wf s.mem = true ∧ s.myCore.su.slots[0]? = some none
      ∧ (match s.translate 0 0x40000000000 .write .cluster with | .error (.page _) => true | _ => false) = true
      ∧ (match (paged 7).translate 0 0x54000000 .write .cluster with | .error .world => true | _ => false) = true
      ∧ (match (paged 6).translate 0 0x48000000 .write .cluster with | .error (.unbacked _) => true | _ => false) = true := by decide

theorem test_store_is_performed :
    (match exec (.storeLeavesBuffer 0 0) (buffered base [storeAt 0x1000 4]) with
      | .next t => seenNat t 0 0x1000 8 == 0x55667788 && t.natAt 0x1000 8 == 0 | _ => false) = true := by decide

theorem witness_AtomicsReplaceMemory :
    let s := reg (reg base 8 sp0) 10 5
    let f := reg (reg base 8 0x1000) 10 5
    [Instr.aadd (ofCI 10 8 0), .aand (ofCI 10 8 0), .aor (ofCI 10 8 0), .axor (ofCI 10 8 0), .amin (ofCI 10 8 0), .amax (ofCI 10 8 0),
        .aminn (ofCI 10 8 0), .amaxn (ofCI 10 8 0), .aswp (ofCI 10 8 0), .acas (ofCI 10 8 0), .afadd (ofCI 10 8 0)].all
          (fun i => i.wellFormed && issuesB i s && issuesB i f) = true
      ∧ Memory.wf s.mem = true ∧ isWindow s sp0 8 true = true ∧ s.nothingOwed = true ∧ s.storesDone 0 0 = true
      ∧ (walksTo f 0x1000 .atomic fun tr t => tr.mt == .writeBack && decide (tr.pa < windowBase) && !f.lineHeld 0 tr.pa && !t.clusterPoison 0 tr.pa 8 && !t.aliasHit 0 0x1000 tr.pa 8) = true
      ∧ scopeOf (ofCI 10 8 0) = 2 ∧ (memOpts (ofCI 10 8 0) f.me.cpr 8).pol = 0 ∧ noSlotB s (windowKey 0 sp0) 8 = true ∧ s.me.token = none
      ∧ noTransformB s = true ∧ noTransformB f = true := by decide

/-- Atomics of each kind of page, order and scope: acquire and release at PACKAGE scope, with the record matching, not matching, and carried; a
write-through and an uncacheable page; a device page, which traps; the doorbell; the host window at SYSTEM scope. -/
theorem witness_atomics_of_each_type :
    let ar := Instr.aadd ⟨7, 10, 8, 0, 0, some 0x13000000⟩
    let i := Instr.aadd (ofCI 10 8 0)
    let sp := Spot.flat 0x1000 .writeBack
    let at_ := fun n va => reg (reg (paged n) 8 (BitVec.ofNat 64 va)) 10 5
    let s := reg (reg base 8 0x1000) 10 5
    (scopeOf ⟨7, 10, 8, 0, 0, some 0x13000000⟩ = 4 ∧ Claims.orderOf ⟨7, 10, 8, 0, 0, some 0x13000000⟩ = 3)
      ∧ (issuesB ar s && s.nothingOwed && s.storesDone 0 0 && reaches s 0x1000 .atomic .package fun tr t => t.checkCarried 0 sp .package == none
        && t.mismatch 0 sp .package == none && !(ordered t .package true true).aliasHit 0 0x1000 tr.pa 8 && !heldInL1 tr.mt 0 .package
        && agreesB (ordered t .package true true) && !(ordered t .package true true).poisonedAt tr.pa 8) = true
      ∧ (issuesB ar (released s) && reaches (released s) 0x1000 .atomic .package fun _ t => t.checkCarried 0 sp .package == none
        && t.mismatch 0 sp .package != none) = true
      ∧ (issuesB ar (retiring (released s)) && reaches (retiring (released s)) 0x1000 .atomic .package fun _ t => t.checkCarried 0 sp .package == some 21) = true
      ∧ (issuesB i (at_ 8 0x60000000) && reaches (at_ 8 0x60000000) 0x60000000 .atomic .cluster fun tr t =>
        tr.mt == .writeThrough && !t.aliasHit 0 0x60000000 tr.pa 8 && decide (tr.pa + 8 ≤ framedEnd) && decide (tr.pa % 48 + 8 ≤ 48)) = true
      ∧ (issuesB i (at_ 1 0xC000000) && reaches (at_ 1 0xC000000) 0xC000000 .atomic .cluster fun tr t =>
        tr.mt == .uncacheable && !t.aliasHit 0 0xC000000 tr.pa 8 && decide (tr.pa + 8 ≤ framedEnd)) = true
      ∧ (issuesB i (at_ 2 0x18000000) && reaches (at_ 2 0x18000000) 0x18000000 .atomic .cluster fun tr _ => tr.mt == .device) = true
      ∧ (issuesB i (at_ 4 0x34000020) && reaches (at_ 4 0x34000020) 0x34000020 .atomic .cluster fun tr t => !t.aliasHit 0 0x34000020 tr.pa 8
        && t.windowRead (t.partOf 0) tr.pa 8 == some (natBytes 0 8) && (t.windowWrite (t.partOf 0) tr.pa (natBytes 5 8)).isSome) = true
      ∧ (issuesB (.aadd ⟨7, 10, 8, 0, 0, some 0x18000000⟩) (at_ 5 0x44000000) && reaches (at_ 5 0x44000000) 0x44000000 .atomic .system fun tr t =>
        decide (hostBase ≤ tr.pa) && !t.aliasHit 0 0x44000000 tr.pa 8) = true := by decide

/-- A window's line whose record does not match an acquire, and a poisoned word. -/
theorem witness_window_atomics :
    let s := (reg (reg base 8 sp0) 10 5).setCluster 0 { base.cluster 0 with winRecs := [⟨winLine sp0, some (0, 5, .core), 1⟩] }
    let p := { s with poison := [windowKey 0 sp0] }
    issuesB (.aadd ⟨7, 10, 8, 0, 0, some 0x0B000000⟩) s = true ∧ isWindow s sp0 8 true = true
      ∧ (match s.place s.who sp0 8 with | some (.window k n) => s.mismatch 0 (.window k n) .cluster == some (0, 5, .core) | _ => false) = true
      ∧ p.poisonedAt (windowKey 0 sp0) 8 = true ∧ issuesB (.aadd (ofCI 10 8 0)) p = true := by decide

theorem witness_afadd_finite : val 4 0 = 0 ∧ expField 4 0 + 1 < 2 ^ (shape 4).1 := by
  refine ⟨?_, by decide⟩
  simp [val, shape, expField, manField, negative, fwidth]

theorem test_atomic_add :
    (match exec (.aadd (ofCI 10 8 0)) (reg (reg base 8 sp0) 10 5) with
      | .next t => t.natAt (windowKey 0 sp0) 8 == 5 && t.issue == .done | _ => false) = true := by decide

/-- A line of the issuing core's cluster with two dirty bytes, at 0x1000 and behind it. -/
def dirtied (s : State) : State :=
  s.setCluster 0 { s.cluster 0 with
    l1 := [(21, ⟨List.replicate 64 0 ++ [9, 8] ++ List.replicate 126 0, 2, 3 <<< 64, 0, true, [0], false, 1⟩)] }

theorem witness_FencesAndFlushesWriteBack :
    let s := dirtied (reg base 8 0x1000)
    Memory.wf s.mem = true ∧ (s.cluster 0).l1.map Prod.fst = [21] ∧ issuesB (.drainst (ofCR 0 0 0)) s = true
      ∧ issuesB (.fence (ofCI 0 0 2)) s = true ∧ issuesB (.fence (ofCI 0 0 0x1B)) s = true
      ∧ (s.nothingOwed && s.storesDone 0 0) = true
      ∧ issuesB (.cflush (ofCI 0 8 0)) s = true ∧ issuesB (.cflushInv (ofCI 0 8 0)) s = true
      ∧ issuesB (.cflush (ofCI 0 8 0)) (reg base 8 sp0) = true ∧ isWindow s sp0 1 true = true
      ∧ (atPlace s 0x1000 1 fun p => match p with | .flat a => a == 0x1000 && !s.scoreHit 0 (rangeOf (mkPtr 0 (a - a % 192)) 192) && !s.storesToLine (lineOf a) | _ => false) = true
      ∧ (walksTo s 0x1000 .noCheck fun tr _ => tr.mt == .writeBack && !tr.disc && tr.pa == 0x1000 && !s.lineHeld 0 tr.pa) = true
      ∧ agreesB s = true
      ∧ (let u := reg (paged 1) 8 0xC000000
        issuesB (.cflush (ofCI 0 8 0)) u && walksTo u 0xC000000 .noCheck fun tr _ => tr.mt == .uncacheable) = true := by decide

/-- A handler whose program's store has faulted, and which has a store of its own in the buffer. -/
def lateStore (s : State) : State :=
  let t := buffered s [storeAt 0x1000 4]
  t.setMe { t.me with ih := true, pend := [⟨0, 11, 4, 0, 0x40000000000, 64, 0xF000000000000100⟩] }

theorem witness_fences_wait_or_trap :
    let b := buffered base [storeAt 0x1000 4]
    let h := lateStore base
    (b.storesDone 0 0 = false ∧ b.me.ih = false ∧ issuesB (.drainst (ofCR 0 0 0)) b = true ∧ issuesB (.fence (ofCI 0 0 0x1B)) b = true)
      ∧ (h.storesDone 0 0 = false ∧ h.nothingOwed = true ∧ h.me.ih = true ∧ h.myCore.storeTrapPending 0 = true
        ∧ issuesB (.drainst (ofCR 0 0 0)) h = true ∧ issuesB (.fence (ofCI 0 0 0x1B)) h = true) := by decide

theorem test_fence_writes_back :
    (match exec (.fence (ofCI 0 0 0x1B)) (dirtied base) with
      | .next t => t.byteAt 0x1000 == 9 && (t.cluster 0).l1.isEmpty | _ => false) = true := by decide

/-- A watch of the issuing context. -/
def watching (s : State) (code : Nat) : State := s.setMe { s.me with watch := some ⟨windowKey 0 sp0, sp0, 0, 0, 0, false, false, code⟩ }

theorem witness_MonitoredWaiting :
    let s := reg base 8 sp0
    let i := Instr.mwait (ofCR 10 8 0)
    issuesB (.monitor (ofCI 10 8 0)) s = true ∧ isWindow s sp0 8 true = true
      ∧ (let f := reg base 8 0x1000
        issuesB (.monitor (ofCI 10 8 0)) f && (atPlace f 0x1000 8 fun p => p matches .flat _)
          && walksTo f 0x1000 .monitor fun tr _ => tr.mt == .writeBack && decide (tr.pa < backedEnd) && !f.lineHeld 0 tr.pa) = true
      ∧ issuesB i s = true ∧ s.me.grant = none ∧ s.me.watch = none
      ∧ issuesB i (watching s 0) = true ∧ issuesB i (watching s 1) = true
      ∧ issuesB i (s.setMe { s.me with grant := some (.code 2) }) = true := by decide

/-! ### Tensors, queues, counters, commands, bands -/

/-- A record's bytes from its fields: size in bytes and value. -/
def bytesOf (l : List (Nat × Nat)) : List Byte := l.flatMap fun p => natBytes p.2 p.1

/-- Two tiles of 192 bytes of i8 at 0x30000. -/
def desc1 : List Byte := bytesOf [(8, 0x30000), (1, 0), (1, 1), (6, 0), (4, 384), (4, 1), (4, 1), (4, 1), (4, 1), (12, 0), (2, 192), (2, 1), (2, 1), (2, 1), (1, 1), (39, 0)]

def tensor1 : Tensor := ⟨0, 5, desc1, 0x30000, 0x300C0, 4095⟩

/-- Tensor 4095 is registered and one clean pinned line of tile 1 is held. -/
def tensed (s : State) : State :=
  { s with pack := { s.pack with tensors := [(4095, tensor1)], tlines := [⟨4095, 4095, 1, 0x300C0, List.replicate 192 7, 15, 0, 0, true, 0⟩] } }

def usableB (s : State) (id : Nat) (x : Tensor) : Bool :=
  tabGet s.pack.tensors id == some x && x.part == s.partOf s.curCore && x.asid == ascrAsid s.myCore.regs.ascr
    && (field x.desc 56 1 == 1) == ascrSec s.myCore.regs.ascr

theorem witness_TensorInstructionsTakeEffect :
    let s := reg (tensed base) 8 4095
    let t := reg (reg (tensed base) 8 0xFFF00000001) 9 2
    let d := reg (tensed base) 8 4095
    usableB s 4095 tensor1 = true ∧ (issuesB (.tdrop (ofCR 0 8 0)) s && issuesB (.tdropFree (ofCR 0 8 1)) s) = true
      ∧ (issuesB (.tflush (ofCR 0 8 0)) s && issuesB (.tflushInv (ofCR 0 8 1)) s && s.nothingOwed && s.storesDone 0 0) = true
      ∧ (issuesB (.tlook (ofCR 10 8 1)) t && issuesB (.tfetch (ofCR 0 8 0)) t && issuesB (.thalo (ofCR 1 8 9)) t) = true
      ∧ (valsOf (.thalo (ofCR 1 8 9)) t).b = 2 ∧ descCount desc1 = 2
      ∧ issuesB (.tld (ofCR 10 8 0)) d = true ∧ unpackCoords 1 0 = [0, 0, 0, 0]
      ∧ (match d.lineAddr (tensor1.linePtr 0) with | .ok _ => true | _ => false) = true
      ∧ ({ base with cores := tabSet base.cores 0 { base.core 0 with fetches := [(4095, 1)] } }.core 0).fetches = [(4095, 1)] := by decide

/-- A tensor like the first with another base and world. -/
def tensorAt (b w : Nat) : Tensor := { tensor1 with desc := natBytes b 8 ++ (desc1.drop 8).take 48 ++ natBytes w 1 ++ desc1.drop 57 }

/-- The tensor registered under id 4095, no line held. -/
def tensing (s : State) (x : Tensor) : State := { s with pack := { s.pack with tensors := [(4095, x)], tlines := [] } }

/-- An id beyond 4095, one of no tensor, one of the other world, a tile and a coordinate out of range, a count of THALO that is 0, too wide or
too great, a page that is not mapped or is discarded; and THALO with a mark. -/
theorem witness_tensor_faults :
    let s := reg (tensed base) 8 3
    let big := reg (tensed base) 8 0x1000
    let ns := reg (tensing base (tensorAt 0x30000 0)) 8 0xFFF
    let nsT := reg (tensing base (tensorAt 0x30000 0)) 8 0xFFF00000000
    let far := reg (reg (tensed base) 8 0xFFF00000002) 9 2
    let un := reg (reg (tensing base (tensorAt 0x40000000080 1)) 8 0xFFF00000000) 9 3
    let unD := reg (tensing base (tensorAt 0x40000000080 1)) 8 0xFFF
    let th := fun b => reg (reg (tensed base) 8 0xFFF00000001) 9 b
    (issuesB (.tdrop (ofCR 0 8 0)) s && issuesB (.tdrop (ofCR 0 8 0)) big && tabGet s.pack.tensors 3 == none && issuesB (.tlook (ofCR 10 8 1)) (reg s 8 0x300000000)) = true
      ∧ (tabGet ns.pack.tensors 4095 = some (tensorAt 0x30000 0) ∧ (field (tensorAt 0x30000 0).desc 56 1 == 1) = false
        ∧ ascrSec ns.myCore.regs.ascr = true ∧ issuesB (.tflush (ofCR 0 8 0)) ns = true ∧ issuesB (.tfetch (ofCR 0 8 0)) nsT = true)
      ∧ issuesB (.tlook (ofCR 10 8 1)) far = true
      ∧ (issuesB (.thalo (ofCR 1 8 9)) (th 1) && issuesB (.thalo (ofCR 1 8 9)) (th 0x2000) && issuesB (.thalo (ofCR 1 8 9)) (th 4)) = true
      ∧ (issuesB (.thalo (ofCR 1 8 9)) (th 3) && (match (th 3).markTiles 4095 tensor1 true [1] with | .ok (p, _) => p | _ => false)) = true
      ∧ (match (th 2).markTiles 4095 tensor1 false [1] with | .ok _ => true | _ => false) = true
      ∧ (issuesB (.thalo (ofCR 1 8 9)) un && (match un.markTiles 4095 (tensorAt 0x40000000080 1) true [0] with | .error _ => true | _ => false)) = true
      ∧ issuesB (.tld (ofCR 10 8 9)) (reg (reg (tensed base) 8 0xFFF) 9 384) = true ∧ unpackCoords 1 384 = [384, 0, 0, 0] ∧ descDim desc1 0 = 384
      ∧ (match unD.lineAddr ((tensorAt 0x40000000080 1).linePtr 0) with | .error _ => true | _ => false) = true
      ∧ (match (reg (tensing (paged 3) (tensorAt 0x24000000 1)) 8 0xFFF).lineAddr ((tensorAt 0x24000000 1).linePtr 0) with | .ok (tr, _) => tr.disc | _ => false) = true := by
  decide

/-- The clusters' caches hold a dirty line beside the tensor's; a fetch of a core's list. -/
theorem witness_tensor_flush : usableB (dirtied (reg (tensed base) 8 4095)) 4095 tensor1 = true
    ∧ issuesB (.tflush (ofCR 0 8 0)) (dirtied (reg (tensed base) 8 4095)) = true ∧ (base.cluster 0).l1 = [] := by decide

/-- Every id from 1 to 4095 is taken. -/
def manyTensors : Tab Tensor := (List.range 4096).map fun j => (j, tensor1)

theorem tabGet_isSome {α : Type} (t : Tab α) (k : Nat) (h : k ∈ t.map Prod.fst) : (tabGet t k).isSome := by
  induction t with
  | nil => simp at h
  | cons e t ih =>
    obtain ⟨j, v⟩ := e
    simp only [tabGet]
    split
    · rfl
    · exact ih ((List.mem_cons.mp h).resolve_left fun e => by simp_all)

/-- A table with the keys from 0 to 4095 has every id. -/
theorem every_id {t : Tab Tensor} (h : t.map Prod.fst = List.range 4096) (j : Nat) (hj : j < 4096) : (tabGet t j).isSome :=
  tabGet_isSome t j (h ▸ List.mem_range.mpr hj)

/-- What TREG's two page checks leave. -/
def tregLeft (s : State) : Option State :=
  match s.readDesc 0xF000000000002130 12 with
  | .ok d t => (match t.lineAddr (wrapPtr (descBase d) ((backing d).1 - lowOf (descBase d))) with
    | .ok (_, u) => (match u.lineAddr (wrapPtr (descBase d) ((backing d).2 - lowOf (descBase d))) with
      | .ok (_, v) => some v
      | _ => none)
    | _ => none)
  | _ => none

theorem witness_treg_full :
    (match tregLeft { (reg base 8 0xF000000000002130).writeAt (spKey 0 0x2130) desc1 with pack := { base.pack with tensors := manyTensors } } with
      | some v => v.pack.tensors.map Prod.fst == List.range 4096 | none => false) = true := by decide +kernel

/-- TREG of addresses that no place has or that are no multiple of 8 or 48, of a descriptor of the other world, of one that reaches beyond the
space, and of ones whose first or last page is not mapped. -/
theorem witness_treg_faults :
    let at_ := fun (o : Nat) (d : List Byte) => (reg base 8 (mkPtr 0xF0 o)).writeAt (spKey 0 o) d
    let i := Instr.treg (ofCR 10 8 0)
    let reads := fun (o : Nat) (d : List Byte) (f : List Byte → State → Bool) => let s := at_ o d
      issuesB i s && (s.place s.who (mkPtr 0xF0 o) 96).isSome && match s.readDesc (mkPtr 0xF0 o) 12 with | .ok r t => r == d && f r t | _ => false
    let mine := fun (d : List Byte) (t : State) => t.descOk d && (field d 56 1 == 1) == ascrSec t.myCore.regs.ascr
    (issuesB i (reg base 8 0x6600000000000000) && (base.place base.who 0x6600000000000000 96).isNone) = true
      ∧ issuesB i (reg base 8 0xF000000000002131) = true
      ∧ reads 0x2138 desc1 (fun d t => t.descOk d) = true ∧ placeOf (mkPtr 0xF0 0x2138) % 48 = 8
      ∧ reads 0x2130 (tensorAt 0x30000 0).desc (fun d t => t.descOk d && (field d 56 1 == 1) != ascrSec t.myCore.regs.ascr) = true
      ∧ reads 0x2130 (tensorAt (3 * 2 ^ 50 - 192) 1).desc (fun d t => mine d t && decide (3 * 2 ^ 50 ≤ (backing d).2)) = true
      ∧ reads 0x2130 (tensorAt 0x40000000080 1).desc (fun d t => mine d t && decide (0 ≤ (backing d).1) && decide ((backing d).2 < 3 * 2 ^ 50)
        && match t.lineAddr (wrapPtr (descBase d) ((backing d).1 - lowOf (descBase d))) with | .error _ => true | _ => false) = true
      ∧ reads 0x2130 (tensorAt 0xBFFFF40 1).desc (fun d t => mine d t
        && match t.lineAddr (wrapPtr (descBase d) ((backing d).1 - lowOf (descBase d))) with
          | .ok (_, u) => (match u.lineAddr (wrapPtr (descBase d) ((backing d).2 - lowOf (descBase d))) with | .error _ => true | _ => false)
          | _ => false) = true := by decide

/-- A descriptor in the scratchpad is registered under id 1. -/
theorem witness_treg :
    let s := (reg base 8 0xF000000000002130).writeAt (spKey 0 0x2130) desc1
    issuesB (.treg (ofCR 10 8 0)) s = true ∧ (s.place s.who 0xF000000000002130 96).isSome = true ∧ placeOf 0xF000000000002130 % 48 = 0
      ∧ (match s.readDesc 0xF000000000002130 12 with
        | .ok d t => d == desc1 && t.descOk d
          && (match t.lineAddr (wrapPtr (descBase d) ((backing d).1 - lowOf (descBase d))) with
            | .ok (_, u) => (match u.lineAddr (wrapPtr (descBase d) ((backing d).2 - lowOf (descBase d))) with
              | .ok (_, v) => tabGet v.pack.tensors 1 == none
              | _ => false)
            | _ => false)
        | _ => false) = true
      ∧ (backing desc1).1 = 0x30000 ∧ (backing desc1).2 = 0x300C0 := by decide

/-- A queue of four entries, with n of them in use. -/
def queued (s : State) (n : Nat) : State := { s with pack := { s.pack with queues := [⟨0x30000, 0, 4, 8190, (8190 + n) % 8192⟩] } }

def queueB (s : State) (acc : Acc) : Bool :=
  ascrSec s.myCore.regs.ascr && atPlace s 0x30000 1 fun p => match p with
    | .flat a => (match s.translate 0 a acc .package with | .ok (tr, t) => tr.pa == 0x30000 && tr.mt == .writeBack && !t.lineCarried (lineOf 0x30000) && !t.lineHeld 0 0x30000 | _ => false)
    | _ => false

theorem witness_QueueInstructionsTakeEffect :
    let s := reg (reg base 8 0x30000) 9 4
    (issuesB (.qinit (ofCR 1 8 9)) s && issuesB (.qpush (ofCR 1 8 9)) s && issuesB (.qpop (ofCR 10 8 1)) s && issuesB (.qwait (ofCR 0 8 0)) s) = true
      ∧ Memory.wf s.mem = true ∧ lowOf 0x30000 % 192 = 0 ∧ tagOf 0x30000 = 0
      ∧ (queueB s .write && queueB s .atomic && queueB s .read && s.storesDone 0 0) = true
      ∧ (s.samePage 0x30000 0x300DF && (match s.translate 0 0x300DF .write .package with | .ok (tr, _) => tr.pa == 0x300DF | _ => false)) = true
      ∧ (queueB (queued s 4) .atomic && queueB (queued s 0) .read) = true ∧ (8190 + 4) % 8192 = 2
      ∧ issuesB (.qwait (ofCR 0 8 0)) (s.setMe { s.me with wait := some (.queue 0x30000), grant := some .done }) = true := by decide

/-- The head's sector is poisoned; the home slice holds 64 queues already; a waiting context is granted. -/
theorem witness_queue_corners :
    let s := reg (reg base 8 0x30000) 9 4
    let h := homeSlice s.pack.map (bucketOf 0x30000)
    let p : State := { queued s 4 with poison := [(0x30000 + 192 + 8 * (8190 % 4)) / 48 * 48] }
    let full : State := { s with pack := { s.pack with queues := List.replicate 64 ⟨0x60000, h, 4, 0, 0⟩ } }
    (issuesB (.qpop (ofCR 10 8 1)) p && p.poisonedAt (0x30000 + 192 + 8 * (8190 % 4)) 8 && queueB p .atomic && !s.lineHeld 0 0x30000) = true
      ∧ (issuesB (.qinit (ofCR 1 8 9)) full = true ∧ ((full.pack.queues.filter fun q => q.pa ≠ 0x30000).filter fun q => q.slice == h).length = 64)
      ∧ (s.setMe { s.me with wait := some (.queue 0x30000), grant := some (.code 0) }).me.live = true := by decide

/-- The home of a queue's line is retiring; a pointer to a window. -/
theorem witness_queue_carried :
    let s := reg (reg (queued base 2) 8 0x30000) 9 4
    let c : State := { s with pack := { s.pack with slices := listSet s.pack.slices (s.pack.flatHome 1024) { Slice.reset with state := .flushing } } }
    let w := reg (reg base 8 sp0) 9 4
    (issuesB (.qpush (ofCR 1 8 9)) c && issuesB (.qpop (ofCR 10 8 1)) c && issuesB (.qwait (ofCR 0 8 0)) c
        && (match c.translate 0 0x30000 .atomic .package with | .ok (tr, t) => tr.pa == 0x30000 && t.lineCarried (lineOf tr.pa) && !c.lineHeld 0 tr.pa | _ => false)
        && (match c.translate 0 0x30000 .read .package with | .ok (tr, t) => t.lineCarried (lineOf tr.pa) | _ => false)) = true
      ∧ (issuesB (.qpush (ofCR 1 8 9)) w && issuesB (.qpop (ofCR 10 8 1)) w && issuesB (.qwait (ofCR 0 8 0)) w && w.storesDone 0 0
        && atPlace w sp0 1 fun p => p matches .window _ _) = true := by decide

theorem test_qpush : (match exec (.qpush (ofCR 1 8 9)) (queued (reg (reg base 8 0x30000) 9 4) 3) with
    | .next t => t.pack.queues == [⟨0x30000, 0, 4, 8190, 2⟩] && t.me.regs.pred 1 | _ => false) = true := by decide

theorem witness_CountersAreSetAndAwaited :
    let s := reg base 8 0x80000000
    base.myCore.regs.cc[15]? = some Counter.reset
      ∧ (issuesB (.cset ⟨7, 0, 15, 8, 0, 0, none⟩) s && issuesB (.cset ⟨7, 0, 15, 0, 0, 0, some 5⟩) s) = true
      ∧ (issuesB (.ctest ⟨7, 0o60, 15, 8, 0, 0, none⟩) s && issuesB (.cwait ⟨7, 0, 15, 8, 0, 0, none⟩) s && issuesB (.cwait ⟨7, 0, 15, 0, 0, 0, some 0⟩) s) = true
      ∧ decide (0 ≤ ((0 : W32) - 0x80000001).toInt) = true ∧ decide (0 ≤ ((0 : W32) - 0x80000000).toInt) = false
      ∧ (exec (.cwaitComplete 0 0) (s.setMe { s.me with wait := some (.counter 15 0) }) matches .next _) = true := by decide

/-- A record of zeros at the start of the scratchpad's records. -/
theorem witness_CommandsEnterTheirQueues :
    let s := reg base 8 sp0
    (commandForms (ofCR 3 8 0)).all (fun f => f.1.wellFormed && issuesB f.1 s
        && (match s.readRecord (valsOf f.1 s).a f.2.2.2 16 with
          | .ok r t => r.length == 8 * f.2.2.2 && decide ((t.myCore.queue f.2.2.1).length < 8) && t.storesDone 0 0
            && !anyOverlap (t.cmdRanges t.who f.2.1 r false).1 (t.cmdRanges t.who f.2.1 r false).2
          | _ => false)) = true
      ∧ (isWindow s sp0 64 true && isWindow s sp0 96 true) = true
      ∧ (issuesB (.mzero (ofCR 3 8 0)) s && issuesB (.xform (ofCR 10 8 3)) s && issuesB (.xfpoll (ofCR 10 8 0)) s) = true
      ∧ issuesB (.xform ⟨1, 10, 8, 3, 0, 0, none⟩) (s.setMe { s.me with regs := { s.me.regs with g := 2 } }) = true := by decide

theorem witness_getx_register :
    let s := (reg base 8 sp0).writeNat (spKey 0 0x2118) 2 1
    issuesB (.getxReg (ofCR 3 8 10)) s = true
      ∧ (match s.readRecord sp0 8 16 with | .ok r t => field r 24 2 == 1 && field r 8 8 == 0 && field r 26 1 != 15 && t.storesDone 0 0 | _ => false) = true := by decide

theorem witness_full_queue :
    let s := reg base 8 sp0
    let c : Cmd := ⟨0, 0x28, [], 0, 0, 0, 0, 0, none, none, false, 0, 0, 0, .queued, 0, none, none, 0, [], [], [], none, [], false, false, Race.none, none⟩
    let t := s.setMyCore { s.myCore with eng := { s.myCore.eng with mq := List.replicate 8 c, xq := List.replicate 16 c, cphalt := true } }
    issuesB (.mma (ofCR 3 8 0)) t = true ∧ issuesB (.xcopy (ofCR 3 8 0)) t = true ∧ (t.myCore.queue .transfer).length = 16
      ∧ issuesB (.xform (ofCR 10 8 3)) t = true := by decide

/-- A band of one row at the top of the accumulator memory, with n commands pending. -/
def banded (s : State) (n : Nat) (inv : Bool) : State :=
  s.setMyCore { s.myCore with mat := { s.myCore.mat with bands := [⟨511, 1, 127, n, inv, .core, none, [0]⟩] } }

theorem witness_BandInstructionsTakeEffect :
    let s := reg (reg base 8 0xFFFF) 9 0x7F
    ((List.range 1).all fun _ => [Instr.mfree (ofCR 0 8 0), .mjoin (ofCR 0 8 0), .mrdrow (ofCR 10 8 9), .mstat (ofCR 10 8 0)].all
        (fun i => i.wellFormed && issuesB i (banded s 0 false) && issuesB i (banded s 1 false))) = true
      ∧ (valsOf (.mrdrow (ofCR 10 8 9)) s).a.toNat = 127 * 512 + 511 ∧ (valsOf (.mrdrow (ofCR 10 8 9)) s).b.toNat / 128 < 1
      ∧ issuesB (.malloc (ofCR 10 8 1)) (reg base 8 512) = true ∧ base.myCore.mat.bands = []
      ∧ s.curCtx ∈ [0] ∧ (banded s 0 false).myCore.mat.bands = [⟨511, 1, 127, 0, false, .core, none, [0]⟩]
      ∧ (exec (.mjoinComplete 0 0) ((banded s 0 false).setMe { s.me with wait := some (.band 0xFFFF) }) matches .next _) = true := by decide

theorem test_mrdrow : (match exec (.mrdrow (ofCR 10 8 9)) ((banded (reg (reg base 8 0xFFFF) 9 0x7F) 0 false).writeNat (accKey 0 511 127) 4 0x3F800000) with
    | .next t => t.myCore.owed == [⟨0, 10, some 0x3F800000, none, none, {}, 0⟩] | _ => false) = true := by decide

theorem witness_rdone :
    let s := reg base 8 0x77
    let c : Cmd := ⟨0, 0x47, [], 0, 0, 0, 0, 0, none, none, false, 0, 0, 0, .running, 0, none, none, 0, [], [], [], none, [], false, false, Race.none, none⟩
    let t := s.setMyCore { s.myCore with mat := { s.myCore.mat with drains := [⟨c, 1, [some ⟨0, 0x77, true, false, false⟩, none, none, none], 0, 0, [], false⟩] } }
    issuesB (.rdone (ofCR 0 8 0)) t = true ∧ t.me.pfu = none ∧ t.storesDone 0 0 = true := by decide

/-! ### The judge, the relay, groups, engines -/

/-- A finish-order record of one stream whose rows are at most one, its limit 2. -/
def judged (s : State) (j : Judge) : State := withJudge s j

def openJudge (n : Nat) : Judge := { Judge.reset with state := n, record := bytesOf [(13, 0), (1, 1), (50, 0)], fifos := [(0, [0x00000001])] }

theorem witness_JudgeInstructionsTakeEffect :
    let s := reg base 8 1
    let i := Instr.fostep (ofCR 10 8 0)
    (issuesB i s && issuesB (.forun (ofCR 10 8 0)) s && issuesB (.fostat (ofCR 10 8 0)) s && issuesB (.foclose (ofCR 10 8 0)) s
        && issuesB (.fosheet (ofCR 10 8 0)) (reg base 8 sp0)) = true
      ∧ base.myCore.judge.state = 0
      ∧ (issuesB i (judged s (openJudge 1)) && issuesB i (judged s (openJudge 2)) && issuesB (.foclose (ofCR 10 8 0)) (judged s { openJudge 1 with ended := 1 })
        && issuesB i (judged s { openJudge 1 with susp := some (some 0), active := some 0 })
        && issuesB i (judged s { openJudge 3 with ousted := [(0, some 5)] })
        && issuesB i (judged s { openJudge 3 with ousted := [(0, none)] })) = true
      ∧ (valsOf i s).a.toNat = 1 ∧ (valsOf i (reg base 8 1024)).a.toNat = 1024
      ∧ field (openJudge 1).record 13 1 = 1
      ∧ (issuesB (.foclose (ofCR 10 8 0)) (judged s { openJudge 1 with active := some 1 }) = true ∧ (openJudge 1).ended.getLsbD 0 = false
        ∧ tabGetD (openJudge 1).fifos 0 [] = [1] ∧ (1 : W32).getLsbD 31 = false ∧ noTransformB s = true ∧ Memory.wf s.mem = true)
      ∧ issuesB (.fosheet (ofCR 10 8 0)) (judged (reg base 8 sp0) { openJudge 3 with fc := 1, sheet := [5] }) = true
      ∧ isWindow base sp0 4 true = true ∧ noSlotB base (windowKey 0 sp0) 4 = true ∧ base.storesDone 0 0 = true := by decide

/-- Cluster 1 is the partition's, and with v the hub's router has the entry 0x20 (LIVE) for it. -/
def routed (v : Bool) (s : State) : State :=
  let t := s.setCluster 1 { s.cluster 1 with owner := some 0, pkey := 7 }
  { t with pack := { t.pack with routes := if v then [(1, 0x20)] else [] } }

theorem test_fostat : (match exec (.fostat (ofCR 10 8 0)) (judged base { openJudge 2 with fc := 3, reason := 1, ended := 1 }) with
    | .next t => t.me.regs.w[10] == 0x0001000001020003 | _ => false) = true := by decide

/-- An open record (R261): one row of four FP32 weights at the start of core 0's scratchpad, scales at 0x40, limit 2, a band. -/
def openRec : List Byte :=
  bytesOf [(8, 0xF000000000000000), (4, 16), (1, 4), (1, 1), (1, 0), (1, 4), (8, 0xF000000000000040), (8, 0), (2, 2), (1, 0), (1, 2), (4, 0), (2, 0xFFFF), (2, 0), (1, 0), (19, 0)]

theorem witness_foopen :
    let s := (banded (reg base 8 sp0) 0 false).writeAt (spKey 0 0x2100) openRec
    issuesB (.foopen (ofCR 0 8 0)) s = true
      ∧ (match s.readRecord sp0 8 16 with
        | .ok r t => t.openOk r && t.myCore.judge.state == 0 && (t.myCore.band? (BitVec.ofNat 16 (field r 40 2))).any fun b => !b.invalid && decide (field r 42 2 < b.size)
        | _ => false) = true := by decide

/-- The judge consumes: its next arrival is rank 0's head, or every stream has ended. -/
def consuming (r : List Byte) (w : W32) : State :=
  judged (banded base 0 false) { Judge.reset with state := 1, record := r, band := 0xFFFF, fifos := [(0, [w])], susp := some (some 1), active := some 0 }

theorem witness_JudgeTakesArrivals :
    let s := consuming openRec 0x00050000
    let s0 : State := { s with curCore := 0, curCtx := 0, view := none }
    ((routed true s).accepts hubRouter 24 7 = true ∧ (routed true s).accepts hubRouter 24 8 = false ∧ (routed false s).accepts hubRouter 24 7 = false) ∧ heatIn 0x00050000 = 5
      ∧ (s0.me.live && s0.nothingOwed && s0.storesDone 0 0 && !s0.accPoison 0 (jRow s0.myCore.judge) (jN s0.myCore.judge)) = true
      ∧ (match s0.arrivalReads s0.myCore.judge 0x00050000 with | .ok _ _ => true | _ => false) = true
      ∧ nextB (.judgeArrival 0) (consuming openRec 0x80000000) = true := by decide

/-- The same record with the early margin of two lanes, and a threshold. -/
def earlyRec (thr : Nat) : List Byte := openRec.take 14 ++ [2] ++ (openRec.drop 15).take 21 ++ natBytes thr 4 ++ openRec.drop 40

/-- All words are 0 and so is the tail: the margin is met with a threshold of 0, and not with one of 1; the third arrival is the record's last. -/
theorem witness_early_margin : ∀ thr ∈ [0, 0x3F800000],
    let s := consuming (earlyRec thr) 0x00050000
    Memory.wf s.mem = true ∧ field (earlyRec thr) 14 1 / 2 % 2 = 1 ∧ field (earlyRec thr) 34 1 + field (earlyRec thr) 35 1 ≤ jN s.myCore.judge
      ∧ field (earlyRec thr) 35 1 = 2 ∧ field (earlyRec thr) 36 4 = thr ∧ expField 4 thr + 1 < 2 ^ (shape 4).1 ∧ field (earlyRec thr) 32 2 = 2
      ∧ (match s.arrivalReads s.myCore.judge 0x00050000 with | .ok rd _ => rd.2.2 == some 0 | _ => false) = true := by decide

theorem witness_margin_values : val 4 0 = 0 ∧ val 4 0x3F800000 = 1 := by
  constructor <;> simp [val, shape, expField, manField, negative, fwidth]

/-- A relay of context 0 in a state. -/
def relayed (s : State) (n : Nat) : State := withRelay s { Relay.reset with state := n, next := 0xF000000000002100 }

theorem witness_RelayInstructionsTakeEffect :
    let s := reg base 8 0x3000
    let w : State := s.setMe { s.me with wait := some .relay }
    (issuesB (.relay (ofCR 0 8 0)) s && issuesB (.rstat (ofCR 10 8 0)) s && issuesB (.rstatLeg (ofCR 10 8 0)) s && issuesB (.rstatAbandon (ofCR 10 8 0)) s
        && issuesB (.relayResume (ofCR 0 8 0)) (relayed s 3) && issuesB (.relayResume (ofCR 0 8 0)) (relayed s 1)
        && issuesB (.rstatAbandon (ofCR 10 8 0)) (relayed s 2)
        && issuesB (.relayResume (ofCR 0 8 0)) (withRelay s { (relayed s 4).myCore.relay with
            faulted := some 1, targets := [⟨1, 0xF000000000002100, 1, 0, true, some (6, 0, 0, 0)⟩] })) = true
      ∧ (s.place s.who 0x3000 1).isSome = true ∧ s.storesDone 0 0 = true ∧ (relayed s 3).myCore.relay.ownerWp = s.me.wp
      ∧ nextB (.relayEnd 0) (withRelay w { Relay.reset with state := 1, ending := true }) = true
      ∧ ((relayed w 1).legAddress 0xF000000000002100 = false ∧ (relayed w 1).rangesHeld 0 ((relayed w 1).normRange w.who 0xF000000000002100 64) = false) := by decide

/-- A leg (R275–R277): baton, codec and format, route, links, expanded length, K, N, payload; the offset is 0x21F0, the band handle 0xFFFF. -/
def legOf (baton b3 route : Nat) (next alt : Word) (xlen k n band : Nat) (pay : List Byte) : List Byte :=
  let h := bytesOf [(2, 0x5A4C), (1, baton), (1, b3), (2, route), (2, 0), (8, next.toNat), (8, alt.toNat), (4, xlen), (4, pay.length), (2, k), (2, n),
    (4, if xlen = 0 then 0 else 0x21F0), (2, band), (14, 0), (4, 0)]
  h ++ natBytes (legCrc h pay) 4 ++ pay

/-- The next leg stands at the beginning of cluster memory. -/
def atLegs (l : List Byte) : State :=
  let s := base.setMe { base.me with wait := some .relay }
  (withRelay s { Relay.reset with state := 1, next := 0xF200000000000000 }).writeAt (cmKey 0 0) l

/-- The control leg of a baton. -/
def atLeg (baton : Nat) (next alt : Word) : State := atLegs (legOf baton 0 0 next alt 0 0 0 0 [])

def fetchesB (s : State) (n : Nat) : Bool :=
  let q := (s.core n).relay
  q.held == none && !s.rangesHeld n (s.normRange (s.relayWho n) q.next (s.legSpan n q.next))

/-- The sequencer of core 0 fetches a leg of a baton, with a test of it and of the state from which it is performed. -/
def fetchedB (s : State) (baton : Nat) (g : Fetched → State → Bool) : Bool :=
  fetchesB s 0 && s.myCore.relay.state == 1 && !s.myCore.relay.ending && s.legAddress s.myCore.relay.next && match legAt s 0 with
    | .ok f s1 => f.leg.baton == baton && g f (s1.setRelay 0 { (s1.core 0).relay with held := some f.hold })
    | .bad _ _ _ => false

def withStack (s : State) (l : List Word) : State := withRelay s { s.myCore.relay with stack := l }

theorem witness_control_legs :
    fetchedB (atLeg 8 0 0xF200000000001800) 8 (fun _ _ => true) = true
      ∧ fetchedB (atLeg 9 0xF200000000001800 0xF200000000000C00) 9 (fun _ s => s.myCore.relay.stack.isEmpty) = true
      ∧ fetchedB (withStack (atLeg 9 0xF200000000001800 0xF200000000000C00) (List.replicate 8 0)) 9 (fun _ s => s.myCore.relay.stack.length == 8) = true
      ∧ fetchedB (withStack (atLeg 10 0 0) [0xF200000000001800]) 10 (fun _ s => s.myCore.relay.stack == [0xF200000000001800]) = true
      ∧ fetchedB (atLeg 10 0 0) 10 (fun _ s => s.myCore.relay.stack.isEmpty) = true
      ∧ fetchedB (atLeg 11 0 0) 11 (fun _ _ => true) = true
      ∧ fetchedB (atLeg 12 0 0x2000) 12 (fun f _ => f.leg.alt.toNat % 8 == 0) = true
      ∧ fetchedB (atLeg 12 0 0x2001) 12 (fun f s => f.leg.alt.toNat % 8 == 1 && !s.me.ih) = true := by decide +kernel

/-- A leg at an address that no leg may have, and one without its magic number. -/
theorem witness_bad_legs :
    let s := relayed (base.setMe { base.me with wait := some .relay }) 1
    let z := atLegs (List.replicate 64 0)
    (fetchesB s 0 && !s.legAddress s.myCore.relay.next) = true
      ∧ (fetchesB z 0 && match legAt z 0 with | .bad r _ none => r == 16 | _ => false) = true := by decide +kernel

/-- LOAD of eight bytes to cores 0 and 1, and FOW of four bf16 words to core 1 whose judge is open. -/
theorem witness_load_legs :
    let fow := atLegs (legOf 3 0x60 0x1002 0 0 8 4 1 0 [1, 2, 3, 4, 5, 6, 7, 8])
    fetchedB (atLegs (legOf 4 0 0x1003 0 0 8 0 0 0 [1, 2, 3, 4, 5, 6, 7, 8])) 4 (fun f s => f.targets == [0, 1] && f.data == [1, 2, 3, 4, 5, 6, 7, 8]
        && !s.loadWaits 0 f && f.leg.shape == 0x21F0 && f.targets.all (fun m => noSlotB s (spKey m f.leg.shape) 8) && noTransformB s && Memory.wf s.mem) = true
      ∧ fetchedB (fow.setCore 1 { fow.core 1 with judge := openJudge 1 }) 3 (fun f s => f.targets == [1] && s.loadWaits 0 f) = true := by decide +kernel

/-- The matrix queue of a core is full. -/
def filled8 (n : Nat) (s : State) : State :=
  let c : Cmd := ⟨0, 0x42, [], 0, 0, 0, 0, 0, none, none, false, 0, 0, 0, .queued, 0, none, none, 0, [], [], [], none, [], false, false, Race.none, none⟩
  s.setCore n { s.core n with eng := { (s.core n).eng with mq := List.replicate 8 c } }

/-- MMA of cores 0 and 1 with room at both, at one, at none; and as it is held. -/
theorem witness_product_legs :
    let s := atLegs (legOf 1 0 0x1003 0 0 4 4 1 0xFFFF [1, 2, 3, 4])
    let todo := fun (f : Fetched) (s : State) => f.targets.filter fun m => !s.myCore.relay.accepted.contains m
    let now := fun (f : Fetched) (s : State) => (todo f s).filter fun m => decide ((s.core m).eng.mq.length < 8)
    fetchedB s 1 (fun f s => f.targets == [0, 1] && now f s == todo f s && s.myCore.relay.targets.isEmpty && s.myCore.relay.faulted == none) = true
      ∧ fetchedB (filled8 1 s) 1 (fun f s => now f s == [0]) = true
      ∧ fetchedB (filled8 0 (filled8 1 s)) 1 (fun f s => now f s == [] && todo f s == [0, 1]) = true := by decide +kernel

theorem test_exit_leg : (match exec (.legFetch 0) (atLeg 11 0 0) with | .next t => t.myCore.relay.ending && t.myCore.relay.count == 1 | _ => false) = true := by
  decide +kernel

theorem test_relay_end : (match exec (.relayEnd 0) (withRelay (base.setMe { base.me with wait := some .relay }) { Relay.reset with state := 1, ending := true }) with
    | .next t => t.me.pc == 72 && t.me.wait == none && t.myCore.relay.state == 0 | _ => false) = true := by decide

/-- An open episode of the cluster's for n arrivals, where context 1 of core 0 has arrived. -/
def met (n : Nat) (s : State) : State :=
  { s with pack := { s.pack with episodes := [⟨3, 2, 15, 0, 0, n, [(0, 1)], 0, List.replicate 16 9, [], false⟩], nextEpisode := 4 } }

/-- One member: this core. -/
def member0 : List Byte := bytesOf [(2, 0xFFFF), (1, 0), (1, 0), (2, 0), (2, 7), (8, 0)]

/-- An open or complete episode of one arrival, context 0's at its bundle. -/
def episode (s : State) (done : Bool) : State :=
  let t : State := { s with pack := { s.pack with episodes := [⟨3, 2, 15, 0, 0, 1, [(0, 0)], 0, List.replicate 16 9, [0], done⟩], nextEpisode := 4 } }
  t.setMe { t.me with arrivals := [⟨64, 3⟩] }

theorem witness_GroupsHurdlesAndCollectives :
    let g := (reg (reg base 8 sp0) 9 0x1003F).writeAt (spKey 0 0x2100) member0
    let d := reg (reg base 8 sp0) 9 0x13F
    let h := reg base 8 1
    let q : CIOps := ofCI 0 8 0x7A
    let c := reg (reg base 8 sp0) 9 0x1007A
    (issuesB (.group (ofCR 0 8 9)) g && issuesB (.group (ofCR 0 8 9)) d && issuesB (.hurdle q) h && issuesB (.hurdle q) (episode h true)
        && issuesB (.cntsum (ofCR 0 8 9)) (episode c true) && issuesB (.cntsumClr (ofCR 0 8 9)) (episode c true)) = true
      ∧ g.collBusy (g.partOf 0) 63 = false
      ∧ (match g.readRecord sp0 2 16 with | .ok r t => t.groupOk 0 r 1 | _ => false) = true
      ∧ (h.myArrival = none ∧ h.pack.episodes = [] ∧ h.nothingOwed = true ∧ h.storesDone 0 0 = true)
      ∧ ((issuesB (.hurdle q) (met 2 h) && issuesB (.cntsum (ofCR 0 8 9)) (met 2 c) && issuesB (.cntsumClr (ofCR 0 8 9)) (met 2 c)
          && issuesB (.hurdle q) (episode h false) && issuesB (.cntsum (ofCR 0 8 9)) (episode c false)) = true
        ∧ (met 2 h).myArrival = none ∧ (match h.hurdleKey 2 15 2, h.hurdleKey 2 15 1 with
          | some k, some k1 => (met 2 h).pack.episodes.all (fun e => e.joins k && e.n == 2) && k1.n == 1 | _, _ => false) = true)
      ∧ (issuesB (.hurdle (ofCI 0 8 0x78)) h = true ∧ issuesB (.hurdle q) (reg base 8 0) = true ∧ issuesB (.hurdle (ofCI 0 8 5)) h = true
        ∧ h.hurdleKey 5 0 1 = none ∧ issuesB (.cntsum (ofCR 0 8 9)) (reg c 9 0x10078) = true ∧ c.hurdleKey 2 15 1 ≠ none)
      ∧ noSlotB c (windowKey 0 sp0) 128 = true ∧ ((episode h true).myArrival = some 3 ∧ (valsOf (.cntsum (ofCR 0 8 9)) c).b.toNat = 0x1007A) ∧ isWindow c sp0 128 true = true
      ∧ nextB (.hurdleEpisodeComplete 0) (episode h false) = true := by decide

/-- A command as its issue leaves it. -/
def aCmd (op : Nat) (r : List Byte) (st : CmdStatus) : Cmd :=
  ⟨0, op, r, 0xF000000000002100, 0xFFFF, 64, 0, 1, some 0, some 15, false, 0, 0, 1, st, 0, none, none, 0, [], [], [], none, [], false, true, Race.none, none⟩

def transferring (s : State) (l : List Cmd) : State := s.setMyCore { s.myCore with eng := { s.myCore.eng with xq := l } }

/-- A group with a member that is not the partition's, and a collective of group 63 that is unfinished. -/
theorem witness_group_waits :
    let g := (reg (reg base 8 sp0) 9 0x1003F).writeAt (spKey 0 0x2100) (bytesOf [(2, 0xFFFF), (1, 0), (1, 24), (2, 0), (2, 7), (8, 0)])
    let b := transferring base [aCmd 0x6B (bytesOf [(20, 0), (1, 63), (43, 0)]) .queued]
    (issuesB (.group (ofCR 0 8 9)) g && (match g.readRecord sp0 2 16 with | .ok r t => !t.groupOk 0 r 1 | _ => false)) = true
      ∧ b.collBusy 0 63 = true ∧ issuesB (.group (ofCR 0 8 9)) (reg (reg b 8 sp0) 9 0x13F) = true := by decide

theorem witness_collectives :
    let s : State := { base with pack := { base.pack with groups := [(63, ⟨member0, 1, crc32c member0⟩)] } }
    let r := bytesOf [(8, 0xF000000000002200), (8, 0xF000000000002300), (2, 16), (1, 0), (1, 0), (1, 63), (1, 2), (42, 0)]
    let run := transferring s [aCmd 0x6B r .running]
    let park := transferring s [{ aCmd 0x6B r .parked with got := [0], sent := [0] }]
    nextB (.collectiveContribution 0 0 ⟨63, 0, none, crc32c member0, 0x6B, 16, 0, 0, 0, 7⟩) run = true
      ∧ (match park.collPlan 0 { aCmd 0x6B r .parked with got := [0], sent := [0] } with
        | .ok q => park.collDone { aCmd 0x6B r .parked with got := [0], sent := [0] } q | .error _ => false) = true
      ∧ (match run.collPlan 0 (aCmd 0x6B r .running) with
        | .ok q => !run.anyRemote ((aCmd 0x6B r .running).who 0) [(ptrField r 0, q.src)]
          && (match run.readParts ((aCmd 0x6B r .running).who 0) .cluster false [(ptrField r 0, q.src)] [] with
            | .ok (bs, s1) => (match s1.checkResult 0 (aCmd 0x6B r .running) 24 with
              | .ok s2 => (match (s2.sendChunks 0 (aCmd 0x6B r .running) q bs).takeChunk 0 { aCmd 0x6B r .running with payload := bs } q q.me.rank
                  (chunkFor 0x6B q.chunk q.me.rank bs) with | .ok _ => true | .error _ => false)
              | .error _ => false)
            | .error _ => false)
        | .error _ => false) = true := by decide

/-- Two members: cores 0 and 1 of the cluster; and one here and one in package 1 of the pod. -/
def pair (pkg core : Nat) : List Byte := member0 ++ bytesOf [(2, pkg), (1, 0), (1, core), (2, 1), (2, 7), (8, 0)]

/-- Core 0's ALL-GATHER of a group waits parked for the other's part; core 1's has sent to none. -/
def gathering (g : List Byte) : State :=
  let r := bytesOf [(8, 0xF000000000002200), (8, 0xF000000000002300), (2, 16), (1, 0), (1, 0), (1, 63), (1, 2), (42, 0)]
  let s : State := { base with pack := { base.pack with inPod := true, groups := [(63, ⟨g, 2, crc32c g⟩)] } }
  let t := transferring s [{ aCmd 0x6B r .parked with got := [0] }]
  t.setCore 1 { t.core 1 with eng := { (t.core 1).eng with xq := [{ aCmd 0x6B r .parked with payload := List.replicate 16 3, got := [1] }] } }

theorem witness_contributions :
    let s := gathering (pair 0xFFFF 1)
    let c := { aCmd 0x6B (bytesOf [(8, 0xF000000000002200), (8, 0xF000000000002300), (2, 16), (1, 0), (1, 0), (1, 63), (1, 2), (42, 0)]) .parked with got := [0] }
    (match s.collPlan 0 c with
      | .ok q => (q.members.find? fun y => y.rank == 1).any fun m => m.pkg == s.pack.pkg && m.cluster == clusterOf 0 && (match s.collSender c m with
        | some x => x.sent.isEmpty && x.op == c.op && (match s.takeChunk 0 c q 1 (chunkFor x.op q.chunk q.me.rank x.payload) with
          | .ok (_, c1) => c1.got == [1, 0] | .error _ => false)
        | none => false)
      | .error _ => false) = true := by decide

/-- The collective that has all parts ends; one whose destination stands in another package waits for that. -/
theorem witness_collective_ends :
    let s : State := { base with pack := { base.pack with groups := [(63, ⟨member0, 1, crc32c member0⟩)] } }
    let r := bytesOf [(8, 0xF000000000002200), (8, 0xF000000000002300), (2, 16), (1, 0), (1, 0), (1, 63), (1, 2), (42, 0)]
    let c := { aCmd 0x6B r .parked with got := [0], sent := [0] }
    let park := transferring s [c]
    (match park.collPlan 0 c with
      | .ok q => park.collDone c q && !c.sent.contains collWrote && (match park.collEnd 0 c q with | .done t => (t.core 0).regs.cc[15]? == some Counter.reset | _ => false)
      | .error _ => false) = true ∧ c.counter = some 15 ∧ c.leg = none ∧ (park.part (park.partOf 0)).paused = false := by decide

/-- Contributions that the addressed core's port diverts: of another digest, with another capability. -/
theorem witness_diverted_contributions :
    let s := routed true (gathering member0)
    s.pack.inPod = true ∧ (s.groupOf 0 63).isSome = true ∧ (s.groupOf 0 63).all (fun g => g.digest != 1) = true ∧ s.accepts hubRouter 0 8 = false := by decide +kernel

/-- A copy of eight bytes in core 0's scratchpad, its record at 0x100. -/
def copyRec : List Byte := bytesOf [(8, 0xF000000000002200), (8, 0xF000000000002300), (4, 8), (4, 0), (17, 0), (1, 2), (22, 0)]

theorem witness_CopiesMoveTheBytes :
    let s := transferring base [aCmd 0x28 copyRec .running]
    let c := aCmd 0x28 copyRec .running
    Memory.wf s.mem = true ∧ xferOk 0x28 copyRec = true ∧ c.scope.code = 2 ∧ s.myCore.regs.cc[15]? = some Counter.reset
      ∧ (atPlace s 0xF000000000002200 8 fun p => p matches .window _ _) = true ∧ (atPlace s 0xF000000000002300 8 fun p => p matches .window _ _) = true
      ∧ (ptrField copyRec 0 = 0xF000000000002200 ∧ ptrField copyRec 8 = 0xF000000000002300 ∧ field copyRec 16 4 = 8)
      ∧ (atPlace s (ptrUp c.addr 48) 4 fun p => p matches .window _ _) = true
      ∧ (noSlotB s (spKey 0 0x2300) 8 && noSlotB s (spKey 0 0x2130) 4 && noTransformB s && c.race.took.isEmpty && c.race.hit.isEmpty && c.token == none) = true := by decide

theorem test_copy : (match exec (.transferCommandComplete 0 0) ((transferring base [aCmd 0x28 copyRec .running]).writeNat (spKey 0 0x2200) 8 0x0102030405060708) with
    | .next t => t.natAt (spKey 0 0x2300) 8 == 0x0102030405060708 && t.natAt (spKey 0 0x2130) 4 == 8 && t.myCore.eng.xq.isEmpty
    | _ => false) = true := by decide
/-- ALL-GATHER of 16 i8 values at POD scope, in core 0, of a group that has a member in package 1 of the pod. -/
def podRec : List Byte := bytesOf [(8, 0xF000000000002200), (8, 0xF000000000002300), (2, 16), (1, 0), (1, 0), (1, 63), (1, 5), (42, 0)]

def podCmd : Cmd := { aCmd 0x6B podRec .parked with got := [0] }

def podState : State := transferring (routed true (gathering (pair 1 0))) [podCmd]

def podColl : Coll := ⟨[⟨0, 0, 0, 0, 7⟩, ⟨1, 0, 0, 1, 7⟩], ⟨0, 0, 0, 0, 7⟩, 16, 16, 32⟩

theorem pod_plan (h : Config.podMember 1 = true) : podState.collPlan 0 podCmd = .ok podColl := by
  have hg : podState.groupOf 0 (field podCmd.record 20 1) = some ⟨pair 1 0, 2, crc32c (pair 1 0)⟩ := by decide +kernel
  have hf : Fmt.ofCode (field podCmd.record 18 1) = some .i8 := by decide
  have hs : membersOf podState.pack.pkg (pair 1 0) 2 = podColl.members := by decide
  have hm : podColl.members.all (podState.memberIn podCmd.scope 0) = true := by
    have h0 : podState.memberIn podCmd.scope 0 ⟨0, 0, 0, 0, 7⟩ = true := by decide
    have h1 : podState.memberIn podCmd.scope 0 ⟨1, 0, 0, 1, 7⟩ = Config.podMember 1 := by
      unfold State.memberIn
      rw [if_neg (by decide)]
      rw [show (decide (5 ≤ podCmd.scope.code) && podState.pack.inPod) = true by decide, Bool.true_and]
    simpa [podColl] using ⟨h0, h1.trans h⟩
  have he : (podColl.members.find? fun m => m.pkg == podState.pack.pkg && m.global == 0) = some podColl.me := by decide
  unfold State.collPlan
  simp only [hg, hf, hs, he, hm, Bool.and_true]
  rfl

/-- Member 1's chunk, from its package. -/
def podPart : CollPart := ⟨63, 1, some (List.replicate 16 3), crc32c (pair 1 0), 0x6B, 16, 0, 0, 0, 7⟩

theorem witness_pod_contribution :
    podState.pack.inPod = true ∧ podCmd.status = .parked ∧ collAsked ∉ podCmd.sent ∧ podPart.rank ∉ podCmd.got ∧ podPart.inst = podCmd.instNo
      ∧ (podColl.members.find? fun y => y.rank == podPart.rank) = some ⟨1, 0, 0, 1, 7⟩ ∧ field podCmd.record 20 1 = podPart.gid
      ∧ (podState.groupOf 0 podPart.gid).map (·.digest) = some podPart.digest ∧ podState.accepts hubRouter 0 podPart.cap = true
      ∧ podPart.kind = podCmd.op ∧ podPart.count = field podCmd.record 16 2 ∧ podPart.fmt.toNat = field podCmd.record 18 1
      ∧ podPart.op = field podCmd.record 19 1 ∧ podColl.chunk = 16
      ∧ (match podState.takeChunk 0 podCmd podColl 1 (List.replicate 16 3) with | .ok (_, c) => c.got == [1, 0] | .error _ => false) = true := by
  decide +kernel

/-- Its destination in package 1 of the pod. -/
def awayCmd : Cmd :=
  { podCmd with record := podRec.take 8 ++ natBytes 0x0200000000002300 8 ++ podRec.drop 16, got := [1, 0], sent := [collAcked], stores := [] }

theorem pod_end (h : Config.podMember 1 = true) :
    podState.collEnd 0 awayCmd podColl = .park (podState.countEv 0 FEv.none) { awayCmd with sent := [collWrote, collAcked] } := by
  have hp : podState.place (awayCmd.who 0) 0x0200000000002300 1 = some (.remote 1 0x2300) := by
    have : podState.place (awayCmd.who 0) 0x0200000000002300 1 = if Config.podMember 1 then some (.remote 1 0x2300) else none := rfl
    rw [this, if_pos h]
  have ha : podState.anyRemote (awayCmd.who 0) [(ptrField awayCmd.record 8, podColl.dst)] = true := by
    have hr : ptrField awayCmd.record 8 = 0x0200000000002300 := by decide
    have hq : podState.remoteOf (awayCmd.who 0) (ptrField awayCmd.record 8) = some (1, 0x2300) := by
      rw [hr]
      unfold State.remoteOf
      rw [hp]
    simp only [State.anyRemote, List.any_cons, hq, Option.isSome_some, Bool.true_or]
  unfold State.collEnd
  simp only [ha]
  rfl

/-! ### Engine events -/

/-- VFILL of four FP32 words of core 0's scratchpad: the shape stands at 0x2190. -/
def fillRec : List Byte := bytesOf [(16, 0), (8, 0xF000000000002190), (8, 0), (8, 5), (8, 0), (1, 0), (1, 0), (1, 2), (13, 0)]

def shape4 (fmt : Nat) (d1 : Nat) : List Byte :=
  bytesOf [(8, 0xF000000000002400), (1, fmt), (1, 2), (6, 0), (4, 4), (4, d1), (4, 1), (4, 1), (4, 1), (4, 4), (8, 0)]

def filling : State :=
  let s := base.writeAt (spKey 0 0x2190) (shape4 4 1)
  s.setMyCore { s.myCore with eng := { s.myCore.eng with vq := [aCmd 0x5E fillRec .queued] } }

theorem witness_vector_command :
    let x := aCmd 0x5E fillRec .queued
    (∀ y : Range, filling.scoreHit 0 y = false) ∧ vRecordOk 0x5E fillRec = true
      ∧ (match filling.readShapes (x.who 0) 0x5E fillRec x.scope with
        | .ok (v, t) => vShapesOk 0x5E fillRec v && !t.unboundDst 0 (v.dsts 0x5E)
          && (match t.vTranslate (x.who 0) 0x5E (vFn fillRec) v x.scope with
            | .ok u => (match u.checkResult 0 x 52 with | .ok _ => true | _ => false)
            | _ => false)
        | _ => false) = true ∧ nextB (.vectorCommand 0) filling = true := by
  refine ⟨fun _ => rfl, by decide, by decide, by decide⟩

/-- The same command as its start leaves it. -/
def underWay : State :=
  let x := aCmd 0x5E fillRec .queued
  filling.setCmd 0 .vector { x with status := .running, payload := keepShapes fillRec filling (x.who 0) 0x5E x.scope, sent := [vUnderWay] }

theorem witness_vector_completes :
    (match (underWay.core 0).eng.vq with
      | x :: _ => let v := keptShapes x.record x.op x.payload
        x.status == .running && x.got.isEmpty && x.sent.contains vUnderWay && !v.streams
          && !underWay.rangesHeld 0 ((v.srcs x.op ++ v.dsts x.op).flatMap (underWay.shapeRanges (x.who 0)))
          && match (underWay.setCmd 0 .vector x).checkResult 0 x 52 with
            | .ok s1 => (match (s1.setCmd 0 .vector { x with race := Race.none }).vElements 0 x v with
              | .ok (c1, s2) => let c2 := { c1 with race := Race.none }
                (match (((s2.mixHits (underWay.setCmd 0 .vector x) 0 x.race).misuseCmd 0 x (x.race.src ++ x.race.dst)).setCmd 0 .vector c2).writeResult 0 c2 52
                  (c1.got.headD 0) with | .ok _ => true | .error _ => false)
              | .error _ => false)
            | .error _ => false
      | [] => false) = true := by decide

theorem witness_vector_command_starts :
    (∀ y : Range, match filling.readShapes ((aCmd 0x5E fillRec .queued).who 0) 0x5E fillRec .cluster with | .ok (_, t) => t.scoreHit 0 y = false | _ => False)
      ∧ (match filling.readShapes ((aCmd 0x5E fillRec .queued).who 0) 0x5E fillRec .cluster with
        | .ok (v, t) => !v.streams && t.myCore.eng.vq.length == 1 | _ => false) = true := by
  refine ⟨fun _ => rfl, by decide⟩

/-- MZERO of the whole band. -/
def zeroing : State :=
  let s := banded base 1 false
  s.setMyCore { s.myCore with eng := { s.myCore.eng with mq := [aCmd 0x44 [] .queued] } }

theorem witness_matrix_command :
    (match zeroing.mCheck 0 (aCmd 0x44 [] .queued) with
      | .ok (b, v, t) => v.a.isNone && (match t.runMatrix 0 (aCmd 0x44 [] .queued) b v with | .ok _ => true | _ => false)
      | _ => false) = true ∧ nextB (.matrixCommand 0) zeroing = true ∧ ∀ y : Range, zeroing.scoreHit 0 y = false := by
  refine ⟨by decide, by decide, fun _ => rfl⟩

/-- A running MDRAIN whose first buffer is released. -/
def draining : State :=
  let d : Drain := ⟨{ aCmd 0x47 (bytesOf [(64, 0)]) .running with payload := shape4 4 2 }, 2, [some ⟨0, 0x77, true, true, false⟩, none, none, none], 0, 0, [], false⟩
  base.setMyCore { base.myCore with mat := { base.myCore.mat with drains := [d] } }

theorem witness_EngineEventsComeAbout :
    let q := transferring base [aCmd 0x28 copyRec .queued]
    let p := transferring base [{ aCmd 0x2D copyRec .parked with sent := [1] }]
    let h := base.setMyCore { base.myCore with eng := { base.myCore.eng with xq := [{ aCmd 0x28 copyRec .halted with reason := 3 }], xhalt := true } }
    (nextB (.transferCommandStart 0 0) q && nextB (.commandParkResume 0 0 (.complete []) [1]) p && nextB (.tectlDisc 0) h && nextB (.tectlRes 0) h
        && nextB (.tectlCpdisc 0) base && nextB (.tectlCpres 0) base) = true
      ∧ (draining.core 0).mat.drains.all (fun d => d.shape?.isSome && d.lost.isEmpty) = true ∧ nextB (.mdrainRow 0) draining = true := by decide

/-- A transfer command that its copy ends; a collective whose chunks are acknowledged; a remote accumulation with events. -/
theorem witness_more_engine_events :
    let run := transferring base [aCmd 0x28 copyRec .running]
    let x := aCmd 0x28 copyRec .running
    let co := transferring base [aCmd 0x6B (bytesOf [(64, 0)]) .parked]
    (match run.workTransfer 0 x with | .done t => Memory.wf t.mem && x.race.hit.isEmpty | _ => false) = true
      ∧ (let w := transferring base [{ aCmd 0x6B (bytesOf [(64, 0)]) .parked with sent := [collWrote] }]
        nextB (.commandParkResume 0 0 (.complete []) []) w) = true
      ∧ (nextB (.commandParkResume 0 0 (.complete []) []) co
        && nextB (.commandParkResume 0 0 (.complete [(9, 4)]) [1]) (transferring base [{ aCmd 0x2F copyRec .parked with sent := [1] }])) = true
      ∧ ((zeroing.core 0).receptionRow = none ∧ (aCmd 0x44 [] .queued).counted = true) := by decide

/-- An MDRAIN of two rows of one column whose first row is still to be copied, and which has four free buffers. -/
def copying : State :=
  let d : Drain := ⟨{ aCmd 0x47 (bytesOf [(24, 0), (2, 0xFE00), (2, 0), (2, 2), (26, 0), (4, 0x3000), (4, 0)]) .running with payload := shape4 4 2 }, 0, [none, none, none, none], 0, 0, [], false⟩
  base.setMyCore { base.myCore with mat := { base.myCore.mat with drains := [d], bands := [⟨0, 2, 127, 1, false, .core, none, []⟩] } }

theorem witness_mdrain_copies_a_row :
    (copying.core 0).mat.drains.all (fun d => d.shape?.isSome && d.lost.isEmpty && (d.buf? (·.released)).isNone && (d.buf? fun b => !b.queued).isNone
      && drainRows d == 2 && freeBuf d.bufs == some 0 && !copying.bufHeld 0 d 0 && ((copying.core 0).band? d.cmd.handle).isSome && field d.cmd.record 30 1 == 0) = true := by decide

theorem witness_transform :
    let s := base.setMyCore { base.myCore with eng := { base.myCore.eng with cq := [aCmd 0x33 (bytesOf [(64, 0)]) .queued] } }
    let t := s.setCluster 0 { s.cluster 0 with coproc := [[(0, 0)], [], []] }
    (t.nextTransform 0 0).isSome = true ∧ nextB (.transformCommand 0 0) t = true := by decide

/-- A CRC of sixteen bytes of core 0's scratchpad as its issue leaves it (R149). -/
def crcRec : List Byte := bytesOf [(1, 1), (2, 0), (1, 0), (4, 16), (8, 0xF000000000002200), (8, 0xF000000000002300), (40, 0)]

def transformed : State :=
  let q := base.openTransform 0 (aCmd 0x33 crcRec .queued)
  let t := q.2.setMyCore { q.2.myCore with eng := { q.2.myCore.eng with cq := [q.1] } }
  t.setCluster 0 { t.cluster 0 with coproc := [[(0, 0)], [], []] }

theorem witness_transform_completes :
    (match transformed.nextTransform 0 0 with
      | some (m, x) => m == 0 && (match State.runTransform (transformed.misuseCmd m x (x.race.src ++ x.race.dst)) m x with | .ok _ => true | .error _ => false)
      | none => false) = true := by decide +kernel

/-! ### Contexts, launches, tasks -/

/-- A helper is live. -/
def helpers (s : State) (l : List Nat) : State := l.foldl (fun s k => s.setCtx 0 k { s.ctx 0 k with live := true }) s

theorem witness_ContextInstructions :
    let s := reg (reg base 8 0x1000) 9 0x0000000100001000
    let sp := (reg (reg base 8 sp0) 9 1).writeAt (spKey 0 0x2100) (bytesOf [(8, 0x1000), (8, 0x0000000100001000)])
    let full := helpers s [1, 2, 3, 4, 5, 6, 7, 8, 9, 10]
    let busy := { base with cores := tabSet base.cores 0 { base.core 0 with seqs := [⟨.running, 0, 0⟩, ⟨.done, 0, 0⟩, ⟨.fault, 0, 0⟩] } }
    (issuesB (.start (ofCR 10 8 9)) s && issuesB (.start (ofCR 10 8 9)) full && issuesB (.start (ofCR 10 8 9)) (reg base 8 4)
        && workspaceOk 0x0000000100001000 && !workspaceOk 0 && s.codePtr 0x1000 && !s.codePtr 4 && s.storesDone 0 0) = true
      ∧ (issuesB (.fork (ofCR 0 8 9)) sp && issuesB (.fork (ofCR 0 8 9)) (reg base 9 8) && issuesB (.fork (ofCR 0 8 9)) base) = true
      ∧ (match sp.readForks sp0 (maskEngines 1) with | .ok fs t => fs.all (fun f => t.codePtr f.2.1 && workspaceOk f.2.2) && !fs.isEmpty | _ => false) = true
      ∧ (issuesB (.join (ofCR 10 8 0)) (reg busy 8 6) && issuesB (.join (ofCR 10 8 0)) (reg busy 8 1) && issuesB (.join (ofCR 10 8 0)) (reg busy 8 8)) = true
      ∧ (issuesB (.setwp (ofCR 0 9 0)) s && issuesB (.setwp (ofCR 0 8 0)) base && !s.slotsBuffered 0x1000 && s.slotWord 0 0x1000 64 == 0) = true
      ∧ issuesB (.setwp (ofCR 0 9 0)) (s.writeNat (slotKey 0 0x1000 64) 8 4) = true := by decide

/-- SETWP behind a store of the context that is still buffered; EXIT in a sequencer and in a handler. -/
theorem witness_setwp_behind :
    let s := (reg base 9 0x0000000100001000).setMe { (reg base 9 0x0000000100001000).me with bundles := 1 }
    let b := buffered s [storeAt 0x1000 8]
    let q : State := { base.setCtx 0 11 { base.me with wp := 0x1000 } with curCtx := 11 }
    (issuesB (.setwp (ofCR 0 9 0)) b && !b.myCore.su.past b.curCtx b.me.bundles && b.myCore.su.behind.isEmpty && !b.slotsBuffered 0x1000
        && b.me.regs.full == BitVec.allOnes 56 && b.me.regs.pend == 0 && !b.poisonedAt (slotKey 0 0x1000 64) 64 && Memory.wf b.mem) = true
      ∧ s.myCore.su.past s.curCtx s.me.bundles = true ∧ 0 + 576 ≤ 0x1000 ∧ s.me.wp = 0
      ∧ (issuesB (.exit (ofCR 0 0 0)) q && q.nothingOwed && q.storesDone 0 11 && q.myCore.seqs.length == 3) = true := by decide

theorem witness_context_waits :
    let w := fun (x : Wait) => base.setMe { base.me with wait := some x }
    (issuesB (.exit (ofCR 0 0 0)) base && base.nothingOwed && base.storesDone 0 0 && issuesB (.sleep (ofCR 0 8 0)) base
        && issuesB (.world ⟨7, 10, 0, none⟩) base && issuesB (.idle ⟨7, 0, 0, none⟩) base
        && issuesB (.idle ⟨7, 0, 0, none⟩) (base.setMe { base.me with grant := some (.code 0) })) = true
      ∧ (nextB (.joinComplete 0 0) (w (.join 7)) && nextB (.sleepExpiry 0 0) (w (.sleep 0)) && nextB (.mwaitWake 0 0) (w (.watch none))
        && nextB (.mwaitTimeout 0 0) ((watching base 0).setMe { (watching base 0).me with wait := some (.watch (some 0)) })
        && nextB (.idleWake 0 0) ((w .idle).setMe { (w .idle).me with grant := some (.code 0) })) = true := by decide

theorem test_setwp : let s := reg (reg base 8 7) 9 0x0000000100001000
    (match exec (.setwp (ofCR 0 9 0)) (s.writeNat (slotKey 0 0x1000 64) 8 0x48) with
      | .next t => t.me.npc == 0x48 && t.me.wp == 0x1000 && t.slotWord 0 0 64 == 72 && t.slotWord 0 0 8 == 7 && t.me.regs.w[8] == 0 | _ => false) = true := by decide +kernel

/-- A launch of quad 5 of cluster 0 (R337). -/
def launchRec : List Byte := bytesOf [(8, 0x2000), (8, 1), (1, 32), (1, 0), (2, 1), (4, 0), (1, 1), (1, 1), (2, 0), (4, 0x400), (96, 0)]

/-- A launch of the start queue, and one that runs on core 23 with nothing left to do. -/
def launching (s : State) (state : Nat) (r : List Byte) : State :=
  let l : Launch := ⟨0, r, spKey 0 0x2158, state, none, some (0, 3), 0, .cluster, if state = 1 then [23] else [], 0⟩
  let t := s.setPart 0 { s.part 0 with starts := [7] }
  { t with pack := { t.pack with launches := [(7, l)] } }

theorem witness_LaunchesAreQueuedPlacedAndEnded :
    let s := (reg base 8 sp0).writeAt (spKey 0 0x2100) launchRec
    issuesB (.launch (ofCR 3 8 0)) s = true
      ∧ (match s.readRecord sp0 16 64 with
        | .ok r t => (match t.statusPlace sp0 with
          | .ok _ u => launchOk r false && u.clustersOwned 0 r && u.nothingOwed && u.storesDone 0 0 && placedCores r == [20, 21, 22, 23]
          | _ => false)
        | _ => false) = true
      ∧ (let t := launching base 0 launchRec
        (tabGet t.pack.launches 7).all fun l => t.launchFault l launchRec == none
          && t.launchFits 0 launchRec (placedCores launchRec) ((List.range 50).filter fun c => (field launchRec 8 8).testBit c)) = true
      ∧ ((tabGet (launching base 1 launchRec).pack.launches 7).all fun l => !(launching base 1 launchRec).launchBusy 7 l) = true
      ∧ ((launching base 0 launchRec).part 0).starts.head? = some 7 ∧ noSlotB (launching base 0 launchRec) (spKey 0 0x2158) 8 = true
      ∧ (nextB (.launchStart 0) (launching base 0 launchRec) && nextB (.launchComplete 7) (launching base 1 launchRec)) = true := by decide +kernel

theorem witness_launch_fails :
    let r := bytesOf [(8, 0x2000), (8, 2), (1, 32), (1, 0), (2, 1), (4, 0), (1, 1), (1, 1), (2, 0), (4, 0x400), (96, 0)]
    launchOk r false = true ∧ (match (tabGet (launching base 0 r).pack.launches 7) with
      | some l => (launching base 0 r).launchFault l r == some 2 | none => false) = true ∧ base.clustersOwned 0 r = false := by decide

theorem test_launch_complete : (match exec (.launchComplete 7) (launching base 1 launchRec) with
    | .next t => t.natAt (spKey 0 0x2158) 8 == 2 && t.pack.launches.isEmpty && t.myCore.regs.cc[3]? == some ⟨1, false, .cluster⟩ | _ => false) = true := by
  decide +kernel

def aTask : TaskMsg := ⟨0x2000, 1, 2, 3, 4, 3, 1, some 0⟩

/-- A task for core 23 of the cluster itself (R351). -/
def taskRec : List Byte := bytesOf [(8, 0x2000), (8, 1), (8, 2), (8, 3), (8, 4), (2, 0xFFFF), (1, 0xFF), (1, 23), (1, 3), (3, 0), (16, 0)]

def aPfu (st : PfuState) (doomed : Bool) : PfuTask := ⟨5, 0, aTask, none, 0, 0, 15, 0, st, 1, [], [], [⟨spKey 0 0x2080, 8, 0x55, none, 0, .cluster, .rlx, 0xF000000000002080, 0, 0, 0, false⟩], [], doomed, st == .irrevocable⟩

def pfus (s : State) (l : List PfuTask) : State := s.setCluster 0 { s.cluster 0 with pfu := l, pfuSeq := l.length }

theorem witness_tasks_sent :
    let s := (reg base 8 sp0).writeAt (spKey 0 0x2100) taskRec
    let q := (reg base 8 sp0).writeAt (spKey 0 0x2100) (bytesOf [(8, 0x2000), (40, 0), (8, 6), (8, 0)])
    (issuesB (.send (ofCR 0 8 0)) s && issuesB (.taskq (ofCR 3 8 0)) q && issuesB (.taskq (ofCR 3 8 0)) (pfus q [aPfu .irrevocable false])) = true
      ∧ (match s.readRecord sp0 8 16 with
        | .ok r t => sendOk r && t.me.pfu == none && t.nothingOwed && t.storesDone 0 0 && t.myCore.outq.isEmpty | _ => false) = true
      ∧ (match q.readRecord sp0 8 16 with | .ok r t => taskqOk r && field r 48 8 == 6 && t.storesDone 0 0 | _ => false) = true
      ∧ (sendOk (bytesOf [(8, 4), (56, 0)]) = false ∧ taskqOk (bytesOf [(8, 4), (56, 0)]) = false) := by decide

theorem witness_tasks_speculative :
    let s := ((pfus base [aPfu .running false]).setMe { base.me with pfu := some 0 }).writeAt (spKey 0 0x2100) taskRec
    let t := reg (s.setCluster 0 { s.cluster 0 with pfu := [{ aPfu .running false with ctx := 0 }] }) 8 sp0
    issuesB (.send (ofCR 0 8 0)) t = true ∧ (match t.readRecord sp0 8 16 with
      | .ok r u => u.spec.isSome && sendOk r && field r 40 2 == 0xFFFF && field r 42 1 == 0xFF && u.nothingOwed && u.storesDone 0 0 | _ => false) = true := by decide

/-- Pod-wide address space 3 is the partition's. -/
def spaced : State := { base with pack := { base.pack with podSpaces := [(3, ⟨0, 0x6000000000100005, 5⟩)] } }

theorem witness_TasksAreSentHeldAndRun :
    let out := base.setMyCore { base.myCore with outq := [⟨0, 0, 0, 7, none, aTask⟩, ⟨1, 0, 23, 7, none, aTask⟩] }
    let run := base.setMyCore { base.myCore with runq := [⟨aTask, 3, 0, none, none⟩, ⟨aTask, 0, 0, none, none⟩] }
    (base.capOk 0 7 && !base.capOk 0 6 && (base.core 0).launch.isSome) = true
      ∧ (nextB (.taskArrival (.pod 0 0 7 none aTask)) base && nextB (.taskArrival (.buffer 0 0)) out && nextB (.taskArrival (.buffer 0 1)) out
        && nextB (.taskDispatch 0) run) = true
      ∧ ((spaced.podOk 0 (some 3) && nextB (.taskArrival (.pod 0 0 7 (some 3) aTask)) spaced) && base.accepts hubRouter 0 7 && base.accepts (clusterOf 0) 23 7) = true ∧ noSlotB base (spKey 0 0x2080) 8 = true
      ∧ (firstPending [aPfu .pending false] = some (aPfu .pending false) ∧ (pfus base [aPfu .pending false]).pfuCore 0 = some (0, 1)
        ∧ nextB (.pfuTaskStart 0) (pfus base [aPfu .pending false]) = true)
      ∧ (let t := pfus base [aPfu .finished false]
        t.pfuOldest 0 (aPfu .finished false) && !t.heldsWait (aPfu .finished false) && noTransformB t) = true
      ∧ (nextB (.pfuCommit 0) (pfus base [aPfu .finished false]) && nextB (.pfuAbort 0 0) (pfus base [aPfu .finished true])
        && nextB (.paceUpdate 0) { base with cycle := 4096 }) = true := by decide

theorem test_task_dispatch : (match exec (.taskDispatch 0) (base.setMyCore { base.myCore with runq := [⟨{ aTask with p0 := 9 }, 3, 0, none, none⟩, ⟨aTask, 0, 0, none, none⟩] }) with
    | .next t => (t.ctx 0 1).live && (t.ctx 0 1).regs.w[0] == 1 | _ => false) = true := by decide

/-! ### Traps, invalidations, the steward -/

/-- The unit commits a task whose held write goes to a write-back page, and one that holds no write; a helper takes a migrated task. -/
theorem witness_commits_and_migrants :
    let h : HeldWrite := ⟨0x1000, 8, 0x55, some .writeBack, 0, .cluster, .rlx, 0x1000, 0, 201326592, 5, false⟩
    let a := { aPfu .finished false with held := [h] }
    let run := base.setMyCore { base.myCore with runq := [⟨aTask, 3, 0, some ⟨List.replicate 1024 0, 1, 2, 9, ⟨2, 9, none⟩⟩, none⟩] }
    ((pfus base [a]).heldsWait a == false && (pfus base [a]).pfuOldest 0 a && nextB (.pfuCommit 0) (pfus base [a])) = true
      ∧ (h.key + h.size ≤ framedEnd ∧ h.key % 48 + h.size ≤ 48 ∧ h.scope.code ≤ 2 ∧ h.order.releases = false)
      ∧ nextB (.pfuCommit 0) (pfus base [{ aPfu .finished false with held := [] }]) = true
      ∧ (nextB (.taskDispatch 0) run && (base.ctx 0 1).live == false && !(base.part 0).paused && !(base.core 0).lost) = true := by decide

/-- The package is in a pod, with one space installed. -/
def podded (s : State) : State := { s with pack := { s.pack with inPod := true, podSpaces := [(3, ⟨0, 0x6000000000100005, 5⟩)] } }

/-- The issuing context is in a handler whose slot 64 holds an address. -/
def handling (s : State) (pc : Nat) : State := (s.setMe { s.me with ih := true }).writeNat (slotKey 0 0 64) 8 pc

theorem witness_TrapsAreTaken :
    let s := base.setCtx 0 2 { base.ctx 0 2 with live := true, psize := 1, wp := 0x1000, pend := [⟨3, 11, 1, 0, 0x40, 64, 0⟩] }
    let q := { base with cores := tabSet base.cores 0 ((base.core 0).setCtx 12 { (base.core 0).ctx 12 with live := true, psize := 1, wp := 0x2000, pend := [⟨3, 11, 1, 0, 0x40, 64, 0⟩] }) }
    issuesB (.trap (ofCI 0 8 5)) base = true
      ∧ (base.curCtx < 11 ∧ base.me.ih = false ∧ (base.part (base.partOf 0)).vector = some 0x1000)
      ∧ ((base.settle 0 0).me.regs.full.getLsbD 54 = true ∧ (base.settle 0 0).me.regs.full.getLsbD 55 = true)
      ∧ (nextB (.trapDelivery 0 2) s && nextB (.sequencerFault 0 1) q) = true := by decide

/-- A trap that waits for w54 is kept; kept, and with the register full, it is taken in place of the next bundle; in a sequencer, and without a
vector, the context ends. -/
theorem witness_traps_wait :
    let w := base.setMe { base.me with regs := base.me.regs.clear 54 }
    let l : Latched := ⟨15, 0, 0, false, 5, 64, 0, 72⟩
    let g := base.setMe { base.me with grant := some (.trapping l) }
    let q : State := { base.setCtx 0 11 { base.me with wp := 0x1000 } with curCtx := 11 }
    (w.settle 0 0).me.regs.full.getLsbD 54 = false ∧ issuesB (.trap (ofCI 0 8 5)) w = true
      ∧ (g.me.grant = some (.trapping l) ∧ (g.settle 0 0).me.regs.full.getLsbD 54 = true ∧ (match g.runBundle with | .next t => t.me.pc == 0x1000 && t.me.ih | _ => false) = true)
      ∧ (11 ≤ q.curCtx ∧ q.myCore.seqs.length = 3) ∧ (base.setPart 0 { base.part 0 with vector := none }).me.live = true := by decide

theorem test_trap : (match exec (.trap (ofCI 0 8 5)) base with
    | .next t => t.me.pc == 0x1000 && t.me.ih && t.me.regs.w[55] == 15 && t.slotWord 0 0 64 == 72 && t.slotWord 0 0 69 == 5 | _ => false) = true := by decide

theorem witness_TrapReturns :
    let s := handling (reg base 8 1) 0x80
    (issuesB (.tret (ofCR 0 0 0)) s && issuesB (.tretTerm (ofCR 0 8 0)) s && issuesB (.tretTermall (ofCR 0 8 0)) (reg s 8 2)
        && issuesB (.tret (ofCR 0 0 0)) (handling base 0x84) && issuesB (.tret (ofCR 0 0 0)) base) = true
      ∧ s.myCore.storesOut 0 = false ∧ s.slotWord 0 0 64 = 0x80
      ∧ (issuesB (.tretTermall (ofCR 0 8 0)) (podded s) && issuesB (.tretTermall (ofCR 0 8 0)) ((podded s).setMe { s.me with grant := some .done })) = true
      ∧ nextB (.migrationNotice ⟨0, 0, .terminated⟩) (s.setMe { s.me with wait := some .terminate }) = true := by decide

theorem test_tret : (match exec (.tret (ofCR 0 0 0)) ((handling base 0x80).writeNat (slotKey 0 0 72) 8 6) with
    | .next t => t.me.pc == 0x80 && !t.me.ih && t.me.regs.w[54] == 6 | _ => false) = true := by decide

def ofCX (a : BitVec 6) : CXOps := ⟨7, 10, a, none⟩

/-- The issuer of an invalidation is a task, and a task with a greater key, which waits behind it, holds a write of the page. -/
theorem witness_waits_behind :
    let m : HeldWrite := ⟨0x1000, 8, 0x55, some .writeBack, 0, .cluster, .rlx, 0x1000, 0, 49152, 5, false⟩
    let a := { aPfu .irrevocable false with ctx := 0, held := [] }
    let u := { aPfu .finished false with ts := 9, seq := 1, held := [m] }
    let s := (pfus base [a, u]).setMe { base.me with pfu := some 0, invals := [.page 0x1000 5] }
    (s.holdsFor 0 (.page 0x1000 5) u && !s.holdsFor 0 (.page 0x1000 5) a && s.waitsBehind 0 0 0 u && nextB (.invalidationAcknowledge 0 0) s) = true := by decide

/-- A photo-finish unit's held write of a page that an invalidation names delays the acknowledgement (R78). -/
theorem witness_held_writes_delay :
    let m : HeldWrite := ⟨0x1000, 8, 0x55, some .writeBack, 0, .cluster, .rlx, 0x1000, 0, 49152, 5, false⟩
    let u := { aPfu .running false with held := [m] }
    base.holdsFor 0 (.page 0x1000 5) u = true ∧ base.holdsFor 0 (.page 0x1000 6) u = false ∧ base.irrevocable = some base := by decide

/-- Tables whose PT1 maps the page at 0 with 48 KiB, its entry writable and dirty. -/
def small : State := ((base.writeNat 0x108000 8 0x110001).writeNat 0x110000 8 0x118001).writeNat 0x118000 8 (0x6000000 + 0x5BF)

theorem witness_InvalidationsTakeEffect :
    let s := reg base 8 0x1000
    let u := s.setMyCore { s.myCore with regs := { s.myCore.regs with ascr := 0x2000000000100005 } }
    let w := s.setMe { s.me with invals := [.page 0x1000 5] }
    (issuesB (.invpg (ofCX 8)) s && issuesB (.invas (ofCX 8)) s && issuesB (.invall (ofCX 0)) s && issuesB (.invall (ofCX 0)) u) = true
      ∧ (ascrTc s.myCore.regs.ascr = true ∧ ascrTc u.myCore.regs.ascr = false ∧ s.storesDone 0 0 = true)
      ∧ (issuesB (.tlbsync (ofCX 0)) s && issuesB (.tlbsync (ofCX 0)) w && nextB (.invalidationAcknowledge 0 0) w && nextB (.tableWalk 0 0 0x1000 .read) s) = true
      ∧ (atPlace s 0x1000 1 fun p => p matches .flat _) = true := by decide

theorem witness_discard :
    let i := Instr.discard ⟨7, 10, 8, none⟩
    let s := reg (reg small 8 0) 10 1
    (issuesB i s && issuesB i (reg s 8 0x1000) && issuesB i (reg s 10 65) && s.storesDone 0 0) = true ∧ s.me.discarded = none ∧ s.me.pc = 64
      ∧ (match (s.syncL1 0 .package).discardLeaf 0 with
        | .ok l => decide (l.pa + 8 ≤ eFrame l.entry ∨ eFrame l.entry + 49152 ≤ l.pa) | .error _ => false) = true := by decide

/-- A call of function f of context 0, its block at 0x100. -/
def calling (f : Nat) (a0 : Word) (ok : Bool) : State :=
  base.setMe { base.me with calls := [⟨64, false, spKey 0 0x2100, f, ok, [a0, 0x1700, 0, 0, 0, 0], none⟩], wait := some .call }

theorem witness_StewardAnswersCalls :
    let s := reg base 8 sp0
    (issuesB (.swcall (ofCX 8)) s && issuesB (.swcall (ofCX 8)) (reg base 8 0x1000) && (s.callBlock sp0).isSome && (s.callBlock 0x1000).isNone) = true
      ∧ (nextB (.setvec 0 0) (calling 1 0x1000 true) && nextB (.setvec 0 0) (calling 1 4 true) && nextB (.setvec 0 0) (calling 1 0 false)
        && nextB (.setfsvc 0 0) (calling 2 0x1000 true) && nextB (.eventq 0 0) (calling 3 0 true) && nextB (.eventq 0 0) (calling 3 0x1000 true)
        && nextB (.resumefault 0 0) (calling 4 0 true) && nextB (.failfault 0 0) (calling 5 255 true) && nextB (.stepinfo 0 0) (calling 6 0 true)) = true
      ∧ (base.handlerOk 0 0x1000 = true ∧ base.handlerOk 0 4 = false ∧ ascrTc (base.core 0).regs.ascr = true ∧ base.pack.steward.up = true)
      ∧ (let d := calling 9 0 true
        nextB .infieldRestart { d with pack := { d.pack with steward := { d.pack.steward with up := false } } }) = true
      ∧ (let d := fun spare => base.setCluster 0 { base.cluster 0 with spareUsed := spare }
        let down := fun (d : State) => { d with pack := { d.pack with steward := { d.pack.steward with up := false, journal := [.loss 0 0 [(1, some 0)]] } } }
        (match exec .infieldRestart (down (d none)) with | .next t => (t.cluster 0).spareUsed == some 0 && !(t.core 0).lost | _ => false)
          && (match exec .infieldRestart (down (d (some 3))) with | .next t => (t.cluster 0).withheld | _ => false)) = true
      ∧ nextB .infieldRestart { base with pack := { base.pack with steward := { base.pack.steward with up := false } } } = true := by decide +kernel

/-! ### Homes, planes, other packages, the host, power, boot -/

def wr8 (v : Word) : PortOp := ⟨true, 8, v, .none⟩

/-- Slice h is flushing, and slice k does not serve. -/
def sliced (h : Nat) (st : SliceState) : State :=
  { base with pack := { base.pack with slices := (List.replicate 50 Slice.reset).set h { Slice.reset with state := st } } }

theorem witness_homes :
    let m := base.setMyCore { base.myCore with moved := [⟨0x1000, wr8 1, 0⟩] }
    let r : State := { base with pack := { base.pack with routes := [(21, 0x20)] } }
    (r.lineHeld 0 0x1000 = false ∧ r.servedFrom 0 (homeSlice (r.cluster 0).sliceMap (bucketOf 0x1000)) (bucketOf 0x1000) = true ∧ agreesB r = true)
      ∧ base.servedFrom 0 21 (bucketOf 0x1000) = false
      ∧ (nextB (.sliceRequest 0 0x1000 (wr8 7)) r && nextB (.sliceRequest 0 0x1000 (wr8 7)) base && nextB (.sliceRequest 0 0 (wr8 7)) (sliced 0 .retired) && nextB (.movedAnswer 0) m
        && nextB (.scratchpadAccess 1199 524280 (wr8 7)) base && nextB (.expanderAccess 49 33552376 (wr8 7)) base && nextB (.packCompaction 49) base
        && nextB (.patrolScrub 0 .none) base && nextB (.patrolScrub 0 .corrected) base && nextB (.patrolScrub 1 .none) base) = true
      ∧ tabGetD ({ base with pack := { base.pack with channels := [(0, { Channel.reset with rowErrors := [(5, 3)] })] } }.channel 0).rowErrors 5 0 = 3
      ∧ (channelOffset 0 = 0 ∧ channelOffset 48 = 48 ∧ noSlotB base (spKey 1199 524280) 8 = true ∧ noSlotB base (spKey 0 0x2000) 8 = true)
      ∧ (sliced 0 .retired).servedFrom 0 0 (bucketOf 0) = false
      ∧ 5 ∈ ({ base with pack := { base.pack with channels := [(319, { Channel.reset with bad := [5] })] } }.channel 319).bad := by decide

theorem witness_slices_and_planes :
    let q := fun p : Planes => { base with pack := { base.pack with planes := p } }
    let r := Planes.reset
    (nextB (.sliceRetirement 3) base && nextB (.sliceMapInstall 3) (sliced 3 .flushing)) = true
      ∧ (nextB (.linkRetry 0 0 1 false) base && nextB (.linkRetry 0 0 1 true) (q { r with retries := [(linkKey 0 0 1, 15)] })
        && nextB (.planePowerOn 1) base && nextB (.planePowered 1) (q { r with powering := 2 }) && nextB (.planePowerOff 1) (q { r with on := 3 })
        && nextB (.planeRetirement 0) (q { r with retries := [(linkKey 0 0 1, 16)] })) = true
      ∧ routerNeighbour 0 1 ≠ none := by decide

/-- A slice holds the sector at 0x1000, whose line is 21; a context waits for a line that slice 3 carries. -/
theorem witness_held_and_carried :
    let s : State := { base with pack := { base.pack with flines := [(21, ⟨15, 0, List.replicate 192 0, 0, 1⟩)] } }
    let w : State := { sliced 3 .flushing with pack := { (sliced 3 .flushing).pack with
      slices := listSet (sliced 3 .flushing).pack.slices 3 { Slice.reset with state := .flushing, gaining := [(bucketOf (192 * 1024), 4)] } } }
    let c := w.setMe { w.me with wait := some (.carried 1024) }
    (s.sliceHolds 0x1000).isSome = true ∧ base.sliceHolds 0x1000 = none ∧ 0x1000 / 48 * 48 = 48 * 85
      ∧ ((s.sliceHolds (85 * 48)).isSome && nextB (.patrolScrub 85 .uncorrectable) s && nextB (.patrolScrub 85 .uncorrectable) base) = true
      ∧ (c.pack.steward.up && !c.holdsDirty 3 && (tabGet (c.slice 3).gaining (bucketOf (192 * 1024))).isSome && nextB (.sliceMapInstall 3) c) = true := by decide

/-- R53's worked example: the last backed byte's line, stripe, channel, stack, channel of the stack and die; and the inverse. -/
theorem test_address_functions :
    let pa := 858993438719
    lineOf pa = 4473924159 ∧ slotOf pa = 13981012 ∧ channelOf pa = 253 ∧ stackOf (channelOf pa) = 7 ∧ channelInStack (channelOf pa) = 29
      ∧ dieOfStack (stackOf (channelOf pa)) = 3 ∧ channelOffset pa = 13981012 * 192 + 191 ∧ lineAddrOf 253 13981012 = 858993438720 - 192 := by decide

def remote (kind : RemoteKind) (va : Word) (cap : BitVec 16) : RemoteReq := ⟨0, 0, cap, kind, va, 0, 0x55, 15, 6, false, 2, 9⟩

def ingress (va : Word) (cap : BitVec 16) : IngressReq := ⟨3, cap, .put, va, 0, 0x55, false, 2, 0, 9⟩

theorem witness_other_packages :
    let s := podded base
    (nextB (.remoteRequest (remote .put 0xF000000000002100 8)) s && nextB (.remoteRequest (remote .notify 0 7)) s
        && nextB (.remoteRequest (remote .put 0xF000000000002100 7)) s && nextB (.remoteRequest (remote .get 0xF200000000000000 7)) s) = true
      ∧ (nextB (.ingressRequest (ingress 0x1000 8)) s && nextB (.ingressRequest { ingress 0x1000 7 with pas := 4 }) s
        && nextB (.ingressRequest (ingress 0x1000 7)) s && nextB (.ingressRequest (ingress 0x40000000000 7)) s) = true
      ∧ (s.accepts hubRouter 0 7 = true ∧ s.accepts hubRouter 0 8 = false ∧ s.ingressHeld [] (ingress 0x1000 7) = false
        ∧ s.ingressHeld [ingress 0x1000 7] (ingress 0x1000 7) = true)
      ∧ (match s.ingressServe ⟨0, 0x6000000000100005, 5⟩ (ingress 0x40000000000 7) with | .fault _ => s.freeFid == some 0 | _ => false) = true := by decide

theorem witness_migration :
    let s := podded base
    let m : Migration := ⟨0, 0, 7, 1, List.replicate 1024 0, 3, 1, 2, 9, some 7, none⟩
    let a := base.setMe { base.me with wait := some .away }
    s.partOfKey 7 = some 0 ∧ s.partOfKey 8 = none ∧ (s.cluster 0).owner = some 0 ∧ m.psize = 1
      ∧ (nextB (.migrationNotice ⟨0, 0, .accepted⟩) a && nextB (.migrationNotice ⟨0, 0, .refused⟩) a && nextB (.migrationNotice ⟨0, 0, .ended none⟩) base
        && nextB (.migrationNotice ⟨0, 0, .ended (some 7)⟩) base) = true
      ∧ nextB (.migrationNotice ⟨0, 0, .taken⟩) (base.setMyCore { base.myCore with eng := { base.myCore.eng with
          vq := [{ aCmd 0x60 [] .running with sent := [streamAway] }] } }) = true := by decide

theorem witness_host :
    let x := base.part 0
    let s := base.setPart 0 { x with aperture := [(0, 2)], doorbell := 3, fsvc := some (0, 0x2000), busy := [63] }
    (x.live && (base.core 0).launch.isSome) = true ∧ s.barPlaces 0 8 1 = some [98312] ∧ s.barPlaces 0 49152 1 = none
      ∧ (nextB (.doorbell 0 5) base && nextB (.startRegister 0 63) s && nextB (.startRegister 0 0) base && nextB (.hostBarWrite 0 2 8 [1]) s
        && nextB (.hostBarWrite 0 2 49152 [1]) s && nextB (.hostBarWrite 0 2 48 (List.replicate 48 7)) s && nextB (.hostBarRead 0 2 8 1) s && nextB (.hostBarRead 0 0 8 8) base && nextB (.doorbellPosting 0) s) = true
      ∧ (nextB (.preemption 0) base && nextB (.partitionResume 0) (base.setPart 0 { x with paused := true }) && nextB (.coreLoss 0) base) = true := by decide

/-- The service core of the partition serves faults, or the partition has none; the steward is down, or the core's cluster has used its spare. -/
theorem witness_services_and_losses :
    let down : State := { base with pack := { base.pack with steward := { base.pack.steward with up := false } } }
    let spent := base.setCluster 0 { base.cluster 0 with spareUsed := some 3 }
    let none_ := (podded base).setPart 0 { base.part 0 with fsvc := none }
    ((podded base).servesFaults 0 && !none_.servesFaults 0 && (podded base).pack.steward.up
        && (match none_.ingressServe ⟨0, 0x6000000000100005, 5⟩ (ingress 0x40000000000 7) with | .fault _ => true | _ => false)) = true
      ∧ (nextB (.coreLoss 0) down && nextB (.coreLoss 0) spent && !(base.cluster 0).withheld && (base.cluster 0).spareUsed == none) = true
      ∧ (nextB (.functionLevelReset 0) base && noTransformB (podded base) && (base.core 0).moved.isEmpty && (base.core 0).eng.vq.isEmpty
        && (base.cluster 0).owner == some 0) = true
      ∧ (let o := base.setMe { base.me with wait := some .away, origin := some ⟨2, 9, none⟩ }
        nextB (.migrationNotice ⟨0, 0, .accepted⟩) o) = true := by decide

theorem test_doorbell : (match exec (.doorbell 0 0x10005) (base.setPart 0 { base.part 0 with doorbell := 8 }) with
    | .next t => (t.part 0).doorbell == 13 | _ => false) = true := by decide

theorem witness_PowerAndBootEventsComeAbout :
    let h : State := { base with pack := { base.pack with power := { base.pack.power with limited := true, islands := base.pack.power.islands.set 0 ⟨800, 1600, true⟩ } } }
    (nextB (.powerLoss none none) base && nextB .powerManagerTick { base with cycle := 6400 } && nextB .thermalLimit base && nextB .thermalLimitLift h
        && nextB (.operatingPointChangeEnd 0) h && nextB .thermalShutdown base) = true
      ∧ base.pack.power.islands.length = 16 ∧ base.pack.power.stopped = false ∧ base.pack.steward.up = true ∧ base.pack.slices.length = 50
      ∧ (base.part 0).live = true ∧ base.regionFree 273066 = true
      ∧ (nextB (.registerWrite .plctl 15) base && nextB (.registerWrite (.route 49 49) 0x28) base && nextB (.registerWrite (.readOnly 0 24) 1) base
        && nextB (.registerWrite (.ascr 1199) 1) base && nextB (.registerWrite (.channelMeta 319 7) 1) base) = true := by decide

/-- An image (R391) of one native section, a bundle of two NOPs; its key ids and signatures are zeros. -/
def anImage (magic : Byte) : ImageInput :=
  let z := fun n : Nat => List.replicate n (0 : Byte)
  let h := bytesOf [(2, 1), (2, 1), (4, archRevision), (4, 0), (8, 5), (4, 0), (4, 0), (8, 168)]
  let bs := [magic, 0x48, 0x52, 0x43] ++ h ++ z 88 ++ bytesOf [(8, 2), (8, 160), (8, 8), (8, 0xC00000)] ++ bytesOf [(8, 0)] ++ z 3373
  ⟨bs, [z 64], [z 3309], [(0xC00000, 0xC00000)], [], 0, launchRec⟩

/-- It passes the checks of R392 with those keys, and fails the first without its magic number and the third without the keys. -/
theorem witness_images :
    let k := [List.replicate 32 (0 : Byte)]
    imageFails (anImage 0x43) k k 0 true = none ∧ imageFails (anImage 0) k k 0 true = some (1, 0) ∧ imageFails (anImage 0x43) [] k 0 true = some (3, 0)
      ∧ Part.reset.isvMin = 0 ∧ Part.reset.world = true ∧ Part.reset.busy = [] := by decide +kernel

theorem witness_channel_metadata : (base.channel 319).meta_.length = 8 := by decide

/-- R185: an f16 result of 2^−20 is subnormal in its format; the flush keeps the sign. Without FZ it is 2^4 × 2^−24. -/
theorem test_narrow_result_flush :
    Fmt.encodeFz .f16 true (.f (.fin true 1 (-20))) = (0x8000, { flush := 1, uf := 1, ix := 1 })
      ∧ (Fmt.encodeFz .f16 false (.f (.fin true 1 (-20)))).1 = 0x8010 := by decide

end Sys2Proof.Tests
end

/-! PROOFS. The guard (R16 step 1, R23): what the decoder reads as an instruction's guard, what a guard field selects, and that an
instruction whose guard is false is done with no effect. -/

namespace Sys2Proof.Proofs

open Sys2Proof.Machine Sys2Proof.Claims

/-! ## The guard field of a word -/

/-- Every SYS function reads its guard where the other C-slot words have it. -/
theorem guard_of_shapeSys {w : W32} {lit : Option W32} {i : Instr} (h : shapeSys w lit = some i) : i.fields.guard = guardC w := by
  unfold shapeSys at h
  split at h <;> cases h <;> rfl

/-- Bits 23:20 are the guard of whatever instruction a C-slot word names (R19, R23). -/
theorem guard_of_shapeC {w : W32} {lit : Option W32} {i : Instr} (h : shapeC w lit = some i) : i.fields.guard = guardC w := by
  unfold shapeC at h
  split at h
  case h_123 => exact guard_of_shapeSys h
  all_goals
    repeat' split at h
    all_goals cases h <;> rfl

/-- Bits 21:18 are the guard of whatever instruction an A-slot word names (R20, R23). -/
theorem guard_of_shapeA {w : W32} {i : Instr} (h : shapeA w = some i) : i.fields.guard = guardA w := by
  unfold shapeA at h
  split at h <;> cases h <;> rfl

/-- What is judged fit is the instruction that was judged (R46). -/
theorem eq_some_of_judge_ok {o : Option Instr} {i : Instr} (h : judge o = .ok i) : o = some i := by
  unfold judge at h
  split at h
  · cases h
  · split at h <;> cases h
    rfl

theorem guard_of_decodeC {w : W32} {lit : Option W32} {i : Instr} (h : decodeC w lit = .ok i) : i.fields.guard = guardC w :=
  guard_of_shapeC (eq_some_of_judge_ok h)

theorem guard_of_decodeA {w : W32} {i : Instr} (h : decodeA w = .ok i) : i.fields.guard = guardA w :=
  guard_of_shapeA (eq_some_of_judge_ok h)

/-! ## What a guard field selects (R23) -/

theorem guardPred_eq_mod (g : BitVec 4) : guardPred g = g.toNat % 8 := by
  simp [guardPred]

theorem pred_of_ne_seven {n : Nat} (r : Regs) (h : n ≠ 7) : r.pred n = r.g.getLsbD n := if_neg h

/-- The guard is the named predicate, negated where bit 3 is set. -/
theorem guarded_eq (s : State) (i : Instr) :
    s.guarded i = (s.viewCtx.regs.pred (guardPred i.fields.guard) != i.fields.guard.getLsbD 3) := rfl

theorem guarded_of_named {s : State} {i : Instr} (h : i.fields.guard.toNat % 8 < 7) :
    s.guarded i = (s.viewCtx.regs.g.getLsbD (i.fields.guard.toNat % 8) != i.fields.guard.getLsbD 3) := by
  rw [guarded_eq, guardPred_eq_mod, pred_of_ne_seven _ h.ne]

theorem guarded_of_always {s : State} {i : Instr} (h : i.fields.guard = 0b0111) : s.guarded i = true := by
  rw [guarded_eq, h]
  rfl

theorem guarded_of_never {s : State} {i : Instr} (h : i.fields.guard = 0b1111) : s.guarded i = false := by
  rw [guarded_eq, h]
  rfl

/-- Nobody owes g7, which "never" names, so such an instruction does not wait for its guard (R25, R101). -/
theorem predPending_of_never {g : BitVec 4} (r : Regs) (h : g = 0b1111) : r.predPending (guardPred g) = false := by
  rw [h]
  rfl

/-! ## A false guard (R16 step 1) -/

/-- An instruction with an encoding issues through `runInstr`, directly or, RELAY and RELAY.RESUME, through `relayOp`. -/
theorem exec_issues {i : Instr} (s : State) (h : i.isEvent = false) :
    (∃ body, exec i s = runInstr i s body) ∨ ∃ resume, exec i s = relayOp i resume s := by
  cases i <;> try contradiction
  case relay o => exact .inr ⟨false, rfl⟩
  case relayResume o => exact .inr ⟨true, rfl⟩
  -- The body is a `let` so that unification compares two terms without metavariables and unfolds the meaning down to `runInstr`.
  all_goals exact .inl (let body := _; ⟨body, rfl⟩)

/-- RELAY waits for its relay only where the context does (R283): a false guard leaves no such wait. -/
theorem relayOp_unguarded {i : Instr} {s : State} (resume : Bool) (hl : s.me.live = true) (hw : s.me.wait = none)
    (hp : s.viewCtx.regs.predPending (guardPred i.fields.guard) = false) (hg : s.guarded i = false) :
    relayOp i resume s = .next { s with issue := .done } := by
  have hme : State.me { s with issue := .done } = s.me := rfl
  simp [relayOp, runInstr_unguarded _ hl hp hg, hme, hw]

/-- An instruction whose guard is false has no effect of any kind, whatever it is. -/
theorem exec_unguarded {i : Instr} {s : State} (hi : i.isEvent = false) (hl : s.me.live = true) (hw : s.me.wait = none)
    (hp : s.viewCtx.regs.predPending (guardPred i.fields.guard) = false) (hg : s.guarded i = false) :
    exec i s = .next { s with issue := .done } := by
  obtain ⟨body, hx⟩ | ⟨resume, hx⟩ := exec_issues s hi
  · rw [hx, runInstr_unguarded body hl hp hg]
  · rw [hx, relayOp_unguarded resume hl hw hp hg]

/-! ## A bundle with a slot guarded by never (R18) -/

theorem illegalBundle_of_neverC {b : Bundle} (h : guardC b.w0 = 15) : illegalBundle b = none := by
  simp [illegalBundle, namedC, h]

theorem illegalBundle_of_neverA {b : Bundle} (h : guardA b.w1 = 15) : illegalBundle b = none := by
  cases hc : namedC b <;> simp [illegalBundle, namedA, h, hc]

/-! ## The statement -/

/-- Settles O25: the guard field is that of the word, it selects as R23 says, and `exec` meets a false guard with no effect because every
instruction with an encoding issues through `runInstr`. -/
theorem guardFieldSelectsAPredicate : Obligations.GuardFieldSelectsAPredicate := by
  unfold Obligations.GuardFieldSelectsAPredicate
  refine ⟨fun s i => ⟨guarded_of_named, guarded_of_always, fun h => ⟨guarded_of_never h, predPending_of_never _ h⟩, exec_unguarded⟩,
    ?_, fun _ _ _ => guard_of_decodeC, fun _ _ => guard_of_decodeA⟩
  rintro b (h | ⟨-, h⟩)
  · exact illegalBundle_of_neverC h
  · exact illegalBundle_of_neverA h

end Sys2Proof.Proofs

/-! PROOFS. Integer instructions (R190): what the model computes on W-bit vectors and fills, said of integers and of bits; then the
bitwise instructions, shifts and immediate forms (R194, R195), bit fields (R199), division (R197) and RNDC (R200). -/

namespace Sys2Proof.Proofs

open Sys2Proof.Machine Sys2Proof.Safety Sys2Proof.Claims

/-! ## Operands and results as W-bit vectors -/

/-- The W-bit operand (R190). -/
def operand (t : BitVec 3) (v : Word) : BitVec (width t) := v.setWidth (width t)

/-- A W-bit result filled to 64 bits (R190). -/
def fillTo (t : BitVec 3) (r : BitVec (width t)) : Word := if isN t then r.setWidth 64 else r.signExtend 64

theorem width_eq_or (t : BitVec 3) : width t = 32 ∨ width t = 64 := by
  unfold width
  split <;> simp

theorem width_pos (t : BitVec 3) : 0 < width t := by
  rcases width_eq_or t with h | h <;> omega

theorem width_le (t : BitVec 3) : width t ≤ 64 := by
  rcases width_eq_or t with h | h <;> omega

theorem width_dvd_two_pow (t : BitVec 3) : width t ∣ 2 ^ width t := by
  rcases width_eq_or t with h | h <;> rw [h] <;> decide

/-- Filling a W-bit result is what the model does for its two widths. -/
theorem fillTo_eq (t : BitVec 3) (r : (w : Nat) → BitVec w) :
    fillTo t (r (width t)) = if isW64 t then r 64 else fill32 (isN t) (r 32) := by
  unfold fillTo isW64 width
  generalize t.getLsbD 0 = wide
  cases wide with
  | false => rfl
  | true => exact (ite_congr rfl (fun _ => BitVec.setWidth_eq _) fun _ => BitVec.signExtend_eq _).trans (ite_self _)

/-- An operation of the model is its W-bit function, filled. -/
theorem intOp_eq_fillTo (f : (w : Nat) → Bool → BitVec w → BitVec w → BitVec w) (t : BitVec 3) (a b : Word) :
    intOp f t a b = fillTo t (f (width t) (isN t) (operand t a) (operand t b)) := by
  rw [operand, operand, fillTo_eq t fun w => f w (isN t) (a.setWidth w) (b.setWidth w), BitVec.setWidth_eq, BitVec.setWidth_eq, intOp]

theorem bfiOf_eq_fillTo (t : BitVec 3) (d a b : Word) :
    bfiOf t d a b = fillTo t (bfiBits (width t) (operand t d) (operand t a) (operand t b)) := by
  rw [operand, operand, operand, fillTo_eq t fun w => bfiBits w (d.setWidth w) (a.setWidth w) (b.setWidth w), BitVec.setWidth_eq,
    BitVec.setWidth_eq, BitVec.setWidth_eq, bfiOf]

@[simp] theorem fillTo_zero (t : BitVec 3) : fillTo t 0 = 0 := by
  unfold fillTo
  split <;> simp [BitVec.signExtend]

@[simp] theorem operandBit_eq_getLsbD (t : BitVec 3) (v : Word) (k : Nat) : operandBit t v k = (operand t v).getLsbD k := by
  simp [operandBit, operand]

theorem operandInt_eq (t : BitVec 3) (v : Word) :
    operandInt t v = if isN t then ((operand t v).toNat : Int) else (operand t v).toInt := by
  simp [operandInt, operand, isN, BitVec.toInt_eq_toNat_cond]

@[simp] theorem ofInt_operandInt (t : BitVec 3) (v : Word) : BitVec.ofInt (width t) (operandInt t v) = operand t v := by
  rw [operandInt_eq]
  split <;> simp

/-- An integer reduced modulo 2^W and filled is its W-bit vector, filled. -/
theorem filled_eq_fillTo (t : BitVec 3) (r : Int) : filled t r = fillTo t (BitVec.ofInt (width t) r) := by
  have hm : r % 2 ^ width t = ((BitVec.ofInt (width t) r).toNat : Int) := by
    rw [BitVec.toNat_ofInt, Int.toNat_of_nonneg (Int.emod_nonneg _ (by positivity))]
    norm_cast
  unfold filled fillTo isN
  simp only [hm]
  split
  · rw [BitVec.ofInt_natCast, BitVec.ofNat_toNat]
  · rw [BitVec.signExtend, BitVec.toInt_eq_toNat_cond, apply_ite (BitVec.ofInt 64)]
    norm_cast

/-- The sum of a vector's low bits, each with its weight, is the vector's low part. -/
theorem foldl_bits_eq_mod {w : Nat} (r : BitVec w) (n : Nat) :
    (List.range n).foldl (fun m k => m + if r.getLsbD k then 2 ^ k else 0) 0 = r.toNat % 2 ^ n := by
  induction n with
  | zero => simp [Nat.mod_one]
  | succ n ih =>
    rw [List.range_succ, List.foldl_append, ih, Nat.mod_pow_succ, ← Nat.toNat_testBit, BitVec.testBit_toNat]
    cases h : r.getLsbD n <;> simp [h]

/-- A pattern given by its bits is the W-bit vector with these bits, filled. -/
theorem fromBits_eq_fillTo {t : BitVec 3} {f : Nat → Bool} {r : BitVec (width t)} (h : ∀ j < width t, r.getLsbD j = f j) :
    fromBits t f = fillTo t r := by
  have hf : (List.range (width t)).foldl (fun m k => m + if f k then 2 ^ k else 0) 0 = r.toNat := by
    rw [← Nat.mod_eq_of_lt r.isLt, ← foldl_bits_eq_mod]
    exact List.foldl_ext _ _ _ fun m k hk => by rw [h k (List.mem_range.mp hk)]
  rw [fromBits, hf, filledBits, filled_eq_fillTo, BitVec.ofInt_natCast, BitVec.ofNat_toNat, BitVec.setWidth_eq]

/-! ## Instructions that write one register -/

/-- An instruction of one register writes what its function makes of the operands. -/
theorem writes_of_aluA {i : Instr} {s : State} {d : BitVec 6} {f : Vals → Word} {v : Word} (hx : exec i s = aluA i d f s)
    (hi : Issues i s) (hv : v = f (valsOf i s)) : Writes i s d v := by
  subst hv
  exact hx.trans (runInstr_ok hi rfl)

section ValueOfAnOperation

variable {i : Instr} {o : AOps} {s : State} {f : (w : Nat) → Bool → BitVec w → BitVec w → BitVec w} {v : Word} {g : Nat → Bool}

/-- A two-source instruction writes its W-bit function of a and b, filled. -/
theorem writes_of_intA (hx : exec i s = intA i o f s) (hi : Issues i s)
    (hv : v = fillTo o.t (f (width o.t) (isN o.t) (operand o.t (valsOf i s).a) (operand o.t (valsOf i s).b))) : Writes i s o.d v :=
  writes_of_aluA hx hi (hv.trans (intOp_eq_fillTo ..).symm)

theorem writes_bits_of_intA (hx : exec i s = intA i o f s) (hi : Issues i s)
    (hf : ∀ j < width o.t, (f (width o.t) (isN o.t) (operand o.t (valsOf i s).a) (operand o.t (valsOf i s).b)).getLsbD j = g j) :
    Writes i s o.d (fromBits o.t g) :=
  writes_of_intA hx hi (fromBits_eq_fillTo hf)

/-- The 64-bit immediate of the model, cut to W bits, is the b field extended to W bits. -/
theorem operand_signExtend (t : BitVec 3) (b : BitVec 6) : operand t (b.signExtend 64) = b.signExtend (width t) := by
  have hw := width_le t
  ext j hj
  have h64 : j < 64 := by omega
  simp [operand, BitVec.getElem_signExtend, h64]

/-- An immediate form writes its W-bit function of a and k, the signed b field (R195). -/
theorem writes_of_immA (hx : exec i s = immA i o f s) (hi : Issues i s)
    (hv : v = fillTo o.t (f (width o.t) (isN o.t) (operand o.t (valsOf i s).a) (o.b.signExtend (width o.t)))) : Writes i s o.d v :=
  writes_of_aluA hx hi (by rw [hv, intOp_eq_fillTo, operand_signExtend])

theorem writes_bits_of_immA (hx : exec i s = immA i o f s) (hi : Issues i s)
    (hf : ∀ j < width o.t, (f (width o.t) (isN o.t) (operand o.t (valsOf i s).a) (o.b.signExtend (width o.t))).getLsbD j = g j) :
    Writes i s o.d (fromBits o.t g) :=
  writes_of_immA hx hi (fromBits_eq_fillTo hf)

end ValueOfAnOperation

/-! ## The bits of ANDN, and of a shift by a count -/

theorem getLsbD_opAndn {w j : Nat} (n : Bool) (x y : BitVec w) (hj : j < w) :
    (opAndn w n x y).getLsbD j = (x.getLsbD j && !y.getLsbD j) := by
  rw [opAndn, BitVec.getLsbD_and, BitVec.getLsbD_not, decide_eq_true hj, Bool.true_and]

section Shifts

variable {w c j : Nat} (n : Bool) (x : BitVec w) {y : BitVec w}

theorem getLsbD_opShl (hc : y.toNat % w = c) (hj : j < w) : (opShl w n x y).getLsbD j = (decide (c ≤ j) && x.getLsbD (j - c)) := by
  rw [opShl, hc, BitVec.getLsbD_shiftLeft, ← decide_not]
  simp [hj]

theorem getLsbD_opShr (hc : y.toNat % w = c) : (opShr w n x y).getLsbD j = x.getLsbD (j + c) := by
  simp [opShr, hc, Nat.add_comm]

theorem getLsbD_opSar (hc : y.toNat % w = c) (hj : j < w) :
    (opSar w n x y).getLsbD j = if j + c < w then x.getLsbD (j + c) else x.getLsbD (w - 1) := by
  rw [opSar, hc, BitVec.getLsbD_sshiftRight, BitVec.msb_eq_getLsbD_last, Nat.add_comm c j]
  simp [hj]

theorem getLsbD_opRot (hc : y.toNat % w = c) (hj : j < w) : (opRot w n x y).getLsbD j = x.getLsbD ((j + w - c) % w) := by
  have hcw : c < w := hc ▸ Nat.mod_lt _ (by omega)
  rw [opRot, hc, BitVec.getLsbD_rotateLeft_of_le hcw]
  by_cases h : j < c
  · have he : (j + w - c) % w = w - c + j := by rw [Nat.mod_eq_of_lt (by omega)]; omega
    simp [h, he]
  · have he : (j + w - c) % w = j - c := by
      rw [show j + w - c = j - c + w by omega, Nat.add_mod_right, Nat.mod_eq_of_lt (by omega)]
    simp [h, he, hj]

end Shifts

/-- A register's shift count modulo W: the W-bit operand has the low bits of the register. -/
theorem count_operand (t : BitVec 3) (b : Word) : (operand t b).toNat % width t = b.toNat % width t := by
  rw [operand, BitVec.toNat_setWidth, Nat.mod_mod_of_dvd _ (width_dvd_two_pow t)]

/-- An immediate shift count: k modulo W. -/
theorem count_immediate (t : BitVec 3) (b : BitVec 6) :
    (b.signExtend (width t)).toNat % width t = (b.toInt % width t).toNat := by
  have hd : ((width t : Nat) : Int) ∣ ((2 ^ width t : Nat) : Int) := Int.natCast_dvd_natCast.mpr (width_dvd_two_pow t)
  have h2 : ((2 ^ width t : Nat) : Int) ≠ 0 := by positivity
  rw [BitVec.signExtend, BitVec.toNat_ofInt]
  apply Int.natCast_inj.mp
  have hw : (width t : Int) ≠ 0 := by have := width_pos t; omega
  rw [Int.natCast_emod, Int.toNat_of_nonneg (Int.emod_nonneg _ h2), Int.emod_emod_of_dvd _ hd,
    Int.toNat_of_nonneg (Int.emod_nonneg _ hw)]

/-- Bits of the sign extension of the b field: bit 5 is repeated. -/
theorem getLsbD_signExtend_min {w j : Nat} (b : BitVec 6) (hj : j < w) : (b.signExtend w).getLsbD j = b.getLsbD (min j 5) := by
  rw [BitVec.getLsbD_signExtend, BitVec.msb_eq_getLsbD_last]
  by_cases h : j < 6
  · simp [hj, h, Nat.min_eq_left (show j ≤ 5 by omega)]
  · simp [hj, h, Nat.min_eq_right (show 5 ≤ j by omega)]

/-! ## The statement on R194 and R195 -/

/-- Settles O9: each instruction writes the bits of its W-bit function, ADDI the W-bit sum. -/
theorem bitwiseShiftAndImmediateResults : Obligations.BitwiseShiftAndImmediateResults := by
  unfold Obligations.BitwiseShiftAndImmediateResults
  intro o s _
  simp only [operandBit_eq_getLsbD]
  refine ⟨?and, ?or, ?xor, ?andn, ?shl, ?shr, ?sar, ?rot, ?addi, ?andi, ?shli, ?shri, ?sari, rfl, rfl, rfl, rfl, rfl⟩
  case and => exact fun hi => writes_bits_of_intA rfl hi fun j _ => BitVec.getLsbD_and
  case or => exact fun hi => writes_bits_of_intA rfl hi fun j _ => BitVec.getLsbD_or
  case xor => exact fun hi => writes_bits_of_intA rfl hi fun j _ => BitVec.getLsbD_xor
  case andn => exact fun hi => writes_bits_of_intA rfl hi fun j hj => getLsbD_opAndn _ _ _ hj
  case shl => exact fun hi => writes_bits_of_intA rfl hi fun j hj => getLsbD_opShl _ _ (count_operand ..) hj
  case shr => exact fun hi => writes_bits_of_intA rfl hi fun j _ => getLsbD_opShr _ _ (count_operand ..)
  case sar => exact fun hi => writes_bits_of_intA rfl hi fun j hj => getLsbD_opSar _ _ (count_operand ..) hj
  case rot => exact fun hi => writes_bits_of_intA rfl hi fun j hj => getLsbD_opRot _ _ (count_operand ..) hj
  case addi =>
    refine fun hi => writes_of_immA rfl hi ?_
    rw [filled_eq_fillTo, BitVec.ofInt_add, ofInt_operandInt, opAdd, BitVec.signExtend]
  case andi =>
    refine fun hi => writes_bits_of_immA rfl hi fun j hj => ?_
    rw [opAnd, BitVec.getLsbD_and, getLsbD_signExtend_min _ hj]
    rfl
  case shli => exact fun hi => writes_bits_of_immA rfl hi fun j hj => getLsbD_opShl _ _ (count_immediate ..) hj
  case shri => exact fun hi => writes_bits_of_immA rfl hi fun j _ => getLsbD_opShr _ _ (count_immediate ..)
  case sari => exact fun hi => writes_bits_of_immA rfl hi fun j hj => getLsbD_opSar _ _ (count_immediate ..) hj

/-! ## Bit fields (R199) -/

/-- The field of a W-bit operand: pos and L are read from the low 15 bits of b, which the operand keeps. -/
theorem fieldSpec_operand (t : BitVec 3) (b : Word) :
    fieldSpec (width t) (operand t b)
      = (b.toNat % 64 % width t, min (b.toNat / 256 % 128) (width t - b.toNat % 64 % width t)) := by
  have h : (operand t b).toNat % 64 = b.toNat % 64 ∧ (operand t b).toNat / 256 % 128 = b.toNat / 256 % 128 := by
    rw [operand, BitVec.toNat_setWidth]
    rcases width_eq_or t with hw | hw <;> rw [hw] <;> omega
  obtain ⟨hpos, hlen⟩ := h
  simp [fieldSpec, hpos, hlen]

/-- The signed reading of a vector's number is the vector's own. -/
theorem signed_toNat {w : Nat} (x : BitVec w) (hw : w ≠ 0) : signed w x.toNat = x.toInt := by
  have h2 : 2 ^ w = 2 * 2 ^ (w - 1) := (mul_pow_sub_one hw 2).symm
  rw [signed, Nat.mod_eq_of_lt x.isLt, BitVec.toInt_eq_toNat_cond]
  split_ifs <;> omega

theorem opBfx_of_empty {w pos L : Nat} (n : Bool) (x : BitVec w) {y : BitVec w} (hf : fieldSpec w y = (pos, L)) (hL : L = 0) :
    opBfx w n x y = 0 := by
  rw [opBfx, hf, if_pos hL]

/-- A nonempty field is cut out of the operand and extended. -/
theorem opBfx_eq_extract {w pos L : Nat} (n : Bool) (x : BitVec w) {y : BitVec w} (hf : fieldSpec w y = (pos, L)) (hL : L ≠ 0) :
    opBfx w n x y = if n then (x.extractLsb' pos L).setWidth w else (x.extractLsb' pos L).signExtend w := by
  have hx : x.toNat / 2 ^ pos % 2 ^ L = (x.extractLsb' pos L).toNat := by
    rw [BitVec.extractLsb'_toNat, Nat.shiftRight_eq_div_pow]
  simp only [opBfx, hf, if_neg hL, hx, signed_toNat _ hL, BitVec.ofNat_toNat, BitVec.signExtend]

theorem getLsbD_opBfx {w pos L j : Nat} (n : Bool) (x : BitVec w) {y : BitVec w} (hf : fieldSpec w y = (pos, L)) (hL : L ≠ 0) (hj : j < w) :
    (opBfx w n x y).getLsbD j = if j < L then x.getLsbD (pos + j) else !n && x.getLsbD (pos + L - 1) := by
  have hp : pos + (L - 1) = pos + L - 1 := by omega
  rw [opBfx_eq_extract n x hf hL]
  cases n with
  | true => simp [hj]
  | false =>
    rw [if_neg Bool.false_ne_true, BitVec.getLsbD_signExtend, BitVec.msb_eq_getLsbD_last]
    simp +contextual [hj, hp, Nat.pos_of_ne_zero hL]

/-- Bits of the mask that BFI replaces under: L ones at pos. -/
theorem testBit_fieldMask (pos L j : Nat) : ((2 ^ L - 1) * 2 ^ pos).testBit j = (decide (pos ≤ j) && decide (j < pos + L)) := by
  rw [Nat.testBit_mul_two_pow, Nat.testBit_two_pow_sub_one]
  by_cases h : pos ≤ j
  · simp [h, Nat.sub_lt_iff_lt_add' h]
  · simp [h]

theorem getLsbD_bfiBits {w pos L j : Nat} (d x : BitVec w) {y : BitVec w} (hf : fieldSpec w y = (pos, L)) (hj : j < w) :
    (bfiBits w d x y).getLsbD j = if decide (pos ≤ j) && decide (j < pos + L) then x.getLsbD (j - pos) else d.getLsbD j := by
  simp only [bfiBits, hf]
  by_cases hL : L = 0
  · have h : ¬(pos ≤ j ∧ j < pos + L) := by omega
    rw [if_pos hL, if_neg (by simpa using h)]
  · rw [if_neg hL, BitVec.getLsbD_or, BitVec.getLsbD_and, BitVec.getLsbD_and, BitVec.getLsbD_not, BitVec.getLsbD_ofNat,
      BitVec.getLsbD_shiftLeft, testBit_fieldMask]
    by_cases h : pos ≤ j <;> by_cases h' : j < pos + L <;> simp [hj, h, h', Nat.not_lt.mpr]

/-- Settles O11: BFX extends the extracted field, and BFI takes its bits under the field's mask. -/
theorem bitFieldResults : Obligations.BitFieldResults := by
  unfold Obligations.BitFieldResults
  intro o s _
  simp only [operandBit_eq_getLsbD]
  refine ⟨fun hi => ?bfx, fun hi => ?bfi, rfl, rfl⟩
  case bfx =>
    have hf := fieldSpec_operand o.t (valsOf (.bfi o) s).b
    split_ifs with hL
    · exact writes_of_intA rfl hi ((fillTo_zero o.t).symm.trans (congrArg _ (opBfx_of_empty _ _ hf hL).symm))
    · exact writes_bits_of_intA rfl hi fun j hj => getLsbD_opBfx _ _ hf hL hj
  case bfi =>
    refine writes_of_aluA (f := fun v => bfiOf o.t v.d v.a v.b) rfl hi ?_
    rw [bfiOf_eq_fillTo]
    exact fromBits_eq_fillTo fun j hj => getLsbD_bfiBits _ _ (fieldSpec_operand ..) hj

/-! ## Quotients and remainders (R197) -/

theorem operandInt_eq_zero_iff (t : BitVec 3) (v : Word) : operandInt t v = 0 ↔ operand t v = 0 := by
  constructor <;> intro h
  · rw [← ofInt_operandInt, h]
    rfl
  · simp [operandInt_eq, h]

theorem divByZero_iff (t : BitVec 3) (b : Word) : divByZero t b = true ↔ operand t b = 0 := by
  unfold divByZero operand isW64 width
  generalize t.getLsbD 0 = wide
  cases wide <;> simp

theorem ofInt_tdiv_toInt {w : Nat} (x y : BitVec w) : BitVec.ofInt w (x.toInt.tdiv y.toInt) = x.sdiv y := by
  rw [← BitVec.toInt_inj, BitVec.toInt_sdiv, BitVec.toInt_ofInt]

theorem ofInt_tmod_toInt {w : Nat} (x y : BitVec w) : BitVec.ofInt w (x.toInt.tmod y.toInt) = x.srem y := by
  rw [← BitVec.toInt_srem, BitVec.ofInt_toInt]

theorem ofInt_tdiv_toNat {w : Nat} (x y : BitVec w) : BitVec.ofInt w ((x.toNat : Int).tdiv y.toNat) = x / y := by
  rw [← Int.ofNat_tdiv, BitVec.ofInt_natCast, ← BitVec.toNat_udiv, BitVec.ofNat_toNat, BitVec.setWidth_eq]

theorem ofInt_tmod_toNat {w : Nat} (x y : BitVec w) : BitVec.ofInt w ((x.toNat : Int).tmod y.toNat) = x % y := by
  rw [← Int.ofNat_tmod, BitVec.ofInt_natCast, ← BitVec.toNat_umod, BitVec.ofNat_toNat, BitVec.setWidth_eq]

/-- DIV's vector is the quotient truncated toward zero, or all ones. -/
theorem opDiv_eq_ofInt (t : BitVec 3) (a b : Word) : opDiv (width t) (isN t) (operand t a) (operand t b)
    = BitVec.ofInt (width t) (if operandInt t b = 0 then -1 else (operandInt t a).tdiv (operandInt t b)) := by
  unfold opDiv
  by_cases hb : operand t b = 0
  · rw [if_pos hb, if_pos ((operandInt_eq_zero_iff t b).mpr hb), BitVec.ofInt_neg, ← BitVec.neg_one_eq_allOnes]
    rfl
  · rw [if_neg hb, if_neg (mt (operandInt_eq_zero_iff t b).mp hb), operandInt_eq, operandInt_eq]
    cases isN t with
    | true => exact (ofInt_tdiv_toNat _ _).symm
    | false => exact (ofInt_tdiv_toInt _ _).symm

/-- REM's vector is the remainder with the sign of the dividend, or the dividend. -/
theorem opRem_eq_ofInt (t : BitVec 3) (a b : Word) : opRem (width t) (isN t) (operand t a) (operand t b)
    = BitVec.ofInt (width t) (if operandInt t b = 0 then operandInt t a else (operandInt t a).tmod (operandInt t b)) := by
  unfold opRem
  by_cases hb : operand t b = 0
  · rw [if_pos hb, if_pos ((operandInt_eq_zero_iff t b).mpr hb), ofInt_operandInt]
  · rw [if_neg hb, if_neg (mt (operandInt_eq_zero_iff t b).mp hb), operandInt_eq, operandInt_eq]
    cases isN t with
    | true => exact (ofInt_tmod_toNat _ _).symm
    | false => exact (ofInt_tmod_toInt _ _).symm

/-! ## What owing a result leaves of the context -/

/-- A core that keeps its contexts leaves the issuing context as it is. -/
theorem me_setCore_of_ctxs {s : State} {n : Nat} {c : Core} (h : c.ctxs = (s.core n).ctxs) : (s.setCore n c).me = s.me := by
  change ((s.setCore n c).core s.curCore).ctx s.curCtx = (s.core s.curCore).ctx s.curCtx
  by_cases hn : s.curCore = n
  · rw [hn, State.core_setCore, Core.ctx, h, Core.ctx]
  · rw [State.core_setCore_other _ _ hn]

@[simp] theorem me_count (s : State) (n : Nat) (e : Ev) (k : Nat) : (s.count n e k).me = s.me := by
  unfold State.count
  split
  · rfl
  · exact me_setCore_of_ctxs rfl

@[simp] theorem me_countEv (s : State) (n : Nat) (e : FEv) : (s.countEv n e).me = s.me := by
  simp [State.countEv]

@[simp] theorem me_portPush (s : State) (port : Nat) (v : Word) : (s.portPush port v).me = s.me := by
  unfold State.portPush
  split
  · rfl
  · split <;> exact me_setCore_of_ctxs rfl

/-- A value is always owed, and without sticky flags FPCR is as it was. -/
theorem oweWith_some (s : State) (d : Nat) (v : Word) (u : Option Nat) (e : FEv) :
    ∃ t, s.oweWith d (some v) none ⟨u, e, 0⟩ = .ok () t ∧ t.me.fpcr = s.me.fpcr := by
  by_cases h : d < 56
  · refine ⟨_, if_pos h, ?_⟩
    simp [State.me, State.ctx, State.setMyCore, State.myCore, Core.ctx, Core.setCtx]
  · refine ⟨_, if_neg h, ?_⟩
    simp

/-- A division owes its filled result with one ev.divzero where the divisor is zero (R189, R197). -/
theorem divA_owes {i : Instr} {o : AOps} {s : State} {f : (w : Nat) → Bool → BitVec w → BitVec w → BitVec w} {v : Vals}
    {r : Int} (hx : exec i s = divA i o f s) (hi : Issues i s) (hv : valsOf i s = v)
    (hr : f (width o.t) (isN o.t) (operand o.t v.a) (operand o.t v.b) = BitVec.ofInt (width o.t) r) :
    ∃ t, s.oweWith o.d.toNat (some (filled o.t r)) none ⟨some 0, { dz := if operandInt o.t v.b = 0 then 1 else 0 }, 0⟩ = .ok () t
      ∧ exec i s = .next (issued i s t) ∧ t.me.fpcr = s.me.fpcr := by
  obtain ⟨t, ht, hflags⟩ := oweWith_some s o.d.toNat (filled o.t r) (some 0)
    { dz := if operandInt o.t v.b = 0 then 1 else 0 }
  refine ⟨t, ht, hx.trans (runInstr_ok hi ?_), hflags⟩
  simp only [hv, intOp_eq_fillTo, hr, ← filled_eq_fillTo, divByZero_iff, ← operandInt_eq_zero_iff]
  exact ht

/-- Settles O12: both owe the W-bit vector of their integer result. -/
theorem divisionResults : Obligations.DivisionResults := by
  unfold Obligations.DivisionResults
  intro o s _
  exact ⟨fun hi => divA_owes rfl hi rfl (opDiv_eq_ofInt ..), fun hi => divA_owes rfl hi rfl (opRem_eq_ofInt ..), rfl, rfl⟩

/-! ## RNDC (R200) -/

/-- The generator's first step (R200), as a number. -/
theorem toNat_rndcStep (z : Word) :
    (z.setWidth 32 * 0x0019660D + 0x3C6EF35F : W32).toNat = (z.toNat % 2 ^ 32 * 0x0019660D + 0x3C6EF35F) % 2 ^ 32 := by
  rw [BitVec.toNat_add, BitVec.toNat_mul, BitVec.toNat_setWidth, Nat.mod_add_mod]
  rfl

/-- The generator's second step, as a number. -/
theorem setWidth_rndcMix (x : W32) : (x ^^^ (x >>> 16)).setWidth 64 = BitVec.ofNat 64 (x.toNat ^^^ (x.toNat / 2 ^ 16)) := by
  rw [← BitVec.ofNat_toNat, BitVec.toNat_xor, BitVec.toNat_ushiftRight, Nat.shiftRight_eq_div_pow]

theorem rndcOf_eq_ofNat (a b : Word) :
    let x := ((b ^^^ a).toNat % 2 ^ 32 * 0x0019660D + 0x3C6EF35F) % 2 ^ 32
    rndcOf a b = BitVec.ofNat 64 (x ^^^ (x / 2 ^ 16)) := by
  simp only [rndcOf, setWidth_rndcMix, toNat_rndcStep]

/-- A type code outside an instruction's set makes it ill-formed (R47, reason 4). -/
theorem wellFormed_of_typeOk_false {i : Instr} (h : i.rule.typeOk i.fields = false) : i.wellFormed = false := by
  simp only [Instr.wellFormed, Instr.reason, h, Bool.not_false, if_true]
  split_ifs <;> rfl

/-- The codes of the integer types are 0 to 3 (R28). -/
theorem not_integerType_of_four_le : ∀ t : BitVec 3, 4 ≤ t.toNat → (0x0F : BitVec 8).getLsbD t.toNat = false := by decide

/-- Settles O26: the W32 arithmetic of the model is arithmetic modulo 2^32, and type codes 4 to 7 show reason 4. -/
theorem randomValueOfACounter : Obligations.RandomValueOfACounter := by
  unfold Obligations.RandomValueOfACounter
  intro o s
  exact ⟨fun hi => writes_of_aluA (f := fun v => rndcOf v.a v.b) rfl hi (rndcOf_eq_ofNat ..).symm,
    fun ht => wellFormed_of_typeOk_false (not_integerType_of_four_le o.t ht), rfl⟩

end Sys2Proof.Proofs
